-- ==== Sys2Proof/Word.lean ====
section
/-! DEFINITION. The words of the Labrio 1422 that its manual treats as bits or lets wrap (spec/11 R191, spec/10 R186). -/

namespace Sys2Proof

/-- A byte of a message, a lane packet or a picture. -/
abbrev Byte := BitVec 8

/-- A 2-byte field that wraps or is read whole: a start generation, a camera frame number (R24). -/
abbrev Word16 := BitVec 16

/-- A 4-byte field that wraps: a capture sequence, a total (R24). -/
abbrev Word32 := BitVec 32

/-- A value of the time base, a 32-bit count of milliseconds that wraps (R186). -/
abbrev Time := BitVec 32

end Sys2Proof
end

