-- ==== Sys2Proof/Config.lean ====
section
/-! DEFINITION. What one implementation of the part fixes and what the manual leaves open: free values, which
no proof can evaluate. -/

namespace Sys2Proof

/-- The three totals of a camera record that count since the last CAMERA_START (R24). -/
inductive CameraTotal where
  | published | damaged | skipped
  deriving DecidableEq, Repr

/-- The revision of the part, which PART_INFO and START report (R187, R189). The manual gives no value (log 10). -/
opaque Config.revision : Byte

/-- What a total of a camera record holds after a rise from 4294967295, which the manual does not state (R24 gives the
range alone). A free value of the total, the camera and the moment (log 11). -/
opaque Config.totalPastRange : CameraTotal → Nat → Nat → Word32

/-- Whether the scaled length of a picture side on a screen, a stored length times a numerator over a denominator, is rounded
up where it is no whole number of pixels; else it is rounded down. R97 keeps the proportions and leaves the rounding open
(log 29). -/
opaque Config.roundsUp : Nat → Nat → Nat → Bool

/-- Whether the odd pixel stands before a picture side of the second length, centred in a rectangle side of the first, where
their difference is odd; else it stands behind it. R97 leaves it open (log 29). -/
opaque Config.oddPixelBefore : Nat → Nat → Bool

/-- The luminance of the pixel at a place of a camera frame that is scaled to another width and height, from the frame's
luminance bytes as stored, its width and height, the width and height it is scaled to and the place. R97 does not say how a
frame is resampled (log 29). -/
opaque Config.scaledLuminance : (Nat → Nat → Byte) → Nat → Nat → Nat → Nat → Nat → Nat → Byte

/-- The chroma of that pixel, from the frame's chroma bytes as stored (log 29). -/
opaque Config.scaledChroma : (Nat → Nat → Byte) → Nat → Nat → Nat → Nat → Nat → Nat → Byte

/-- Whether a label, not empty, drawn along the bottom edge of a tile of some width covers the pixel at a distance from the left edge
and a distance up from the bottom edge. No rule gives the glyphs or their size (log 29). -/
opaque Config.labelCovers : List Byte → Nat → Nat → Nat → Bool

/-- Whether a row of markers, not empty, by the number of each in the order of R98 and the n of OVERFLOW(n), drawn along the top edge of
a tile of some width covers the pixel at a distance from the left edge and a distance down from the top edge. No rule gives
the glyphs or their size (log 29). -/
opaque Config.markersCover : List Nat → Nat → Nat → Nat → Nat → Bool

end Sys2Proof
end

