-- ==== Sys2Proof/Syntax.lean ====
section
/-! DEFINITION. The commands of the part: one constructor of `Instr` for each row of spec/opcode_table.json, with the
operands the row's event has. -/

namespace Sys2Proof

/-- A camera port, and the camera on it: 0–13. -/
abbrev Cam := Fin 14

/-- A screen composer and its screen output: A or B (00). -/
inductive ScreenId where
  | a | b
  deriving DecidableEq, Repr

/-- The levels of the straps RATE1 and RATE0, high is `true` (R173). -/
structure Straps where
  rate1 : Bool
  rate0 : Bool
  deriving DecidableEq, Repr

/-- The request kinds that section 11.3 of the formats chapter lists. -/
inductive RequestKind where
  | partInfo
  | linkQuery
  | reportMask
  | timeSet
  | reset
  | slotQuery
  | holdLimitSet
  | cameraSetup
  | cameraStart
  | cameraStop
  | cameraQuery
  | cameraCommand
  | doorMap
  | endMap
  | doorTable
  | doorChange
  | doorFreshnessSet
  | cabSet
  | doorQuery
  | screenSetup
  | layoutWrite
  | layoutSelect
  | layoutForce
  | screenQuery
  | layoutQuery
  | soilSetup
  | soilTune
  | soilLearn
  | washDone
  | soilQuery
  | triggerMapSet
  | clipTake
  | clipRelease
  | clipQuery
  | exportClip
  | exportAbort
  deriving DecidableEq, Repr

/-- The commands (spec/opcode_table.json). A request row carries the request's tag and its body as it stands on the link
(R174, section 11.3); a lane row carries the lane and the packet's bytes after its type byte (section 11.6); a timer row
carries the camera or screen the timer belongs to. -/
inductive Instr where
  /-- POWER_ON: supplies come up, with the straps at these levels (R188). -/
  | powerOn (straps : Straps)
  /-- RESET_LINE_ASSERT: RESET_N is driven low (R188). -/
  | resetLineAssert
  /-- RESET_LINE: RESET_N is released, with the straps at these levels (R188). -/
  | resetLine (straps : Straps)
  /-- TIME_BASE_TICK: one millisecond passes (R186). -/
  | timeBaseTick
  /-- RX_CHARACTER: a character ends on RX; `stopHigh` is false when its stop bit was low, a framing error (R173, R175). -/
  | rxCharacter (byte : Byte) (stopHigh : Bool)
  /-- GAP_TIMER_EXPIRY (R175). -/
  | gapTimerExpiry
  /-- UNKNOWN_KIND_REQUEST: a request of a kind that section 11.3 does not list (R178). -/
  | unknownKindRequest (kind tag : Byte) (body : List Byte)
  /-- PART_INFO (R187). -/
  | partInfo (tag : Byte) (body : List Byte)
  /-- LINK_QUERY (R187). -/
  | linkQuery (tag : Byte) (body : List Byte)
  /-- REPORT_MASK (R183). -/
  | reportMask (tag : Byte) (body : List Byte)
  /-- TIME_SET (R186). -/
  | timeSet (tag : Byte) (body : List Byte)
  /-- RESET (R188). -/
  | reset (tag : Byte) (body : List Byte)
  /-- SLOT_QUERY (R22). -/
  | slotQuery (tag : Byte) (body : List Byte)
  /-- HOLD_LIMIT_SET (R18). -/
  | holdLimitSet (tag : Byte) (body : List Byte)
  /-- CAMERA_SETUP (R25). -/
  | cameraSetup (tag : Byte) (body : List Byte)
  /-- CAMERA_START (R27). -/
  | cameraStart (tag : Byte) (body : List Byte)
  /-- CAMERA_STOP (R33). -/
  | cameraStop (tag : Byte) (body : List Byte)
  /-- CAMERA_QUERY (R26). -/
  | cameraQuery (tag : Byte) (body : List Byte)
  /-- CAMERA_COMMAND (R56). -/
  | cameraCommand (tag : Byte) (body : List Byte)
  /-- DOOR_MAP (R62). -/
  | doorMap (tag : Byte) (body : List Byte)
  /-- END_MAP (R63). -/
  | endMap (tag : Byte) (body : List Byte)
  /-- DOOR_TABLE (R65). -/
  | doorTable (tag : Byte) (body : List Byte)
  /-- DOOR_CHANGE (R66). -/
  | doorChange (tag : Byte) (body : List Byte)
  /-- DOOR_FRESHNESS_SET (R68). -/
  | doorFreshnessSet (tag : Byte) (body : List Byte)
  /-- CAB_SET (R71). -/
  | cabSet (tag : Byte) (body : List Byte)
  /-- DOOR_QUERY (R78). -/
  | doorQuery (tag : Byte) (body : List Byte)
  /-- SCREEN_SETUP (R81). -/
  | screenSetup (tag : Byte) (body : List Byte)
  /-- LAYOUT_WRITE (R87). -/
  | layoutWrite (tag : Byte) (body : List Byte)
  /-- LAYOUT_SELECT (R90). -/
  | layoutSelect (tag : Byte) (body : List Byte)
  /-- LAYOUT_FORCE (R91). -/
  | layoutForce (tag : Byte) (body : List Byte)
  /-- SCREEN_QUERY (R102). -/
  | screenQuery (tag : Byte) (body : List Byte)
  /-- LAYOUT_QUERY (R102). -/
  | layoutQuery (tag : Byte) (body : List Byte)
  /-- SOIL_SETUP (R122). -/
  | soilSetup (tag : Byte) (body : List Byte)
  /-- SOIL_TUNE (R123). -/
  | soilTune (tag : Byte) (body : List Byte)
  /-- SOIL_LEARN (R140). -/
  | soilLearn (tag : Byte) (body : List Byte)
  /-- WASH_DONE (R138). -/
  | washDone (tag : Byte) (body : List Byte)
  /-- SOIL_QUERY (R144). -/
  | soilQuery (tag : Byte) (body : List Byte)
  /-- TRIGGER_MAP_SET (R147). -/
  | triggerMapSet (tag : Byte) (body : List Byte)
  /-- CLIP_TAKE (R157). -/
  | clipTake (tag : Byte) (body : List Byte)
  /-- CLIP_RELEASE (R158). -/
  | clipRelease (tag : Byte) (body : List Byte)
  /-- CLIP_QUERY (R160). -/
  | clipQuery (tag : Byte) (body : List Byte)
  /-- EXPORT (R164). -/
  | exportClip (tag : Byte) (body : List Byte)
  /-- EXPORT_ABORT (R170). -/
  | exportAbort (tag : Byte) (body : List Byte)
  /-- RDY_RISE (R185). -/
  | rdyRise
  /-- RDY_FALL (R185). -/
  | rdyFall
  /-- FRAME_BOUNDARY: the last byte of the link frame in transmission has left the part (R184). The straps are read only if
  the boundary makes the reset of a RESET request (R173, R188). -/
  | frameBoundary (straps : Straps)
  /-- FRAME_START: a packet of type 01h on a lane (R23, R37). -/
  | frameStart (lane : Cam) (packet : List Byte)
  /-- LINE_PACKET: a packet of type 02h on a lane (R23, R38). -/
  | linePacket (lane : Cam) (packet : List Byte)
  /-- FRAME_END: a packet of type 03h on a lane (R23, R39). -/
  | frameEnd (lane : Cam) (packet : List Byte)
  /-- FRAME_TIMER_EXPIRY of a camera (R30). -/
  | frameTimerExpiry (camera : Cam)
  /-- RECOVERY_TIMER_EXPIRY of a camera (R31). -/
  | recoveryTimerExpiry (camera : Cam)
  /-- CAMERA_RESPONSE: a packet of type 04h on a lane (R45, R49). -/
  | cameraResponse (lane : Cam) (packet : List Byte)
  /-- RESPONSE_TIMER_EXPIRY of a camera (R50). -/
  | responseTimerExpiry (camera : Cam)
  /-- FRESHNESS_TIMER_EXPIRY (R67). -/
  | freshnessTimerExpiry
  /-- OUTPUT_FRAME_END of a screen (R84). -/
  | outputFrameEnd (screen : ScreenId)
  /-- HOLD_OVER_TIMER_EXPIRY of a screen (R116). -/
  | holdOverTimerExpiry (screen : ScreenId)
  /-- IDLE_RECHECK_TIMER_EXPIRY (R124). -/
  | idleRecheckTimerExpiry
  /-- EXAMINATION_END (R130). -/
  | examinationEnd
  /-- FILL_END (R167). -/
  | fillEnd
  /-- STALL_TIMER_EXPIRY (R169). -/
  | stallTimerExpiry
  /-- COMMAND_LAST_BYTE_SENT: the last byte of a camera command leaves the part (R48, R50). -/
  | commandLastByteSent (camera : Cam)
  deriving DecidableEq, Repr

end Sys2Proof
end

