-- ==== Sys2Proof/Decode.lean ====
section
/-! DEFINITION. The command that a word spells by the bits of spec/opcode_table.json. No row of the table gives bits. -/

namespace Sys2Proof

/-- No row of the opcode table gives bits, so no word spells a command. The bytes of requests and packets are read by
`Machine/Operands.lean` (section 11.3, section 11.6). -/
def decodeTableWord (_nbits _w : Nat) : Option Instr := none

end Sys2Proof
end

