-- ==== Sys2Proof/Machine/State.lean ====
section
/-! DEFINITION. The state of the part as plain data, one structure for each block that owns state (spec/00, Block
overview), and its value after reset. -/

namespace Sys2Proof.Machine

/-! ## Numbers and timers -/

/-- A slot of the frame store, 0–159 (R1). -/
abbrev SlotNo := Fin 160

/-- A clip id, 0–7 (R148). -/
abbrev ClipId := Fin 8

/-- A job id, 0–7 (R179). -/
abbrev JobId := Fin 8

/-- A door of the door map, 0–11 (R61). -/
abbrev Door := Fin 12

/-- A layout number, 0–15 (R86). -/
abbrev LayoutNo := Fin 16

/-- A timer: stopped, or running until the elapsed time since reset reaches the number (R186: timers are measured by
elapsed time, log 4). -/
abbrev Timer := Option Nat

/-! ## Frame store and slot manager (spec/01) -/

/-- Width and height of a camera frame. -/
structure Geometry where
  width  : Nat
  height : Nat
  deriving DecidableEq, Repr

/-- The frame fields of a slot record (R1). -/
structure FrameFields where
  sequence : Word32
  number   : Word16
  time     : Time
  geometry : Geometry
  deriving DecidableEq, Repr

/-- The readers that pin slots (R10). -/
inductive Reader where
  | screenA | screenB | engine
  deriving DecidableEq, Repr

/-- The pin holders of a slot (R1). The pin count is the number of holders (R10). -/
structure Holders where
  screenA : Bool
  screenB : Bool
  engine  : Bool
  deriving DecidableEq, Repr

/-- The place of a slot with the fields that are present there (R1). The place RING is one of blank, filling, ready. -/
inductive Place where
  | free
  | blank    (camera : Cam)
  | filling  (camera : Cam) (frame : FrameFields)
  | ready    (camera : Cam) (frame : FrameFields) (claim : Option ClipId)
  | clip     (camera : Cam) (frame : FrameFields) (clip : ClipId)
  | retiring (camera : Cam) (frame : FrameFields)
  deriving DecidableEq, Repr

/-- A slot record (R1). -/
structure SlotRecord where
  place   : Place
  holders : Holders
  deriving DecidableEq, Repr

/-- A camera's ring (R5): READY slots oldest first, BLANK slots in order of joining, at most one FILLING slot. -/
structure Ring where
  ready   : List SlotNo
  blank   : List SlotNo
  filling : Option SlotNo
  deriving DecidableEq, Repr

/-- The slot manager's state (R1 to R6, R17). The retiring set is the slots whose place is retiring (R11). -/
structure SlotManager where
  records   : Vector SlotRecord 160
  freePool  : List SlotNo
  rings     : Vector (Option Ring) 14
  deficit   : List Cam
  holdCount : Nat
  holdLimit : Nat
  deriving DecidableEq, Repr

/-! ## Camera ports, capture side (spec/02) -/

/-- The six setup fields of a camera record (R24). -/
structure Setup where
  width            : Nat
  height           : Nat
  rate             : Nat
  depth            : Nat
  frameTimeout     : Nat
  recoveryInterval : Nat
  deriving DecidableEq, Repr

/-- The capture state (R24). -/
inductive CaptureState where
  | off | bringUp | searching | running | lost | stopping | failed
  deriving DecidableEq, Repr

/-- The receive sub-state (R24). -/
inductive ReceiveState where
  | waitStart | receiving
  deriving DecidableEq, Repr

/-- The kinds of damage of a camera frame, in the order of R24. -/
inductive DamageKind where
  | geometry | truncated | order | crc | length | count | timeout
  deriving DecidableEq, Repr

/-- The failure codes of camera commands (R24, R49, R50). -/
inductive FailCode where
  | cameraTimeout | cameraRefused
  deriving DecidableEq, Repr

/-- The identity a camera reports (R24). -/
structure Identity where
  model  : Word16
  serial : Word32
  deriving DecidableEq, Repr

/-- The largest geometry a camera reports (R24), as received. -/
structure Largest where
  width  : Word16
  height : Word16
  deriving DecidableEq, Repr

/-- The camera record (R24). `heaterPresent` is the byte of the IDENTIFY response as received (R46, log 17). -/
structure CameraRecord where
  setup           : Setup
  state           : CaptureState
  receive         : ReceiveState
  nextLine        : Nat
  degraded        : Bool
  starved         : Bool
  damagedRun      : Nat
  goodRun         : Nat
  skipRun         : Nat
  sequence        : Word32
  lastPublished   : Option Word32
  lastNumber      : Option Word16
  lastStart       : Option Time
  lastDamage      : Option DamageKind
  lastResult      : Option FailCode
  publishedTotal  : Word32
  damagedTotal    : Word32
  skippedTotal    : Word32
  recoveryPending : Bool
  frameTimer      : Timer
  recoveryTimer   : Timer
  startJob        : Option JobId
  identity        : Option Identity
  heaterPresent   : Byte
  largest         : Option Largest
  generation      : Word16
  deriving DecidableEq, Repr

/-! ## Camera ports, control side (spec/03) -/

/-- A command on the lane with its parameters (R46). -/
inductive LaneCommand where
  | identify
  | configure (width height rate : Nat)
  | streamOn
  | streamOff
  | heater (on : Bool)
  | status
  deriving DecidableEq, Repr

/-- The steps of a bring-up (R52). -/
inductive BringUpStep where
  | identify | configure | streamOn
  deriving DecidableEq, Repr

/-- The commands a host may pass through (R56). -/
inductive PassCommand where
  | identify
  | status
  | heater (on : Bool)
  deriving DecidableEq, Repr

/-- Kind, parameters, step and job of a control queue entry (R47). The requester follows from the kind: the capture side
for a bring-up and a stream-off, the soiling monitor for a heater entry, the host for a pass-through. -/
inductive EntryWork where
  | bringUp (width height rate : Nat) (step : BringUpStep)
  | streamOff
  | heater (on : Bool)
  | passThrough (command : PassCommand) (job : JobId)
  deriving DecidableEq, Repr

/-- A control queue entry (R47). -/
structure QueueEntry where
  work    : EntryWork
  started : Bool
  flushed : Bool
  deriving DecidableEq, Repr

/-- The attempt of the command in flight, 1 or 2 (R47). -/
inductive Attempt where
  | first | second
  deriving DecidableEq, Repr

/-- The control record (R47). The path is AWAITING while a command is in flight and IDLE otherwise. `unsent` counts the
commands and resends whose last byte has not left the part yet (R48, log 16). -/
structure ControlRecord where
  queue         : List QueueEntry
  inFlight      : Option LaneCommand
  attempt       : Attempt
  responseTimer : Timer
  unsent        : Nat
  deriving DecidableEq, Repr

/-! ## Door unit (spec/04) -/

/-- The side of a door as seen facing end A (R61). -/
inductive Side where
  | left | right
  deriving DecidableEq, Repr

/-- A door map record (R61). -/
structure DoorMapRecord where
  side      : Side
  rank      : Nat
  camera    : Option Cam
  alternate : Option Cam
  deriving DecidableEq, Repr

/-- The states of a door (R64). -/
inductive DoorState where
  | locked | released | open | closing | obstructed | fault
  deriving DecidableEq, Repr

/-- A door table entry (R64). -/
structure DoorEntry where
  state      : DoorState
  lastChange : Time
  deriving DecidableEq, Repr

/-- The cab state (R71). -/
inductive Cab where
  | none | a | b
  deriving DecidableEq, Repr

/-- An attention class other than none, 1 most urgent (R74). -/
inductive AttentionClass where
  | one | two | three | four
  deriving DecidableEq, Repr

/-- A class with its deciding state (R74, R75). Class none is the absence of this record. -/
structure Attention where
  cls      : AttentionClass
  deciding : DoorState
  deriving DecidableEq, Repr

/-- The door unit's state (R61 to R75). `fresh` is the freshness condition, false is STALE. -/
structure DoorUnit where
  map       : Vector DoorMapRecord 12
  endA      : Option Cam
  endB      : Option Cam
  table     : Vector DoorEntry 12
  fresh     : Bool
  period    : Nat
  timer     : Timer
  lastTable : Option Time
  cab       : Cab
  attention : Vector (Option Attention) 14
  deriving DecidableEq, Repr

/-! ## Screen composers, layouts and splits (spec/05, spec/06) -/

/-- A rectangle in pixels. -/
structure Rect where
  x : Nat
  y : Nat
  w : Nat
  h : Nat
  deriving DecidableEq, Repr

/-- The source of a tile (R86); `blank` is the source NONE. -/
inductive TileSource where
  | camera (n : Cam)
  | front
  | rear
  | blank
  deriving DecidableEq, Repr

/-- A tile record of a layout (R86). -/
structure TileRecord where
  rect      : Rect
  source    : TileSource
  alternate : Option Cam
  label     : List Byte
  deriving DecidableEq, Repr

/-- The markers of a tile (R98); the n of OVERFLOW(n) stands beside them in the tile. -/
structure Markers where
  obstruction  : Bool
  fault        : Bool
  closed       : Bool
  soiled       : Bool
  frozen       : Bool
  alternate    : Bool
  noPicture    : Bool
  overflow     : Bool
  unconfigured : Bool
  deriving DecidableEq, Repr

/-- A resolved tile (R83): the clipped rectangle, the camera shown, the pinned slot with its capture time and the markers.
`full` is the unclipped rectangle and `label` the label, which drawing reads (R97). -/
structure ResolvedTile where
  rect        : Rect
  full        : Rect
  label       : List Byte
  shown       : Option Cam
  alternate   : Bool
  slot        : Option SlotNo
  captureTime : Option Time
  markers     : Markers
  overflow    : Nat
  deriving DecidableEq, Repr

/-- The eight setup fields of a screen record (R80). -/
structure ScreenSetup where
  enable       : Bool
  width        : Nat
  height       : Nat
  rate         : Nat
  holdOver     : Nat
  freezeLimit  : Nat
  fallback     : Option LayoutNo
  showReleased : Bool
  deriving DecidableEq, Repr

/-- The view mode (R80). -/
inductive ViewMode where
  | off | unconfigured | base | split | forced | fallback
  deriving DecidableEq, Repr

/-- The patterns of a split (R112). -/
inductive Pattern where
  | one | two | four | six
  deriving DecidableEq, Repr

/-- A view as R88 selects it. -/
structure View where
  mode    : ViewMode
  layout  : Option LayoutNo
  pattern : Option Pattern
  deriving DecidableEq, Repr

/-- The output period that is running (R84): when it ends in elapsed time, the output rate it was timed at, the place in
the 33, 33, 34 ms cycle of its interval. -/
structure OutputPeriod where
  ends  : Nat
  rate  : Nat
  place : Fin 3
  deriving DecidableEq, Repr

/-- The screen record (R80). `view` is the view mode, layout shown and pattern shown. `drawn` is the setup as read at the
start of the current output frame (R83 step 1), `frameStart` the time base there (R102), `period` the output period that
is running (R84). -/
structure ScreenRecord where
  setup      : ScreenSetup
  requested  : Option LayoutNo
  forced     : Option LayoutNo
  view       : View
  tiles      : List ResolvedTile
  pinned     : List SlotNo
  frameCount : Word32
  frameStart : Time
  drawn      : ScreenSetup
  period     : OutputPeriod
  deriving DecidableEq, Repr

/-- A split entry (R105); class DEPARTED is the absence of attention. -/
structure SplitEntry where
  camera    : Cam
  attention : Option Attention
  joined    : Time
  deriving DecidableEq, Repr

/-- A member of the outside set (R104). -/
structure Outside where
  camera    : Cam
  attention : Attention
  deriving DecidableEq, Repr

/-- The split record (R104). -/
structure SplitRecord where
  entries  : List SplitEntry
  pattern  : Option Pattern
  outside  : List Outside
  holdOver : Timer
  deriving DecidableEq, Repr

/-- A screen composer: its screen record and its split record. -/
structure Composer where
  screen : ScreenRecord
  split  : SplitRecord
  deriving DecidableEq, Repr

/-! ## Soiling monitor (spec/07) -/

/-- The soiling state (R121). -/
inductive SoilState where
  | unwatched | unlearned | learning | clean | suspect | heating | soiled | verify
  deriving DecidableEq, Repr

/-- The clean picture of a camera (R121): 48 zone edge energies and the geometry they were learned at. -/
structure Baseline where
  edges    : Vector Nat 48
  geometry : Geometry
  deriving DecidableEq, Repr

/-- Per-zone sums and the number of examinations in them: the window and the learn accumulation (R121). -/
structure ZoneSums where
  luminance    : Vector Nat 48
  edges        : Vector Nat 48
  examinations : Nat
  deriving DecidableEq, Repr

/-- The result part of the last heater result (R121). -/
inductive HeaterOutcome where
  | done | cameraTimeout | cameraRefused | full
  deriving DecidableEq, Repr

/-- The last heater result (R121). -/
structure HeaterResult where
  on      : Bool
  outcome : HeaterOutcome
  deriving DecidableEq, Repr

/-- The soiling record of a camera (R121). -/
structure SoilRecord where
  watch           : Bool
  heaterAllowed   : Bool
  state           : SoilState
  baseline        : Option Baseline
  window          : ZoneSums
  learned         : ZoneSums
  beforeLearning  : Option SoilState
  learnJob        : Option JobId
  suspectCount    : Nat
  cleanCount      : Nat
  trialCount      : Nat
  heaterSpent     : Bool
  heaterOffOwed   : Bool
  wasSoiled       : Bool
  lastExamined    : Option Word32
  generationSeen  : Option Word16
  lastScore       : Option Nat
  lastJudgeable   : Option Nat
  lastHeater      : Option HeaterResult
  deriving DecidableEq, Repr

/-- The seven global tuning settings (R123): N, L, ratio threshold, S, K, M, T. -/
structure Tuning where
  window     : Nat
  learn      : Nat
  ratio      : Nat
  zones      : Nat
  confirm    : Nat
  cleanRun   : Nat
  trial      : Nat
  deriving DecidableEq, Repr

/-- The purpose of an examination (R124). -/
inductive Purpose where
  | watch | learn
  deriving DecidableEq, Repr

/-- The examination record (R124). -/
structure Examination where
  camera     : Cam
  slot       : SlotNo
  sequence   : Word32
  generation : Word16
  purpose    : Purpose
  deriving DecidableEq, Repr

/-- The soiling monitor's state. The statistics engine is EXAMINING while it holds an examination record (R124). -/
structure SoilMonitor where
  records  : Vector SoilRecord 14
  tuning   : Tuning
  engine   : Option Examination
  recheck  : Timer
  rotation : Cam
  queue    : List Cam
  deriving DecidableEq, Repr

/-! ## Clip unit (spec/08) -/

/-- The kinds of automatic trigger (R146). -/
inductive TriggerKind where
  | obstruction | doorFault | soiled
  deriving DecidableEq, Repr

/-- An entry of the trigger map (R146); `clip` is the action CLIP. -/
structure TriggerSetting where
  clip : Bool
  pre  : Nat
  post : Nat
  deriving DecidableEq, Repr

/-- The trigger map (R146). -/
structure TriggerMap where
  obstruction : TriggerSetting
  doorFault   : TriggerSetting
  soiled      : TriggerSetting
  deriving DecidableEq, Repr

/-- A trigger entry of a clip (R148); kind REQUEST is the absence of an automatic kind. -/
structure TriggerEntry where
  kind   : Option TriggerKind
  camera : Option Cam
  time   : Time
  deriving DecidableEq, Repr

/-- The states of a clip that is not FREE (R148). -/
inductive ClipState where
  | collecting | complete | exporting
  deriving DecidableEq, Repr

/-- The mode of a clip (R148). -/
inductive ClipMode where
  | door | setNewest | setNext
  deriving DecidableEq, Repr

/-- The status of a camera of a set clip (R148). -/
inductive CameraStatus where
  | waiting | delivered | missing
  deriving DecidableEq, Repr

/-- A camera of a clip's list, with its status in the set modes (R148). -/
structure ClipCamera where
  camera : Cam
  status : Option CameraStatus
  deriving DecidableEq, Repr

/-- The role of a frame entry (R149). -/
inductive FrameRole where
  | pre | post | set
  deriving DecidableEq, Repr

/-- A frame entry (R149); `held` is the location HELD, otherwise CLAIMED_IN_RING. -/
structure FrameEntry where
  slot     : SlotNo
  camera   : Cam
  sequence : Word32
  time     : Time
  role     : FrameRole
  held     : Bool
  deriving DecidableEq, Repr

/-- The fields of a clip record that is not FREE (R148). -/
structure Clip where
  state         : ClipState
  mode          : ClipMode
  cameras       : List ClipCamera
  triggers      : List TriggerEntry
  moreTriggers  : Bool
  postRemaining : Nat
  truncated     : Bool
  short         : Bool
  frames        : List FrameEntry
  job           : Option JobId
  opened        : Time
  deriving DecidableEq, Repr

/-- The clip unit's state (R146, R148, R153). A FREE clip is `none`. -/
structure ClipUnit where
  map    : TriggerMap
  clips  : Vector (Option Clip) 8
  missed : Nat
  deriving DecidableEq, Repr

/-! ## Export engine (spec/09) -/

/-- The content of an export (R162). -/
inductive ExportContent where
  | luma | full
  deriving DecidableEq, Repr

/-- The states of the export engine that are not IDLE (R162). -/
inductive ExportPhase where
  | reading | waiting | ending
  deriving DecidableEq, Repr

/-- The export record (R162) with the engine's state. -/
structure ExportRecord where
  phase        : ExportPhase
  clip         : ClipId
  job          : JobId
  firstFrame   : Nat
  frameCount   : Nat
  scale        : Nat
  content      : ExportContent
  nextFrame    : Option Nat
  nextOffset   : Nat
  nextSequence : Nat
  blocksSent   : Nat
  stall        : Timer
  deriving DecidableEq, Repr

/-- A staged block (R163). -/
structure Block where
  frame    : Nat
  sequence : Nat
  offset   : Nat
  bytes    : List Byte
  deriving DecidableEq, Repr

/-- A staging half (R163). The byte count of a block is the length of its bytes. -/
inductive Half where
  | empty
  | filling (block : Block)
  | full (block : Block)
  | sending (block : Block)
  deriving DecidableEq, Repr

/-- The export engine (R162, R163); it is IDLE while the record is absent. -/
structure ExportEngine where
  job  : Option ExportRecord
  half0 : Half
  half1 : Half
  deriving DecidableEq, Repr

/-! ## Link controller (spec/10) -/

/-- The link rate (R173). -/
inductive LinkRate where
  | mbaud1_5 | mbaud3 | mbaud6 | mbaud12
  deriving DecidableEq, Repr

/-- The states of the receiver (R175). -/
inductive RxState where
  | hunt | collect | escaped
  deriving DecidableEq, Repr

/-- The receiver: its state, the bytes decoded so far and the gap timer (R175). -/
structure Receiver where
  state : RxState
  bytes : List Byte
  gap   : Timer
  deriving DecidableEq, Repr

/-- A complete request in an inbound buffer (R177). -/
structure Request where
  kind : Byte
  tag  : Byte
  body : List Byte
  deriving DecidableEq, Repr

/-- A reply (R178): its kind, its tag and its body. `ofReset` marks the OK reply to a RESET request (R188). -/
structure Reply where
  kind    : Byte
  tag     : Byte
  body    : List Byte
  ofReset : Bool
  deriving DecidableEq, Repr

/-- The kinds of job (R179). -/
inductive JobKind where
  | cameraStart | cameraCommand | soilLearn | clipTake | exportClip
  deriving DecidableEq, Repr

/-- Kind, subject and tag of a job (R179); the subject is a camera number or a clip id. -/
structure JobInfo where
  kind    : JobKind
  subject : Nat
  tag     : Byte
  deriving DecidableEq, Repr

/-- A job entry (R179). -/
inductive JobEntry where
  | free
  | running (info : JobInfo)
  | doneUnsent (info : JobInfo)
  deriving DecidableEq, Repr

/-- The results of jobs (R180). -/
inductive JobResult where
  | ok | aborted | cameraTimeout | cameraRefused | cameraLost | dark | stalled
  deriving DecidableEq, Repr

/-- The kinds of reception fault (R176). -/
inductive LinkFaultKind where
  | format | crc | length | oversize | gap | overrun
  deriving DecidableEq, Repr

/-- The six fault totals (R176). -/
structure FaultTotals where
  format   : Nat
  crc      : Nat
  length   : Nat
  oversize : Nat
  gap      : Nat
  overrun  : Nat
  deriving DecidableEq, Repr

/-- The causes of a reset (R188). -/
inductive ResetCause where
  | powerOn | resetLine | resetRequest
  deriving DecidableEq, Repr

/-- The causes of a CAMERA_STATE report (R44). -/
inductive CameraCause where
  | start | bringUpOk | bringUpFail | frameStart | frameTimeout | recoveryOk | recoveryFail | stop | stopped | health
  deriving DecidableEq, Repr

/-- The content of a CAMERA_STATE report (R44). -/
structure CameraContent where
  camera        : Cam
  state         : CaptureState
  degraded      : Bool
  starved       : Bool
  cause         : CameraCause
  lastResult    : Option FailCode
  lastDamage    : Option DamageKind
  generation    : Word16
  lastPublished : Option Word32
  damagedTotal  : Word32
  skippedTotal  : Word32
  deriving DecidableEq, Repr

/-- The causes of a SOIL_STATE report, in the order of R143. -/
inductive SoilCause where
  | evaluation | setup | geometry | heaterFail | wash | learn | learnEnd | camera
  deriving DecidableEq, Repr

/-- The content of a SOIL_STATE report (R143). -/
structure SoilContent where
  camera        : Cam
  state         : SoilState
  previous      : SoilState
  cause         : SoilCause
  marker        : Bool
  lastScore     : Option Nat
  lastJudgeable : Option Nat
  heaterSpent   : Bool
  wasSoiled     : Bool
  baselineValid : Bool
  lastHeater    : Option HeaterResult
  time          : Time
  deriving DecidableEq, Repr

/-- The causes of a VIEW report (R101). -/
inductive ViewCause where
  | frame | forceEnded
  deriving DecidableEq, Repr

/-- The content of a VIEW report (R101). -/
structure ViewContent where
  screen    : ScreenId
  cause     : ViewCause
  view      : View
  requested : Option LayoutNo
  forced    : Option LayoutNo
  overflow  : Nat
  time      : Time
  deriving DecidableEq, Repr

/-- The causes of a CLIP_READY report (R159). -/
inductive ClipCause where
  | collected | taken | exportEnded
  deriving DecidableEq, Repr

/-- The content of a CLIP_READY report (R159). -/
structure ClipContent where
  clip         : ClipId
  cause        : ClipCause
  mode         : ClipMode
  cameras      : List ClipCamera
  triggers     : List TriggerEntry
  moreTriggers : Bool
  truncated    : Bool
  short        : Bool
  frameCount   : Nat
  time         : Time
  deriving DecidableEq, Repr

/-- Why a trigger was missed (R150). -/
inductive MissReason where
  | noCamera | noClip | noHold
  deriving DecidableEq, Repr

/-- The content of a report, by the table that specifies it (section 11.5). -/
inductive ReportContent where
  /-- START (R189). -/
  | start (cause : ResetCause) (revision : Byte) (rate : LinkRate)
  /-- DOOR_STALE (R70). -/
  | doorStale (fresh : Bool) (time : Time) (lastTable : Option Time) (period : Nat)
  /-- CAMERA_STATE (R44). -/
  | cameraState (content : CameraContent)
  /-- SOIL_STATE (R143). -/
  | soilState (content : SoilContent)
  /-- VIEW (R101). -/
  | view (content : ViewContent)
  /-- JOB_DONE (R180). -/
  | jobDone (job : JobId) (info : JobInfo) (result : JobResult) (data : List Byte) (time : Time)
  /-- CLIP_READY (R159). -/
  | clipReady (content : ClipContent)
  /-- CLIP_MISSED (R153). -/
  | clipMissed (reason : MissReason) (kind : TriggerKind) (camera : Cam) (time : Time) (total : Nat)
  /-- LINK_FAULT (R176). -/
  | linkFault (kind : LinkFaultKind) (tag : Option Byte) (time : Time) (totals : FaultTotals)
  deriving DecidableEq, Repr

/-- The start record and the 49 entries of the report table (R181). -/
inductive ReportId where
  | start
  | doorStale
  | cameraState (camera : Cam)
  | soilState (camera : Cam)
  | view (screen : ScreenId)
  | jobDone (job : JobId)
  | clipReady (clip : ClipId)
  | clipMissed
  | linkFault
  deriving DecidableEq, Repr

/-- A report entry (R181). -/
structure ReportEntry where
  pending : Bool
  count   : Nat
  content : Option ReportContent
  deriving DecidableEq, Repr

/-- What the link frame in transmission is (R184). -/
inductive TxKind where
  | reply (ofReset : Bool)
  | report (id : ReportId)
  | data
  deriving DecidableEq, Repr

/-- The link frame in transmission: what it is, and its kind, tag and body (R174). -/
structure TxFrame where
  what : TxKind
  kind : Byte
  tag  : Byte
  body : List Byte
  deriving DecidableEq, Repr

/-- The link controller's state. `reports` holds the start record and the 49 entries in class and source order.
`masked` has bit n set while class n is masked (R183). `resetAsked` says that a RESET request waits for its reply to be sent
(R177, R188). -/
structure LinkController where
  rate       : LinkRate
  receiver   : Receiver
  buffers    : List Request
  reply      : Option Reply
  resetAsked : Bool
  jobs       : Vector JobEntry 8
  reports    : Vector ReportEntry 50
  masked     : Byte
  faults     : FaultTotals
  tx         : Option TxFrame
  timeBase   : Time
  deriving DecidableEq, Repr

/-! ## The whole part -/

/-- The input pins the part reads between resets: the ready line, and RESET_N held low (00 Signals, R173, R188). -/
structure Pins where
  ready    : Bool
  resetLow : Bool
  deriving DecidableEq, Repr

/-- The state of the part, with the commands that wait to be taken (`pending`, first in, first out) and the milliseconds
since reset (`elapsed`, log 4). `pixels` holds the pixel bytes of the frame store, in canonical form (log 12). -/
structure State where
  pending  : List Instr
  elapsed  : Nat
  pins     : Pins
  slots    : SlotManager
  pixels   : List Host.Cell
  cameras  : Vector CameraRecord 14
  controls : Vector ControlRecord 14
  doors    : DoorUnit
  screenA  : Composer
  screenB  : Composer
  layouts  : Vector (List TileRecord) 16
  soil     : SoilMonitor
  clips    : ClipUnit
  exporter : ExportEngine
  link     : LinkController
  deriving DecidableEq, Repr

/-- Why a step stops the model. -/
inductive Fault where
  /-- Raised by LINE_PACKET alone, when the line would be stored outside its slot's 2 MiB of the frame store, an address
  the spec does not give the slot (R1). Safe: a setup within the ranges of R24 never leads there (log 13). -/
  | outsideSlot
  deriving DecidableEq, Repr

/-- Why a step answers no meaning. -/
inductive Refusal where
  /-- Raised by the dispatch for a command without a meaning. Safe. No command of this model is left without one. -/
  | notModelled (mnemonic : String)
  deriving DecidableEq, Repr

/-! ## Values after reset -/

/-- R1: place FREE, no pin. -/
def SlotRecord.reset : SlotRecord := { place := .free, holders := ⟨false, false, false⟩ }

/-- R3, R5, R6, R11, R17: every slot in the free pool in order, no rings, no deficit, hold count 0, hold limit 32. -/
def SlotManager.reset : SlotManager :=
  { records := Vector.ofFn fun _ => SlotRecord.reset, freePool := List.finRange 160,
    rings := Vector.ofFn fun _ => none, deficit := [], holdCount := 0, holdLimit := 32 }

/-- The values after reset of R24. -/
def CameraRecord.reset : CameraRecord :=
  { setup := { width := 640, height := 480, rate := 25, depth := 3, frameTimeout := 200, recoveryInterval := 2000 },
    state := .off, receive := .waitStart, nextLine := 0, degraded := false, starved := false,
    damagedRun := 0, goodRun := 0, skipRun := 0, sequence := 0, lastPublished := none, lastNumber := none,
    lastStart := none, lastDamage := none, lastResult := none, publishedTotal := 0, damagedTotal := 0,
    skippedTotal := 0, recoveryPending := false, frameTimer := none, recoveryTimer := none, startJob := none,
    identity := none, heaterPresent := 0, largest := none, generation := 0 }

/-- The values after reset of R47. A command whose last byte has not left at a reset is forgotten: its row then finds nothing
to act on, which is the model's choice (log 16). -/
def ControlRecord.reset : ControlRecord :=
  { queue := [], inFlight := none, attempt := .first, responseTimer := none, unsent := 0 }

/-- R61: doors 0–5 LEFT at ranks 0–5, doors 6–11 RIGHT at ranks 0–5, no cameras. -/
def DoorMapRecord.reset (d : Door) : DoorMapRecord :=
  { side := if d.val < 6 then .left else .right, rank := d.val % 6, camera := none, alternate := none }

/-- The values after reset of R61, R63, R64, R67, R71, R75. -/
def DoorUnit.reset : DoorUnit :=
  { map := Vector.ofFn DoorMapRecord.reset, endA := none, endB := none,
    table := Vector.ofFn fun _ => { state := .locked, lastChange := 0 }, fresh := false, period := 1000,
    timer := none, lastTable := none, cab := .none, attention := Vector.ofFn fun _ => none }

/-- The setup after reset of R80. -/
def ScreenSetup.reset : ScreenSetup :=
  { enable := true, width := 1280, height := 800, rate := 30, holdOver := 3000, freezeLimit := 300, fallback := none,
    showReleased := false }

/-- The values after reset of R80. The first output frame start has not been taken: the period is due at elapsed
time 0 (R83, R84, log 7). -/
def ScreenRecord.reset : ScreenRecord :=
  { setup := ScreenSetup.reset, requested := none, forced := none,
    view := { mode := .unconfigured, layout := none, pattern := none }, tiles := [], pinned := [], frameCount := 0,
    frameStart := 0, drawn := ScreenSetup.reset, period := { ends := 0, rate := 30, place := 2 } }

/-- The values after reset of R104. -/
def SplitRecord.reset : SplitRecord := { entries := [], pattern := none, outside := [], holdOver := none }

/-- A composer after reset. -/
def Composer.reset : Composer := { screen := ScreenRecord.reset, split := SplitRecord.reset }

/-- Sums of no examinations (R121). -/
def ZoneSums.zero : ZoneSums :=
  { luminance := Vector.ofFn fun _ => 0, edges := Vector.ofFn fun _ => 0, examinations := 0 }

/-- The values after reset of R121. -/
def SoilRecord.reset : SoilRecord :=
  { watch := false, heaterAllowed := false, state := .unwatched, baseline := none, window := ZoneSums.zero,
    learned := ZoneSums.zero, beforeLearning := none, learnJob := none, suspectCount := 0, cleanCount := 0,
    trialCount := 0, heaterSpent := false, heaterOffOwed := false, wasSoiled := false, lastExamined := none,
    generationSeen := none, lastScore := none, lastJudgeable := none, lastHeater := none }

/-- The values after reset of R121, R123 and R124. -/
def SoilMonitor.reset : SoilMonitor :=
  { records := Vector.ofFn fun _ => SoilRecord.reset,
    tuning := { window := 4, learn := 8, ratio := 8, zones := 10, confirm := 3, cleanRun := 5, trial := 6 },
    engine := none, recheck := some 10, rotation := 13, queue := [] }

/-- The values after reset of R146, R148, R153. -/
def ClipUnit.reset : ClipUnit :=
  { map := { obstruction := ⟨false, 0, 0⟩, doorFault := ⟨false, 0, 0⟩, soiled := ⟨false, 0, 0⟩ },
    clips := Vector.ofFn fun _ => none, missed := 0 }

/-- R162, R163: IDLE, both halves EMPTY. -/
def ExportEngine.reset : ExportEngine := { job := none, half0 := .empty, half1 := .empty }

/-- An entry that is not pending and has no content (R181). -/
def ReportEntry.reset : ReportEntry := { pending := false, count := 0, content := none }

/-- The link controller after a POWER_ON reset at the given link rate (R173, R175 to R183, R186, R188, R189): the start
record is pending with count 1. -/
def LinkController.reset (rate : LinkRate) : LinkController :=
  { rate := rate, receiver := { state := .hunt, bytes := [], gap := none }, buffers := [], reply := none,
    resetAsked := false, jobs := Vector.ofFn fun _ => .free,
    reports := Vector.ofFn fun i =>
      if i.val = 0 then { pending := true, count := 1, content := some (.start .powerOn Config.revision rate) }
      else ReportEntry.reset,
    masked := 0, faults := ⟨0, 0, 0, 0, 0, 0⟩, tx := none, timeBase := 0 }

/-- The part right after a POWER_ON reset, with no command waiting, RDY low, RESET_N released and both straps low
(log 6), before the first output frame starts (log 7). -/
def State.reset : State :=
  { pending := [], elapsed := 0, pins := { ready := false, resetLow := false }, slots := SlotManager.reset,
    pixels := [], cameras := Vector.ofFn fun _ => CameraRecord.reset,
    controls := Vector.ofFn fun _ => ControlRecord.reset, doors := DoorUnit.reset, screenA := Composer.reset,
    screenB := Composer.reset, layouts := Vector.ofFn fun _ => [], soil := SoilMonitor.reset, clips := ClipUnit.reset,
    exporter := ExportEngine.reset, link := LinkController.reset .mbaud1_5 }

end Sys2Proof.Machine
end

