-- ==== Sys2Proof/Machine/Ops.lean ====
section
/-! DEFINITION. The named operations the blocks share: byte order, check codes, the frame store's bytes, access to the
records of a state, timers, reports and jobs. -/

namespace Sys2Proof.Machine

/-! ## Bytes and check codes (R174, R191, section 11.6) -/

/-- A 1-byte field. -/
def byteOf (n : Nat) : Byte := BitVec.ofNat 8 n

/-- A 2-byte field, high byte first (R191). -/
def bytes2 (n : Nat) : List Byte := [byteOf (n / 256), byteOf n]

/-- A 4-byte field, high byte first (R191). -/
def bytes4 (n : Nat) : List Byte := [byteOf (n / 16777216), byteOf (n / 65536), byteOf (n / 256), byteOf n]

/-- The value of a 2-byte field, high byte first (R191). -/
def nat2 (high low : Byte) : Nat := high.toNat * 256 + low.toNat

/-- The value of a 4-byte field, high byte first (R191). -/
def nat4 (b3 b2 b1 b0 : Byte) : Nat := (nat2 b3 b2) * 65536 + nat2 b1 b0

/-- One bit of the CRC-16 with polynomial 1021h, most significant bit first (R174). -/
def crc16Bit (c : BitVec 16) : BitVec 16 := if c.msb then (c <<< 1) ^^^ 0x1021#16 else c <<< 1

/-- One byte of the CRC-16. -/
def crc16Byte (c : BitVec 16) (b : Byte) : BitVec 16 :=
  crc16Bit (crc16Bit (crc16Bit (crc16Bit (crc16Bit (crc16Bit (crc16Bit (crc16Bit
    (c ^^^ (b.setWidth 16 <<< 8)))))))))

/-- The CRC-16 of link frames and camera lines: polynomial 1021h, initial value FFFFh (R174, section 11.6). -/
def crc16 (bs : List Byte) : BitVec 16 := bs.foldl crc16Byte 0xFFFF#16

/-- One bit of the CRC-8 with polynomial 07h, most significant bit first. -/
def crc8Bit (c : Byte) : Byte := if c.msb then (c <<< 1) ^^^ 0x07#8 else c <<< 1

/-- One byte of the CRC-8. -/
def crc8Byte (c : Byte) (b : Byte) : Byte :=
  crc8Bit (crc8Bit (crc8Bit (crc8Bit (crc8Bit (crc8Bit (crc8Bit (crc8Bit (c ^^^ b))))))))

/-- The CRC-8 of lane packets, commands and responses: polynomial 07h, initial value 00h (section 11.6). -/
def crc8 (bs : List Byte) : Byte := bs.foldl crc8Byte 0#8

/-- A count that rises by 1 up to its largest value (R24, R153, R176, R181). -/
def saturate (largest n : Nat) : Nat := if n < largest then n + 1 else n

/-! ## The pixel bytes of the frame store (R1, log 12) -/

/-- The bytes of one slot, 2 MiB (R1). -/
def slotBytes : Nat := 2097152

/-- What a byte that nothing has written reads as: the spec gives none (log 12). -/
def Memory.unlisted : Byte := 0

/-- One byte of the frame store. -/
def Memory.read : List Host.Cell → Nat → Byte
  | [], _ => Memory.unlisted
  | (b, v) :: m, a => if b = a then v else Memory.read m a

/-- Writes one byte, keeping the canonical form: addresses rise and no cell holds what an unlisted address reads as. -/
def Memory.write : List Host.Cell → Nat → Byte → List Host.Cell
  | [], a, v => if v = Memory.unlisted then [] else [(a, v)]
  | (b, w) :: m, a, v =>
    if a < b then (if v = Memory.unlisted then (b, w) :: m else (a, v) :: (b, w) :: m)
    else if a = b then (if v = Memory.unlisted then m else (a, v) :: m)
    else (b, w) :: Memory.write m a v

/-- Writes bytes at rising addresses. -/
def Memory.writeBytes (m : List Host.Cell) (a : Nat) : List Byte → List Host.Cell
  | [] => m
  | v :: vs => Memory.writeBytes (Memory.write m a v) (a + 1) vs

/-- Every cell lies above the bound, addresses rise strictly, and no cell holds the unlisted byte. -/
def Memory.wfAbove : Option Nat → List Host.Cell → Bool
  | _, [] => true
  | low, (a, v) :: m =>
    (match low with | none => true | some l => decide (l < a)) && !(v == Memory.unlisted) && Memory.wfAbove (some a) m

/-- The canonical form of the frame store's bytes. -/
def Memory.wf (m : List Host.Cell) : Bool := Memory.wfAbove none m

/-- The address of a byte of a slot. -/
def slotAddress (slot : SlotNo) (offset : Nat) : Nat := slot.val * slotBytes + offset

/-! ## The records of a state -/

/-- All cameras in camera-number order. -/
def allCams : List Cam := List.finRange 14

/-- The time base (R186). -/
def State.now (s : State) : Time := s.link.timeBase

def State.setSlots (s : State) (m : SlotManager) : State := { s with slots := m }
def State.setPixels (s : State) (m : List Host.Cell) : State := { s with pixels := m }
def State.setDoors (s : State) (d : DoorUnit) : State := { s with doors := d }
def State.setLayouts (s : State) (l : Vector (List TileRecord) 16) : State := { s with layouts := l }
def State.setSoil (s : State) (m : SoilMonitor) : State := { s with soil := m }
def State.setClips (s : State) (u : ClipUnit) : State := { s with clips := u }
def State.setExporter (s : State) (e : ExportEngine) : State := { s with exporter := e }
def State.setLink (s : State) (l : LinkController) : State := { s with link := l }
def State.setPins (s : State) (p : Pins) : State := { s with pins := p }
def State.setElapsed (s : State) (n : Nat) : State := { s with elapsed := n }
def State.setPending (s : State) (q : List Instr) : State := { s with pending := q }
def State.setScreenA (s : State) (c : Composer) : State := { s with screenA := c }
def State.setScreenB (s : State) (c : Composer) : State := { s with screenB := c }
def State.setCameras (s : State) (v : Vector CameraRecord 14) : State := { s with cameras := v }
def State.setControls (s : State) (v : Vector ControlRecord 14) : State := { s with controls := v }

/-- The camera record of a camera (R24). -/
def State.cam (s : State) (c : Cam) : CameraRecord := s.cameras[c]

/-- Replaces the camera record of a camera. -/
def State.setCam (s : State) (c : Cam) (r : CameraRecord) : State := s.setCameras (s.cameras.set c.val r c.isLt)

/-- The control record of a camera (R47). -/
def State.ctl (s : State) (c : Cam) : ControlRecord := s.controls[c]

/-- Replaces the control record of a camera. -/
def State.setCtl (s : State) (c : Cam) (r : ControlRecord) : State := s.setControls (s.controls.set c.val r c.isLt)

/-- The soiling record of a camera (R121). -/
def State.soilOf (s : State) (c : Cam) : SoilRecord := s.soil.records[c]

/-- Replaces the soiling record of a camera. -/
def State.setSoilOf (s : State) (c : Cam) (r : SoilRecord) : State :=
  s.setSoil { s.soil with records := s.soil.records.set c.val r c.isLt }

/-- The composer of a screen. -/
def State.composer (s : State) : ScreenId → Composer
  | .a => s.screenA
  | .b => s.screenB

/-- Replaces the composer of a screen. -/
def State.setComposer (s : State) (i : ScreenId) (c : Composer) : State :=
  match i with
  | .a => s.setScreenA c
  | .b => s.setScreenB c

/-- The screen record of a screen (R80). -/
def State.screen (s : State) (i : ScreenId) : ScreenRecord := (s.composer i).screen

/-- Replaces the screen record of a screen. -/
def State.setScreen (s : State) (i : ScreenId) (r : ScreenRecord) : State :=
  s.setComposer i { s.composer i with screen := r }

/-- The split record of a screen (R104). -/
def State.split (s : State) (i : ScreenId) : SplitRecord := (s.composer i).split

/-- Replaces the split record of a screen. -/
def State.setSplit (s : State) (i : ScreenId) (r : SplitRecord) : State :=
  s.setComposer i { s.composer i with split := r }

/-- The clip record of an id, `none` when FREE (R148). -/
def State.clip (s : State) (k : ClipId) : Option Clip := s.clips.clips[k]

/-- Replaces the clip record of an id. -/
def State.setClip (s : State) (k : ClipId) (c : Option Clip) : State :=
  s.setClips { s.clips with clips := s.clips.clips.set k.val c k.isLt }

/-- The active screen: the screen of the active cab (R71). -/
def DoorUnit.activeScreen (d : DoorUnit) : Option ScreenId :=
  match d.cab with
  | .none => none
  | .a => some .a
  | .b => some .b

/-! ## Timers (R186) -/

/-- A timer loaded with a number of milliseconds. -/
def State.loaded (s : State) (ms : Nat) : Timer := some (s.elapsed + ms)

/-- A running timer whose time has elapsed: its expiry may be taken (log 4). -/
def State.due (s : State) (t : Timer) : Bool :=
  match t with
  | none => false
  | some d => decide (d ≤ s.elapsed)

/-- The expiry a query reports: the time base at which the timer expires, moved with the count (R186). -/
def State.expiry (s : State) (t : Timer) : Option Time :=
  t.map fun d => s.now + BitVec.ofNat 32 d - BitVec.ofNat 32 s.elapsed

/-- The later time less the earlier, modulo 2^32 (R186). -/
def timeSince (later earlier : Time) : Nat := (later - earlier).toNat

/-! ## Reports (R181, R182) -/

/-- The place of an entry in class and source order, the start record first (R181). -/
def ReportId.index : ReportId → Fin 50
  | .start => 0
  | .doorStale => 1
  | .cameraState c => ⟨2 + c.val, by omega⟩
  | .soilState c => ⟨16 + c.val, by omega⟩
  | .view .a => 30
  | .view .b => 31
  | .jobDone j => ⟨32 + j.val, by omega⟩
  | .clipReady k => ⟨40 + k.val, by omega⟩
  | .clipMissed => 48
  | .linkFault => 49

/-- The class of an entry (R181). -/
def ReportId.cls : ReportId → Nat
  | .start => 0
  | .doorStale => 1
  | .cameraState _ => 2
  | .soilState _ => 3
  | .view _ => 4
  | .jobDone _ => 5
  | .clipReady _ => 6
  | .clipMissed => 6
  | .linkFault => 7

/-- The source number of an entry in its class (R181). -/
def ReportId.source : ReportId → Nat
  | .start => 0
  | .doorStale => 0
  | .cameraState c => c.val
  | .soilState c => c.val
  | .view .a => 0
  | .view .b => 1
  | .jobDone j => j.val
  | .clipReady k => k.val
  | .clipMissed => 8
  | .linkFault => 0

/-- The start record and the 49 entries in class and source order (R183). -/
def ReportId.all : List ReportId :=
  [.start, .doorStale] ++ allCams.map .cameraState ++ allCams.map .soilState ++ [.view .a, .view .b]
    ++ (List.finRange 8).map .jobDone ++ (List.finRange 8).map .clipReady ++ [.clipMissed, .linkFault]

/-- A raise of an entry: pending, one more change, the content overwritten whole (R182). -/
def ReportEntry.raised (e : ReportEntry) (content : ReportContent) : ReportEntry :=
  { pending := true, count := if e.pending then saturate 255 e.count else 1, content := some content }

/-- An entry withdrawn or chosen: not pending, count 0 (R182). -/
def ReportEntry.cleared (e : ReportEntry) : ReportEntry := { e with pending := false, count := 0 }

/-- An entry of the report table. -/
def LinkController.report (l : LinkController) (i : ReportId) : ReportEntry := l.reports[i.index]

/-- Replaces an entry of the report table. -/
def LinkController.setReport (l : LinkController) (i : ReportId) (e : ReportEntry) : LinkController :=
  { l with reports := l.reports.set i.index.val e i.index.isLt }

/-- Raises an entry with new content (R182). -/
def LinkController.raise (l : LinkController) (i : ReportId) (content : ReportContent) : LinkController :=
  l.setReport i ((l.report i).raised content)

/-- Withdraws an entry; nothing changes if it is not pending (R182). -/
def LinkController.withdraw (l : LinkController) (i : ReportId) : LinkController :=
  if (l.report i).pending then l.setReport i (l.report i).cleared else l

/-- Raises an entry of the report table (R182). -/
def State.raise (s : State) (i : ReportId) (content : ReportContent) : State := s.setLink (s.link.raise i content)

/-! ## Jobs (R179, R180) -/

/-- The FREE job entry with the lowest id, if any (R179). -/
def LinkController.freeJob (l : LinkController) : Option JobId :=
  (List.finRange 8).find? fun j => l.jobs[j] == JobEntry.free

/-- Opens a job on a FREE entry (R179). -/
def LinkController.openJob (l : LinkController) (j : JobId) (info : JobInfo) : LinkController :=
  { l with jobs := l.jobs.set j.val (.running info) j.isLt }

/-- Ends a RUNNING job: the entry becomes DONE_UNSENT and its JOB_DONE entry is raised. A job that has ended is not ended
again (R180). -/
def LinkController.endJob (l : LinkController) (j : JobId) (result : JobResult) (data : List Byte) : LinkController :=
  match l.jobs[j] with
  | .running info =>
    LinkController.raise { l with jobs := l.jobs.set j.val (.doneUnsent info) j.isLt } (.jobDone j)
      (.jobDone j info result data l.timeBase)
  | _ => l

/-- Opens a job. -/
def State.openJob (s : State) (j : JobId) (kind : JobKind) (subject : Nat) (tag : Byte) : State :=
  s.setLink (s.link.openJob j ⟨kind, subject, tag⟩)

/-- Ends a job with a result and result data. -/
def State.endJob (s : State) (j : JobId) (result : JobResult) (data : List Byte) : State :=
  s.setLink (s.link.endJob j result data)

/-- Ends the job of an optional id. -/
def State.endJob? (s : State) (j : Option JobId) (result : JobResult) (data : List Byte) : State :=
  match j with
  | none => s
  | some j => s.endJob j result data

end Sys2Proof.Machine
end

