-- ==== Sys2Proof/Machine/Slots.lean ====
section
/-! DEFINITION. The slot manager (spec/01): each request it takes, settled whole on its own state. -/

namespace Sys2Proof.Machine

/-! ## Pin holders (R10, R12) -/

def Holders.none : Holders := ⟨false, false, false⟩

def Holders.has (h : Holders) : Reader → Bool
  | .screenA => h.screenA
  | .screenB => h.screenB
  | .engine => h.engine

def Holders.set (h : Holders) (r : Reader) (v : Bool) : Holders :=
  match r with
  | .screenA => { h with screenA := v }
  | .screenB => { h with screenB := v }
  | .engine => { h with engine := v }

/-- The pin count: the number of readers holding a pin (R10). -/
def Holders.count (h : Holders) : Nat := h.screenA.toNat + h.screenB.toNat + h.engine.toNat

/-- What the clip unit is told of a slot that has moved into a clip (R15). -/
structure Moved where
  slot     : SlotNo
  camera   : Cam
  sequence : Word32
  clip     : ClipId
  deriving DecidableEq, Repr

/-- A publication notice: the camera, the published slot with its capture sequence and camera frame number, and the slot
this publication moved into a clip, if any (R16). -/
structure PublicationNotice where
  camera   : Cam
  slot     : SlotNo
  sequence : Word32
  number   : Word16
  moved    : Option Moved
  deriving DecidableEq, Repr

/-- The answers to a claim (R13, R14). -/
inductive ClaimAnswer where
  | grantedInRing | grantedMoved | gone | claimed | hold
  deriving DecidableEq, Repr

namespace SlotManager

/-- The record of a slot. -/
def slot (m : SlotManager) (i : SlotNo) : SlotRecord := m.records[i]

/-- Replaces the record of a slot. -/
def setSlot (m : SlotManager) (i : SlotNo) (r : SlotRecord) : SlotManager :=
  { m with records := m.records.set i.val r i.isLt }

/-- Gives a slot a new place; its pins stay (R10). -/
def setPlace (m : SlotManager) (i : SlotNo) (p : Place) : SlotManager := m.setSlot i { m.slot i with place := p }

/-- A camera's ring, if established. -/
def ring (m : SlotManager) (c : Cam) : Option Ring := m.rings[c]

/-- Replaces a camera's ring. -/
def setRing (m : SlotManager) (c : Cam) (r : Option Ring) : SlotManager :=
  { m with rings := m.rings.set c.val r c.isLt }

/-- The ring size: the number of slots in the three lists together (R5). -/
def ringSize (m : SlotManager) (c : Cam) : Nat :=
  match m.ring c with
  | none => 0
  | some r => r.ready.length + r.blank.length + (if r.filling.isSome then 1 else 0)

/-- The number of a camera's entries in the deficit queue (R6). -/
def deficitOf (m : SlotManager) (c : Cam) : Nat := m.deficit.count c

/-- The newest READY slot of a camera: the last of its READY list (R5). -/
def newest (m : SlotManager) (c : Cam) : Option SlotNo :=
  match m.ring c with
  | none => none
  | some r => r.ready.getLast?

/-- The number of slots in the retiring set (R11). -/
def retiringCount (m : SlotManager) : Nat :=
  (List.finRange 160).countP fun i => match (m.slot i).place with | .retiring _ _ => true | _ => false

/-- The frame fields of a slot, where they are present (R1). -/
def frame (m : SlotManager) (i : SlotNo) : Option FrameFields :=
  match (m.slot i).place with
  | .filling _ f => some f
  | .ready _ f _ => some f
  | .clip _ f _ => some f
  | .retiring _ f => some f
  | _ => none

/-- The claim of a slot, present in ring state READY alone (R1). -/
def claimOf (m : SlotManager) (i : SlotNo) : Option ClipId :=
  match (m.slot i).place with
  | .ready _ _ k => k
  | _ => none

/-- What the clip unit is told when a claimed READY slot moves into its clip (R15); `none` for a slot without a claim. -/
def moveNotice (m : SlotManager) (i : SlotNo) : Option Moved :=
  match (m.slot i).place with
  | .ready c f (some k) => some { slot := i, camera := c, sequence := f.sequence, clip := k }
  | _ => none

/-- A BLANK slot joins the tail of a camera's BLANK list, with its camera field set; its frame fields, claim and clip are
absent and it has no pin (R4, R7, R8, R15). -/
def joinBlank (m : SlotManager) (c : Cam) (i : SlotNo) : SlotManager :=
  let m := m.setSlot i { place := .blank c, holders := Holders.none }
  match m.ring c with
  | none => m
  | some r => m.setRing c (some { r with blank := r.blank ++ [i] })

/-- A slot that leaves its place with no pin returns (R4): to the ring of the camera at the head of the deficit queue, or
to the tail of the free pool. -/
def giveBack (m : SlotManager) (i : SlotNo) : SlotManager :=
  match m.deficit with
  | c :: rest => { m with deficit := rest }.joinBlank c i
  | [] => { m.setSlot i SlotRecord.reset with freePool := m.freePool ++ [i] }

/-- Several slots return one after another (R4). -/
def giveBackAll (m : SlotManager) (l : List SlotNo) : SlotManager := l.foldl giveBack m

/-- A pinned slot enters the retiring set, keeping camera, frame fields and pins (R11). -/
def retire (m : SlotManager) (i : SlotNo) : SlotManager :=
  match (m.slot i).place with
  | .ready c f _ => m.setPlace i (.retiring c f)
  | .clip c f _ => m.setPlace i (.retiring c f)
  | _ => m

/-- A slot leaves its place for good: it returns if no pin is on it and retires otherwise (R4, R11). -/
def leave (m : SlotManager) (i : SlotNo) : SlotManager :=
  if (m.slot i).holders.count = 0 then m.giveBack i else m.retire i

/-- Establishes a ring (R7). `none` is the answer NO_SLOTS. -/
def establish (m : SlotManager) (c : Cam) (depth : Nat) : Option SlotManager :=
  match m.ring c with
  | some _ => some m
  | none =>
    if depth ≤ m.freePool.length then
      let slots := m.freePool.take depth
      let m := { m with freePool := m.freePool.drop depth }.setRing c (some { ready := [], blank := [], filling := none })
      some (slots.foldl (fun m i => m.joinBlank c i) m)
    else none

/-- Discards the frame in a camera's FILLING slot (R8). -/
def discard (m : SlotManager) (c : Cam) : SlotManager :=
  match m.ring c with
  | none => m
  | some r =>
    match r.filling with
    | none => m
    | some i => (m.setRing c (some { r with filling := none })).joinBlank c i

/-- A READY slot that a take may choose when it is not the newest: no pin and no claim (R9). -/
def takeable (m : SlotManager) (i : SlotNo) : Bool :=
  (m.slot i).holders.count == 0 && (m.claimOf i).isNone

/-- Takes a slot for a new camera frame (R9). -/
def take (m : SlotManager) (c : Cam) (f : FrameFields) : SlotManager × Option SlotNo :=
  let m := m.discard c
  match m.ring c with
  | none => (m, none)
  | some r =>
    match r.blank with
    | i :: rest =>
      ((m.setRing c (some { r with blank := rest, filling := some i })).setSlot i
        { place := .filling c f, holders := Holders.none }, some i)
    | [] =>
      match r.ready.dropLast.find? m.takeable with
      | some i =>
        ((m.setRing c (some { r with ready := r.ready.erase i, filling := some i })).setSlot i
          { place := .filling c f, holders := Holders.none }, some i)
      | none => (m, none)

/-- A claimed slot leaves the READY list of its ring for its clip (R15), without a replacement. -/
def moveOut (m : SlotManager) (c : Cam) (i : SlotNo) : SlotManager :=
  match (m.slot i).place with
  | .ready c' f (some k) =>
    let m := m.setPlace i (.clip c' f k)
    match m.ring c with
    | none => m
    | some r => m.setRing c (some { r with ready := r.ready.erase i })
  | _ => m

/-- The replacement of a slot that left a remaining ring for a clip: the free-pool head joins as BLANK, or a deficit entry
is appended (R15). -/
def replace (m : SlotManager) (c : Cam) : SlotManager :=
  match m.freePool with
  | i :: rest => { m with freePool := rest }.joinBlank c i
  | [] => { m with deficit := m.deficit ++ [c] }

/-- A claimed slot moves into its clip and the ring receives its replacement (R15). -/
def moveIntoClip (m : SlotManager) (c : Cam) (i : SlotNo) : SlotManager := (m.moveOut c i).replace c

/-- Publishes a camera's FILLING slot (R16). -/
def publish (m : SlotManager) (c : Cam) : SlotManager × Option PublicationNotice :=
  match m.ring c with
  | none => (m, none)
  | some r =>
    match r.filling with
    | none => (m, none)
    | some i =>
      match (m.slot i).place with
      | .filling _ f =>
        let before := r.ready.getLast?
        let m := (m.setRing c (some { r with ready := r.ready ++ [i], filling := none })).setPlace i (.ready c f none)
        let notice := fun (moved : Option Moved) =>
          some { camera := c, slot := i, sequence := f.sequence, number := f.number, moved := moved }
        match before with
        | none => (m, notice none)
        | some old =>
          match m.moveNotice old with
          | none => (m, notice none)
          | some v => (m.moveIntoClip c old, notice (some v))
      | _ => (m, none)

/-- Pins the newest READY slot of a camera for a reader (R10). -/
def pinNewest (m : SlotManager) (c : Cam) (reader : Reader) : SlotManager × Option SlotNo :=
  match m.newest c with
  | none => (m, none)
  | some i => (m.setSlot i { m.slot i with holders := (m.slot i).holders.set reader true }, some i)

/-- Removes a reader's pin from a slot; a retiring slot whose count reaches 0 returns (R12). -/
def unpin (m : SlotManager) (i : SlotNo) (reader : Reader) : SlotManager :=
  if (m.slot i).holders.has reader then
    let h := (m.slot i).holders.set reader false
    let m := m.setSlot i { m.slot i with holders := h }
    match (m.slot i).place with
    | .retiring _ _ => if h.count = 0 then m.giveBack i else m
    | _ => m
  else m

/-- The clip unit claims a slot for a clip (R13, R14). -/
def claim (m : SlotManager) (k : ClipId) (c : Cam) (i : SlotNo) (sequence : Word32) : SlotManager × ClaimAnswer :=
  match (m.slot i).place with
  | .ready c' f old =>
    if c' = c ∧ f.sequence = sequence then
      match old with
      | some _ => (m, .claimed)
      | none =>
        if m.holdCount < m.holdLimit then
          let m := { m.setPlace i (.ready c' f (some k)) with holdCount := m.holdCount + 1 }
          if m.newest c = some i then (m, .grantedInRing) else (m.moveIntoClip c i, .grantedMoved)
        else (m, .hold)
    else (m, .gone)
  | _ => (m, .gone)

/-- Releases one entry of a clip's frame list (R19). A claim on a slot still in its ring is dropped and the slot stays, as
R19 and R158 state, where a row of the table of R161 says that the release returns or retires it (log 40). -/
def releaseOne (m : SlotManager) (k : ClipId) (i : SlotNo) : SlotManager :=
  match (m.slot i).place with
  | .clip _ _ k' => if k' = k then { m with holdCount := m.holdCount - 1 }.leave i else m
  | .ready c f (some k') =>
    if k' = k then { m.setPlace i (.ready c f none) with holdCount := m.holdCount - 1 } else m
  | _ => m

/-- Releases a clip, walking its frame list in order (R19). -/
def release (m : SlotManager) (k : ClipId) (slots : List SlotNo) : SlotManager :=
  slots.foldl (fun m i => m.releaseOne k i) m

/-- Dissolves a camera's ring (R20), in its five steps. The slot that moved into a clip is named for the clip unit. -/
def dissolve (m : SlotManager) (c : Cam) : SlotManager × Option Moved :=
  match m.ring c with
  | none => (m, none)
  | some r =>
    let m := { m with deficit := m.deficit.filter (· != c) }
    let moved : Option Moved := r.ready.getLast?.bind m.moveNotice
    let m := match moved with
      | none => m
      | some v => m.moveOut c v.slot
    let ready := match moved with
      | none => r.ready
      | some v => r.ready.erase v.slot
    let m := (m.giveBackAll r.filling.toList).giveBackAll r.blank
    let m := ready.foldl leave m
    (m.setRing c none, moved)

end SlotManager

end Sys2Proof.Machine
end

