-- ==== Sys2Proof/Machine/Operands.lean ====
section
/-! DEFINITION. Every operand form: the request kinds and the bodies of requests (spec/11 sections 11.1 to 11.3), the
bytes of lane packets (section 11.6), and the answers a request may get (spec/10 R178). -/

namespace Sys2Proof.Machine

/-! ## Request kinds (section 11.3) -/

/-- The kind code of a request. -/
def kindCode : RequestKind → Byte
  | .partInfo => 0x01#8
  | .linkQuery => 0x02#8
  | .reportMask => 0x03#8
  | .timeSet => 0x04#8
  | .reset => 0x05#8
  | .slotQuery => 0x08#8
  | .holdLimitSet => 0x09#8
  | .cameraSetup => 0x10#8
  | .cameraStart => 0x11#8
  | .cameraStop => 0x12#8
  | .cameraQuery => 0x13#8
  | .cameraCommand => 0x14#8
  | .doorMap => 0x18#8
  | .endMap => 0x19#8
  | .doorTable => 0x1A#8
  | .doorChange => 0x1B#8
  | .doorFreshnessSet => 0x1C#8
  | .cabSet => 0x1D#8
  | .doorQuery => 0x1E#8
  | .screenSetup => 0x20#8
  | .layoutWrite => 0x21#8
  | .layoutSelect => 0x22#8
  | .layoutForce => 0x23#8
  | .screenQuery => 0x24#8
  | .layoutQuery => 0x25#8
  | .soilSetup => 0x28#8
  | .soilTune => 0x29#8
  | .soilLearn => 0x2A#8
  | .washDone => 0x2B#8
  | .soilQuery => 0x2C#8
  | .triggerMapSet => 0x30#8
  | .clipTake => 0x31#8
  | .clipRelease => 0x32#8
  | .clipQuery => 0x33#8
  | .exportClip => 0x34#8
  | .exportAbort => 0x35#8

/-- All request kinds. -/
def requestKinds : List RequestKind :=
  [.partInfo, .linkQuery, .reportMask, .timeSet, .reset, .slotQuery,
   .holdLimitSet, .cameraSetup, .cameraStart, .cameraStop, .cameraQuery, .cameraCommand,
   .doorMap, .endMap, .doorTable, .doorChange, .doorFreshnessSet, .cabSet,
   .doorQuery, .screenSetup, .layoutWrite, .layoutSelect, .layoutForce, .screenQuery,
   .layoutQuery, .soilSetup, .soilTune, .soilLearn, .washDone, .soilQuery,
   .triggerMapSet, .clipTake, .clipRelease, .clipQuery, .exportClip, .exportAbort]

/-- The request kind of a code; `none` for an unknown kind (R178). -/
def kindOfCode (code : Byte) : Option RequestKind := requestKinds.find? fun k => kindCode k == code

/-! ## Reading a body -/

/-- The 1-byte field at a position of a body. -/
def field1 (body : List Byte) (i : Nat) : Nat := (body.getD i 0).toNat

/-- The 2-byte field that begins at a position of a body (R191). -/
def field2 (body : List Byte) (i : Nat) : Nat := nat2 (body.getD i 0) (body.getD (i + 1) 0)

/-- The 4-byte field that begins at a position of a body (R191). -/
def field4 (body : List Byte) (i : Nat) : Nat :=
  nat4 (body.getD i 0) (body.getD (i + 1) 0) (body.getD (i + 2) 0) (body.getD (i + 3) 0)

/-- The items of a list carried as a 1-byte count and 1-byte items, for a body that begins with it. -/
def listItems (body : List Byte) : List Nat := ((body.drop 1).take (field1 body 0)).map (·.toNat)

/-- A tile record as it stands in a LAYOUT_WRITE body, its fields not tested yet. -/
structure RawTile where
  x : Nat
  y : Nat
  w : Nat
  h : Nat
  source    : Nat
  alternate : Nat
  label     : List Byte
  deriving DecidableEq, Repr

/-- Reads a number of tile records that must use up all the bytes; `none` where a label count calls for more bytes than
remain, or bytes are left over (R193). -/
def readTiles : Nat → List Byte → Option (List RawTile)
  | 0, [] => some []
  | n + 1, x1 :: x0 :: y1 :: y0 :: w1 :: w0 :: h1 :: h0 :: source :: alternate :: count :: rest =>
    if count.toNat ≤ rest.length then
      (readTiles n (rest.drop count.toNat)).map fun tiles =>
        { x := nat2 x1 x0, y := nat2 y1 y0, w := nat2 w1 w0, h := nat2 h1 h0, source := source.toNat,
          alternate := alternate.toNat, label := rest.take count.toNat } :: tiles
    else none
  | _, _ => none

/-- The tile records of a LAYOUT_WRITE body. -/
def layoutTiles (body : List Byte) : Option (List RawTile) :=
  match body with
  | _ :: count :: rest => readTiles count.toNat rest
  | _ => none

/-- Whether a body begins with a list of 1-byte items followed by exactly this many bytes more. -/
def listThen (body : List Byte) (more : Nat) : Bool :=
  match body with
  | [] => false
  | count :: rest => rest.length == count.toNat + more

/-- The length of a request body without lists (section 11.3); `none` for a body with a list. -/
def fixedLength : RequestKind → Option Nat
  | .partInfo => some 0
  | .linkQuery => some 0
  | .reportMask => none
  | .timeSet => some 4
  | .reset => some 0
  | .slotQuery => some 1
  | .holdLimitSet => some 1
  | .cameraSetup => some 11
  | .cameraStart => some 1
  | .cameraStop => some 1
  | .cameraQuery => some 1
  | .cameraCommand => some 3
  | .doorMap => some 48
  | .endMap => some 2
  | .doorTable => some 12
  | .doorChange => some 2
  | .doorFreshnessSet => some 2
  | .cabSet => some 1
  | .doorQuery => some 0
  | .screenSetup => some 13
  | .layoutWrite => none
  | .layoutSelect => some 2
  | .layoutForce => some 2
  | .screenQuery => some 1
  | .layoutQuery => some 1
  | .soilSetup => some 3
  | .soilTune => some 7
  | .soilLearn => some 1
  | .washDone => none
  | .soilQuery => some 1
  | .triggerMapSet => some 9
  | .clipTake => none
  | .clipRelease => some 1
  | .clipQuery => some 1
  | .exportClip => some 5
  | .exportAbort => some 0

/-- Whether a body length is legal for a request, by the counts the body itself holds (R193). -/
def legalLength (kind : RequestKind) (body : List Byte) : Bool :=
  match fixedLength kind with
  | some n => body.length == n
  | none =>
    match kind with
    | .layoutWrite => (layoutTiles body).isSome
    | .clipTake => listThen body 1
    | _ => listThen body 0

/-! ## Field values -/

/-- A camera number 0–13. -/
def camOf (n : Nat) : Option Cam := if h : n < 14 then some ⟨n, h⟩ else none

/-- A clip id 0–7. -/
def clipOf (n : Nat) : Option ClipId := if h : n < 8 then some ⟨n, h⟩ else none

/-- A door number 0–11. -/
def doorOf (n : Nat) : Option Door := if h : n < 12 then some ⟨n, h⟩ else none

/-- A layout number 0–15. -/
def layoutOf (n : Nat) : Option LayoutNo := if h : n < 16 then some ⟨n, h⟩ else none

/-- A slot number 0–159. -/
def slotOf (n : Nat) : Option SlotNo := if h : n < 160 then some ⟨n, h⟩ else none

/-- A camera number or the absent marker FFh (R192); `none` where it is neither. -/
def camOrNone (n : Nat) : Option (Option Cam) := if n = 255 then some none else (camOf n).map some

/-- A layout number or the absent marker FFh (R192); `none` where it is neither. -/
def layoutOrNone (n : Nat) : Option (Option LayoutNo) := if n = 255 then some none else (layoutOf n).map some

/-- A screen code (R191). -/
def screenOf (n : Nat) : Option ScreenId := if n = 0 then some .a else if n = 1 then some .b else none

/-- A yes/no, on/off or set/clear field (R191). -/
def flagOf (n : Nat) : Option Bool := if n = 0 then some false else if n = 1 then some true else none

/-- A side code (R191). -/
def sideOf (n : Nat) : Option Side := if n = 0 then some .left else if n = 1 then some .right else none

/-- A cab code (R191). -/
def cabOf (n : Nat) : Option Cab := if n = 0 then some .none else if n = 1 then some .a else if n = 2 then some .b else none

/-- A door state code (R191). -/
def doorStateOf (n : Nat) : Option DoorState :=
  match n with
  | 0 => some .locked
  | 1 => some .released
  | 2 => some .open
  | 3 => some .closing
  | 4 => some .obstructed
  | 5 => some .fault
  | _ => none

/-- A tile source code (R191): 0–13 CAMERA n, 40h FRONT, 41h REAR, 42h NONE. -/
def sourceOf (n : Nat) : Option TileSource :=
  if n = 0x40 then some .front else if n = 0x41 then some .rear else if n = 0x42 then some .blank
  else (camOf n).map .camera

/-- A clip mode that CLIP_TAKE may name (R157, R191). -/
def takeModeOf (n : Nat) : Option ClipMode := if n = 1 then some .setNewest else if n = 2 then some .setNext else none

/-- An export content code (R162, R191). -/
def contentOf (n : Nat) : Option ExportContent := if n = 0 then some .luma else if n = 1 then some .full else none

/-- The number of the first field that fails its test, of fields in the order they are tested. -/
def firstBad (tests : List (Nat × Bool)) : Option Nat := (tests.find? (·.2)).map (·.1)

/-! ## Answers (R178) -/

/-- The result of a request with its reply data. -/
inductive Answer where
  | ok (data : List Byte)
  | accepted (job : JobId)
  | unknownKind
  | badLength
  | badField (field : Nat)
  | state
  | busy
  | noSlots
  | noRoom
  | notFound
  deriving DecidableEq, Repr

/-- The body of the reply that carries an answer (R178, sections 11.1 and 11.4). -/
def Answer.bytes : Answer → List Byte
  | .ok data => 0x00 :: data
  | .accepted job => [0x01, byteOf job.val]
  | .unknownKind => [0x02]
  | .badLength => [0x03]
  | .badField field => [0x04, byteOf field]
  | .state => [0x05]
  | .busy => [0x06]
  | .noSlots => [0x07]
  | .noRoom => [0x08]
  | .notFound => [0x09]

/-! ## Lane packets (section 11.6) -/

/-- A frame-start with a good header check and the length of its kind: camera frame number, width, height (R23, R193). -/
structure FrameStart where
  number : Word16
  width  : Nat
  height : Nat
  deriving DecidableEq, Repr

/-- Reads a frame-start from the bytes after its type byte 01h; `none` where the lane drops it (R23, R193). -/
def readFrameStart (packet : List Byte) : Option FrameStart :=
  match packet with
  | [n1, n0, w1, w0, h1, h0, check] =>
    if crc8 [0x01, n1, n0, w1, w0, h1, h0] = check then
      some { number := BitVec.ofNat 16 (nat2 n1 n0), width := nat2 w1 w0, height := nat2 h1 h0 }
    else none
  | _ => none

/-- Reads the line count of a frame-end from the bytes after its type byte 03h; `none` where the lane drops it. -/
def readFrameEnd (packet : List Byte) : Option Nat :=
  match packet with
  | [n1, n0, check] => if crc8 [0x03, n1, n0] = check then some (nat2 n1 n0) else none
  | _ => none

/-- A line packet with a good line CRC. -/
structure Line where
  number : Nat
  pixels : List Byte
  deriving DecidableEq, Repr

/-- Reads a line packet from the bytes after its type byte 02h; `none` where its line CRC is wrong (R38). A packet too short
to hold a line number and a CRC has no good CRC (log 15). -/
def readLine (packet : List Byte) : Option Line :=
  match packet with
  | n1 :: n0 :: rest =>
    if 2 ≤ rest.length then
      let pixels := rest.take (rest.length - 2)
      if (crc16 (n1 :: n0 :: pixels)).toNat = field2 rest (rest.length - 2) then
        some { number := nat2 n1 n0, pixels := pixels }
      else none
    else none
  | _ => none

/-- The code of a lane command kind (R191). -/
def LaneCommand.code : LaneCommand → Byte
  | .identify => 0x01
  | .configure _ _ _ => 0x02
  | .streamOn => 0x03
  | .streamOff => 0x04
  | .heater _ => 0x05
  | .status => 0x06

/-- A command as it stands on the lane (section 11.6). -/
def LaneCommand.bytes (c : LaneCommand) : List Byte :=
  let fields := match c with
    | .configure w h r => bytes2 w ++ bytes2 h ++ [byteOf r]
    | .heater on => [byteOf on.toNat]
    | _ => []
  let head := c.code :: fields
  head ++ [crc8 head]

/-- The length of the payload of a DONE response (R46, section 11.6). -/
def LaneCommand.payloadLength : LaneCommand → Nat
  | .identify => 11
  | .status => 3
  | _ => 0

/-- How a command in flight ends (R49, R50). -/
inductive CommandEnd where
  | done (payload : List Byte)
  | failed (code : FailCode)
  deriving DecidableEq, Repr

/-- Checks a response against the command in flight, from the bytes after its type byte 04h (R49); `none` is a failed
attempt, by BAD_CRC or WRONG_ECHO. -/
def checkResponse (command : LaneCommand) (packet : List Byte) : Option CommandEnd :=
  match packet.getLast?, packet.dropLast with
  | some check, echo :: result :: payload =>
    if crc8 (0x04 :: echo :: result :: payload) = check ∧ echo = command.code then
      if result = 0x00 then
        if payload.length = command.payloadLength then some (.done payload) else none
      else if result = 0x01 then
        if payload.length = 0 then some (.failed .cameraRefused) else none
      else none
    else none
  | _, _ => none

end Sys2Proof.Machine
end

