-- ==== Sys2Proof/Machine/Flags.lean ====
section
/-! DEFINITION. Every flag computation: the health flags and totals of a camera (spec/02 R40 to R42), the soiling marker
(spec/05 R94, spec/07 R135), the markers of a tile (spec/05 R98 to R100) and the sets carried in messages. -/

namespace Sys2Proof.Machine

/-- A total of a camera record rises by 1 (R24). What follows 4294967295 is not stated: a free value (log 11). -/
def bumpTotal (which : CameraTotal) (c : Cam) (elapsed : Nat) (n : Word32) : Word32 :=
  if n = 0xFFFFFFFF#32 then Config.totalPastRange which c.val elapsed else n + 1

/-- The health part of a damaged frame (R40, R41): damage kind, damaged counts, DEGRADED set at 8 in a row. -/
def CameraRecord.damaged (r : CameraRecord) (c : Cam) (elapsed : Nat) (kind : DamageKind) : CameraRecord :=
  { r with
    receive := .waitStart, lastDamage := some kind,
    damagedTotal := bumpTotal .damaged c elapsed r.damagedTotal,
    damagedRun := saturate 255 r.damagedRun, goodRun := 0,
    degraded := r.degraded || decide (8 ≤ saturate 255 r.damagedRun) }

/-- The health part of a good frame (R39, R41): published counts, DEGRADED cleared at 4 in a row. -/
def CameraRecord.good (r : CameraRecord) (c : Cam) (elapsed : Nat) (sequence : Word32) : CameraRecord :=
  { r with
    receive := .waitStart, lastPublished := some sequence,
    publishedTotal := bumpTotal .published c elapsed r.publishedTotal,
    goodRun := saturate 255 r.goodRun, damagedRun := 0,
    degraded := r.degraded && !decide (4 ≤ saturate 255 r.goodRun) }

/-- The health part of a skipped frame (R37, R42): skipped counts, STARVED set at 3 in a row. -/
def CameraRecord.skipped (r : CameraRecord) (c : Cam) (elapsed : Nat) : CameraRecord :=
  { r with
    receive := .waitStart, skippedTotal := bumpTotal .skipped c elapsed r.skippedTotal,
    skipRun := saturate 255 r.skipRun, starved := r.starved || decide (3 ≤ saturate 255 r.skipRun) }

/-- The health part of a frame given a slot (R37, R42): STARVED cleared. -/
def CameraRecord.slotGiven (r : CameraRecord) : CameraRecord :=
  { r with receive := .receiving, nextLine := 0, skipRun := 0, starved := false }

/-- A CAMERA_STATE raise with cause HEALTH for each change of DEGRADED or STARVED (R41, R42). -/
def healthCauses (before after : CameraRecord) : List CameraCause :=
  (if before.degraded != after.degraded then [.health] else [])
    ++ (if before.starved != after.starved then [.health] else [])

/-- Whether the camera record's heater present is yes (R24): 01h, as R191 codes yes (log 17). -/
def CameraRecord.hasHeater (r : CameraRecord) : Bool := r.heaterPresent == 1

/-- A camera has the soiling marker while its state is SOILED, or VERIFY with was soiled set (R94, R135). -/
def soilMarker (state : SoilState) (wasSoiled : Bool) : Bool :=
  match state with
  | .soiled => true
  | .verify => wasSoiled
  | _ => false

/-- The soiling marker of a record. -/
def SoilRecord.marker (r : SoilRecord) : Bool := soilMarker r.state r.wasSoiled

/-- No marker. -/
def Markers.none : Markers := ⟨false, false, false, false, false, false, false, false, false⟩

/-- The split marker of an entry's class and deciding state (R113). -/
def splitMarkers (a : Option Attention) : Markers :=
  match a with
  | .none => { Markers.none with closed := true }
  | some ⟨.one, _⟩ => { Markers.none with obstruction := true }
  | some ⟨.two, .fault⟩ => { Markers.none with fault := true }
  | some _ => Markers.none

/-- A set carried as one bit per member, the first member in the least significant bit (R191). -/
def setBits (members : List Bool) : Nat := members.foldr (fun b n => b.toNat + 2 * n) 0

/-- The markers as a set, in the order of R98. -/
def Markers.bits (m : Markers) : Nat :=
  setBits [m.obstruction, m.fault, m.closed, m.soiled, m.frozen, m.alternate, m.noPicture, m.overflow, m.unconfigured]

/-- FROZEN: the slot is older than the freeze limit at the output frame start (R100). -/
def isFrozen (now captured : Time) (limit : Nat) : Bool := decide (limit < timeSince now captured)

end Sys2Proof.Machine
end

