-- ==== Sys2Proof/Machine/Clips.lean ====
section
/-! DEFINITION. The clip unit (spec/08): claims, triggers, post collection, set clips and CLIP_READY. -/

namespace Sys2Proof.Machine

/-! ## Reports and completion (R155, R159) -/

/-- The flags of a clip as a set of TRUNCATED, SHORT (section 11.4). -/
def Clip.flags (k : Clip) : Byte := byteOf (setBits [k.truncated, k.short])

/-- Clip id, frame count and flags, as the result data of CLIP_TAKE carry them (R157, section 11.5). -/
def Clip.summary (k : Clip) (id : ClipId) : List Byte := [byteOf id.val, byteOf k.frames.length, k.flags]

/-- Raises CLIP_READY of a clip (R159). -/
def State.raiseClipReady (s : State) (id : ClipId) (cause : ClipCause) : State :=
  match s.clip id with
  | none => s
  | some k =>
    s.raise (.clipReady id) (.clipReady
      { clip := id, cause := cause, mode := k.mode, cameras := k.cameras, triggers := k.triggers,
        moreTriggers := k.moreTriggers, truncated := k.truncated, short := k.short, frameCount := k.frames.length,
        time := s.now })

/-- A clip enters COMPLETE (R155). -/
def State.completeClip (s : State) (id : ClipId) (cause : ClipCause) : State :=
  match s.clip id with
  | none => s
  | some k => (s.setClip id (some { k with state := .complete })).raiseClipReady id cause

/-- The FREE clip of lowest id (R148). -/
def ClipUnit.freeClip (u : ClipUnit) : Option ClipId :=
  (List.finRange 8).find? fun id => u.clips[id].isNone

/-! ## Frame entries (R149) -/

/-- Whether an entry stands before another: by the camera list, and within a camera by ascending capture sequence
(R149, log 23). -/
def Clip.precedes (k : Clip) (a b : FrameEntry) : Bool :=
  let place := fun (e : FrameEntry) => k.cameras.findIdx (·.camera == e.camera)
  decide (place a < place b) ||
    (place a == place b && a.sequence != b.sequence && decide ((b.sequence - a.sequence).toNat < 2147483648))

/-- Inserts an entry at its place in a frame list. -/
def Clip.insertFrame (k : Clip) (e : FrameEntry) : List FrameEntry → List FrameEntry
  | [] => [e]
  | f :: rest => if k.precedes e f then e :: f :: rest else f :: Clip.insertFrame k e rest

/-- A granted claim creates a frame entry (R149). -/
def Clip.addFrame (k : Clip) (e : FrameEntry) : Clip := { k with frames := k.insertFrame e k.frames }

/-- The entry of a slot that has moved into the clip becomes HELD (R149). -/
def Clip.hold (k : Clip) (v : Moved) : Clip :=
  { k with frames := k.frames.map fun e =>
      if e.slot = v.slot ∧ e.camera = v.camera ∧ e.sequence = v.sequence then { e with held := true } else e }

/-- The clip unit is told of a slot that moved into a clip (R15, R149). -/
def State.slotMoved (s : State) (moved : Option Moved) : State :=
  match moved with
  | none => s
  | some v => s.setClip v.clip ((s.clip v.clip).map (·.hold v))

/-- Claims a slot for a clip and, when the claim is granted, creates its frame entry (R13, R149). -/
def State.claimFor (s : State) (id : ClipId) (c : Cam) (slot : SlotNo) (sequence : Word32) (role : FrameRole) :
    State × ClaimAnswer :=
  let time : Time := match s.slots.frame slot with
    | none => 0
    | some f => f.time
  let (m, answer) := s.slots.claim id c slot sequence
  let entry := fun (held : Bool) => FrameEntry.mk slot c sequence time role held
  match answer with
  | .grantedInRing => ((s.setSlots m).setClip id ((s.clip id).map (·.addFrame (entry false))), answer)
  | .grantedMoved => ((s.setSlots m).setClip id ((s.clip id).map (·.addFrame (entry true))), answer)
  | _ => (s, answer)

/-- Changes a clip that is not FREE. -/
def State.mapClip (s : State) (id : ClipId) (f : Clip → Clip) : State := s.setClip id ((s.clip id).map f)

/-! ## Automatic triggers (R150 to R153) -/

/-- The map entry of a kind (R146). -/
def TriggerMap.entry (m : TriggerMap) : TriggerKind → TriggerSetting
  | .obstruction => m.obstruction
  | .doorFault => m.doorFault
  | .soiled => m.soiled

/-- A camera's DOOR clip in COLLECTING (R148). -/
def State.collectingDoorClip (s : State) (c : Cam) : Option ClipId :=
  (List.finRange 8).find? fun id =>
    match s.clip id with
    | some k => k.state == .collecting && k.mode == .door && k.cameras.any (·.camera == c)
    | none => false

/-- The walk over the READY list from the newest, claiming the pre frames that are still to be granted (R151). -/
def State.preWalk (s : State) (id : ClipId) (c : Cam) : Nat → List SlotNo → State
  | 0, _ => s
  | _, [] => s
  | n + 1, i :: rest =>
    match s.slots.claimOf i, s.slots.frame i with
    | none, some f =>
      match s.claimFor id c i f.sequence .pre with
      | (s, .grantedInRing) => State.preWalk s id c n rest
      | (s, .grantedMoved) => State.preWalk s id c n rest
      | (s, .hold) => s.mapClip id fun k => { k with truncated := true }
      | (s, _) => State.preWalk s id c (n + 1) rest
    | _, _ => State.preWalk s id c (n + 1) rest

/-- A trigger opens a clip (R151). -/
def State.openClip (s : State) (id : ClipId) (kind : TriggerKind) (c : Cam) : State :=
  let setting := s.clips.map.entry kind
  let s := s.setClip id (some
    { state := .collecting, mode := .door, cameras := [⟨c, none⟩], triggers := [⟨some kind, some c, s.now⟩],
      moreTriggers := false, postRemaining := setting.post, truncated := false, short := false, frames := [],
      job := none, opened := s.now })
  let ready := match s.slots.ring c with
    | none => []
    | some r => r.ready.reverse
  let s := s.preWalk id c setting.pre ready
  if setting.post = 0 then s.completeClip id .collected else s

/-- A trigger extends a collecting clip (R152). -/
def Clip.extend (k : Clip) (post : Nat) (trigger : TriggerEntry) : Clip :=
  let k := { k with postRemaining := min (max k.postRemaining post) (16 - k.frames.length) }
  if k.triggers.length < 4 then { k with triggers := k.triggers ++ [trigger] } else { k with moreTriggers := true }

/-- A missed trigger (R153). -/
def State.missTrigger (s : State) (reason : MissReason) (kind : TriggerKind) (c : Cam) : State :=
  let s := s.setClips { s.clips with missed := saturate 65535 s.clips.missed }
  s.raise .clipMissed (.clipMissed reason kind c s.now s.clips.missed)

/-- An automatic trigger on a camera, at the time base of its event (R150). -/
def State.trigger (s : State) (kind : TriggerKind) (c : Cam) : State :=
  let setting := s.clips.map.entry kind
  if setting.clip = false then s
  else
    match s.collectingDoorClip c with
    | some id => s.mapClip id fun k => k.extend setting.post ⟨some kind, some c, s.now⟩
    | none =>
      if (s.cam c).state ≠ .running then s.missTrigger .noCamera kind c
      else
        match s.clips.freeClip with
        | none => s.missTrigger .noClip kind c
        | some id =>
          if s.slots.holdLimit ≤ s.slots.holdCount ∧ 0 < setting.pre + setting.post then
            s.missTrigger .noHold kind c
          else s.openClip id kind c

/-! ## Set clips and post collection (R154, R156, R157) -/

/-- The status of a camera of a set clip becomes another. -/
def Clip.setStatus (k : Clip) (c : Cam) (status : CameraStatus) : Clip :=
  { k with cameras := k.cameras.map fun x => if x.camera = c then { x with status := some status } else x }

/-- Whether a camera of the clip is WAITING. -/
def Clip.waits (k : Clip) (c : Cam) : Bool := k.cameras.any fun x => x.camera == c && x.status == some .waiting

/-- The test of a SET_NEXT clip's end: with no camera WAITING it is COMPLETE and its job ends OK (R157, log 24). -/
def State.testSetNext (s : State) (id : ClipId) : State :=
  match s.clip id with
  | none => s
  | some k =>
    if k.cameras.any (·.status == some .waiting) then s
    else ((s.setClip id (some { k with job := none })).completeClip id .collected).endJob? k.job .ok (k.summary id)

/-- Serves one clip with a publication notice (R154). -/
def State.serveClip (s : State) (c : Cam) (slot : SlotNo) (sequence : Word32) (id : ClipId) : State :=
  match s.clip id with
  | none => s
  | some k =>
    if k.state ≠ .collecting then s
    else
      match k.mode with
      | .door =>
        if k.cameras.any (·.camera == c) ∧ 0 < k.postRemaining then
          match s.claimFor id c slot sequence .post with
          | (s, .hold) => (s.mapClip id fun k => { k with truncated := true }).completeClip id .collected
          | (s, .gone) => s
          | (s, .claimed) => s
          | (s, _) =>
            let s := s.mapClip id fun k => { k with postRemaining := k.postRemaining - 1 }
            if k.postRemaining = 1 then s.completeClip id .collected else s
        else s
      | .setNext =>
        if k.waits c then
          match s.claimFor id c slot sequence .set with
          | (s, .hold) => (s.mapClip id fun k => { k with truncated := true }.setStatus c .missing).testSetNext id
          | (s, .gone) => s
          | (s, .claimed) => s
          | (s, _) => (s.mapClip id fun k => k.setStatus c .delivered).testSetNext id
        else s
      | .setNewest => s

/-- A publication notice: the moved slot first, then the waiting clips in ascending id (R154). -/
def State.publicationNotice (s : State) (n : PublicationNotice) : State :=
  (List.finRange 8).foldl (fun s id => s.serveClip n.camera n.slot n.sequence id) (s.slotMoved n.moved)

/-- A camera left RUNNING, as one clip sees it (R156). -/
def State.cameraLeftClip (s : State) (c : Cam) (id : ClipId) : State :=
  match s.clip id with
  | none => s
  | some k =>
    if k.state ≠ .collecting then s
    else
      match k.mode with
      | .door =>
        if k.cameras.any (·.camera == c) then
          (s.mapClip id fun k => { k with short := true }).completeClip id .collected
        else s
      | .setNext =>
        if k.waits c then
          (s.mapClip id fun k => { k with short := true }.setStatus c .missing).testSetNext id
        else s
      | .setNewest => s

/-- A camera state notice whose new state is LOST, STOPPING or FAILED, from RUNNING (R156). -/
def State.clipNotice (s : State) (c : Cam) (old new : CaptureState) : State :=
  if old = .running ∧ (new = .lost ∨ new = .stopping ∨ new = .failed) then
    (List.finRange 8).foldl (fun s id => s.cameraLeftClip c id) s
  else s

/-- The claims of a SET_NEWEST clip in list order; after HOLD the remaining cameras are MISSING (R157). -/
def State.takeNewest (s : State) (id : ClipId) : List Cam → State
  | [] => s
  | c :: rest =>
    let missing := fun (s : State) => s.mapClip id fun k => { k with short := true }.setStatus c .missing
    match s.slots.newest c with
    | none => State.takeNewest (missing s) id rest
    | some i =>
      match (s.cam c).state, s.slots.claimOf i, s.slots.frame i with
      | .running, none, some f =>
        match s.claimFor id c i f.sequence .set with
        | (s, .hold) =>
          (c :: rest).foldl (fun s c => s.mapClip id fun k => k.setStatus c .missing)
            (s.mapClip id fun k => { k with truncated := true })
        | (s, .gone) => State.takeNewest (missing s) id rest
        | (s, .claimed) => State.takeNewest (missing s) id rest
        | (s, _) => State.takeNewest (s.mapClip id fun k => k.setStatus c .delivered) id rest
      | _, _, _ => State.takeNewest (missing s) id rest

/-- A clip as CLIP_TAKE takes it, with the status each camera begins with (R157). -/
def State.takenClip (s : State) (mode : ClipMode) (cameras : List ClipCamera) (short : Bool) (job : Option JobId) : Clip :=
  { state := .collecting, mode := mode, cameras := cameras, triggers := [⟨none, none, s.now⟩], moreTriggers := false,
    postRemaining := 0, truncated := false, short := short, frames := [], job := job, opened := s.now }

end Sys2Proof.Machine
end

