-- ==== Sys2Proof/Machine/Control.lean ====
section
/-! DEFINITION. The control queue and the path of a camera port (spec/03): what a request for an entry, the flush and the
sending of commands do to a control record. -/

namespace Sys2Proof.Machine

/-- The lane command of a pass-through (R56). -/
def PassCommand.command : PassCommand → LaneCommand
  | .identify => .identify
  | .status => .status
  | .heater on => .heater on

/-- The command of an entry's step (R48, R52, R53, R55, R57). -/
def EntryWork.command : EntryWork → LaneCommand
  | .bringUp _ _ _ .identify => .identify
  | .bringUp w h r .configure => .configure w h r
  | .bringUp _ _ _ .streamOn => .streamOn
  | .streamOff => .streamOff
  | .heater on => .heater on
  | .passThrough p _ => p.command

/-- An entry as it is admitted: not started, not flushed (R51). -/
def QueueEntry.admitted (work : EntryWork) : QueueEntry := { work := work, started := false, flushed := false }

/-- A heater entry that has not started (R54). -/
def QueueEntry.unsentHeater (e : QueueEntry) : Bool :=
  match e.work with
  | .heater _ => !e.started
  | _ => false

/-- A pass-through entry (R51). -/
def QueueEntry.isPassThrough (e : QueueEntry) : Bool :=
  match e.work with
  | .passThrough _ _ => true
  | _ => false

namespace ControlRecord

/-- The path is IDLE while no command is in flight (R47). -/
def idle (r : ControlRecord) : Bool := r.inFlight.isNone

/-- While the path is IDLE and the queue is not empty, the command of the current entry's step is sent (R48). The response
timer starts when the command's last byte has left (log 16). -/
def pump (r : ControlRecord) : ControlRecord :=
  match r.inFlight, r.queue with
  | none, e :: rest =>
    { queue := { e with started := true } :: rest, inFlight := some e.work.command, attempt := .first,
      responseTimer := none, unsent := r.unsent + 1 }
  | _, _ => r

/-- An entry is admitted at the tail, or answered FULL (`none`) (R51). -/
def enqueue (r : ControlRecord) (work : EntryWork) : Option ControlRecord :=
  if r.queue.length < 3 then some { r with queue := r.queue ++ [QueueEntry.admitted work] }.pump else none

/-- A heater request of the soiling monitor; `none` is the answer FULL (R54). -/
def heaterRequest (r : ControlRecord) (on : Bool) : Option ControlRecord :=
  if r.queue.any QueueEntry.unsentHeater then
    some { r with queue := r.queue.map fun e => if e.unsentHeater then { e with work := .heater on } else e }
  else r.enqueue (.heater on)

/-- The flush (R58): the record with the stream-off admitted, and the removed entries in the order of removal. -/
def flush (r : ControlRecord) : ControlRecord × List QueueEntry :=
  let (kept, removed) : List QueueEntry × List QueueEntry :=
    match r.queue with
    | [] => ([], [])
    | e :: rest => if e.started then ([{ e with flushed := true }], rest) else ([], rest ++ [e])
  ({ r with queue := kept ++ [QueueEntry.admitted .streamOff] }.pump, removed)

/-- The first attempt failed: the same command is sent again (R50). -/
def resend (r : ControlRecord) : ControlRecord :=
  { r with attempt := .second, responseTimer := none, unsent := r.unsent + 1 }

/-- The command in flight has ended: the path is IDLE (R49, R50). -/
def idled (r : ControlRecord) : ControlRecord := { r with inFlight := none, attempt := .first, responseTimer := none }

/-- The current entry leaves the queue. -/
def popped (r : ControlRecord) : ControlRecord := { r with queue := r.queue.tail }

/-- The step of the current bring-up entry becomes another (R52). -/
def withStep (r : ControlRecord) (step : BringUpStep) : ControlRecord :=
  match r.queue with
  | ⟨.bringUp w h f _, started, flushed⟩ :: rest => { r with queue := ⟨.bringUp w h f step, started, flushed⟩ :: rest }
  | _ => r

/-- A command's last byte leaves the part; when none is left to send, the response timer of the command in flight is loaded
with 20 ms (R48, R50, log 16). -/
def lastByteSent (r : ControlRecord) (elapsed : Nat) : ControlRecord :=
  match r.unsent with
  | 0 => r
  | 1 => { r with unsent := 0, responseTimer := if r.inFlight.isSome then some (elapsed + 20) else r.responseTimer }
  | n + 1 => { r with unsent := n }

end ControlRecord

/-- The result of a pass-through's job (R57). -/
def FailCode.jobResult : FailCode → JobResult
  | .cameraTimeout => .cameraTimeout
  | .cameraRefused => .cameraRefused

/-- The requesters of removed entries are told: a pass-through's job ends ABORTED with its command kind, the others end with
no notice (R57, R58). -/
def State.endRemoved (s : State) (removed : List QueueEntry) : State :=
  removed.foldl (fun s e =>
    match e.work with
    | .passThrough p j => s.endJob j .aborted [p.command.code]
    | _ => s) s

/-- The flush of a camera's queue (R58). -/
def State.flushControl (s : State) (c : Cam) : State :=
  let (r, removed) := (s.ctl c).flush
  (s.setCtl c r).endRemoved removed

/-- The job of a pass-through ends with the result of its command (R57). -/
def State.endPassThrough (s : State) (p : PassCommand) (j : JobId) (result : CommandEnd) : State :=
  match result with
  | .failed code => s.endJob j code.jobResult [p.command.code]
  | .done payload =>
    s.endJob j .ok (match p with
      | .heater on => [byteOf on.toNat]
      | _ => payload)

end Sys2Proof.Machine
end

