-- ==== Sys2Proof/Machine/Zones.lean ====
section
/-! DEFINITION. The zones of an examination and what is computed of each (spec/07 R129), and the judgement of a window
against a baseline (R131, R141). -/

namespace Sys2Proof.Machine

/-- A zone of a camera frame, 0–47 (R129). -/
abbrev Zone := Fin 48

/-- The rectangle of a zone: 8 columns of one eighth of the width, rows 0–4 of one sixth of the height rounded down, row 5
the rest (R129). -/
def zoneRect (g : Geometry) (z : Zone) : Rect :=
  let column := z.val % 8
  let row := z.val / 8
  { x := column * (g.width / 8), y := row * (g.height / 6), w := g.width / 8,
    h := if row = 5 then g.height - 5 * (g.height / 6) else g.height / 6 }

/-- The luminance byte of a pixel of a stored frame: the first of the pixel's two bytes (R23, log 12). -/
def luminanceAt (pixels : List Host.Cell) (slot : SlotNo) (g : Geometry) (x y : Nat) : Nat :=
  (Memory.read pixels (slotAddress slot ((y * g.width + x) * 2))).toNat

/-- The chroma byte of a pixel of a stored frame. -/
def chromaAt (pixels : List Host.Cell) (slot : SlotNo) (g : Geometry) (x y : Nat) : Nat :=
  (Memory.read pixels (slotAddress slot ((y * g.width + x) * 2 + 1))).toNat

/-- The sum of a value over the pixels of a rectangle. -/
def Rect.sum (r : Rect) (value : Nat → Nat → Nat) : Nat :=
  ((List.range r.h).map fun j => ((List.range r.w).map fun i => value (r.x + i) (r.y + j)).sum).sum

/-- The absolute difference of two luminance values. -/
def difference (a b : Nat) : Nat := (a - b) + (b - a)

/-- The mean luminance of a zone, rounded down (R129). -/
def meanLuminance (pixels : List Host.Cell) (slot : SlotNo) (g : Geometry) (z : Zone) : Nat :=
  let r := zoneRect g z
  r.sum (luminanceAt pixels slot g) / (r.w * r.h)

/-- The edge energy of a zone: 8 times the mean, over the pixels whose right and lower neighbours lie in the zone, of the
luminance differences to both, rounded down (R129). -/
def edgeEnergy (pixels : List Host.Cell) (slot : SlotNo) (g : Geometry) (z : Zone) : Nat :=
  let r := zoneRect g z
  let inner : Rect := { r with w := r.w - 1, h := r.h - 1 }
  let at' := luminanceAt pixels slot g
  8 * inner.sum (fun x y => difference (at' x y) (at' (x + 1) y) + difference (at' x y) (at' x (y + 1)))
    / (inner.w * inner.h)

/-- Adds the values of one examination to sums (R130). -/
def ZoneSums.add (s : ZoneSums) (luminance edges : Zone → Nat) : ZoneSums :=
  { luminance := Vector.ofFn fun z => s.luminance[z] + luminance z, edges := Vector.ofFn fun z => s.edges[z] + edges z,
    examinations := s.examinations + 1 }

/-- The mean luminance of a zone over the examinations so far, rounded down (R131, R141). -/
def ZoneSums.meanLuminance (s : ZoneSums) (z : Zone) : Nat := s.luminance[z] / s.examinations

/-- The mean edge energy of a zone over the examinations so far, rounded down (R131, R141). -/
def ZoneSums.meanEdge (s : ZoneSums) (z : Zone) : Nat := s.edges[z] / s.examinations

/-- The judgeable luminance window 24–232 (R123). -/
def inLuminanceWindow (n : Nat) : Bool := decide (24 ≤ n) && decide (n ≤ 232)

/-- The baseline edge energy of a zone; 0 while the baseline is not valid. -/
def baselineEdge (b : Option Baseline) (z : Zone) : Nat :=
  match b with
  | none => 0
  | some b => b.edges[z]

/-- A zone is judgeable by its window mean luminance and its baseline edge energy (R131). -/
def judgeable (b : Option Baseline) (w : ZoneSums) (z : Zone) : Bool :=
  inLuminanceWindow (w.meanLuminance z) && decide (64 ≤ baselineEdge b z)

/-- A judgeable zone has lost detail (R131). -/
def lostDetail (b : Option Baseline) (w : ZoneSums) (ratio : Nat) (z : Zone) : Bool :=
  judgeable b w z && decide (w.meanEdge z * 16 < baselineEdge b z * ratio)

/-- The results of an evaluation (R131). -/
inductive Verdict where
  | notJudged | suspect | clean
  deriving DecidableEq, Repr

/-- An evaluation: the judgeable count, the score, absent for NOT JUDGED, and the result (R131). -/
structure Evaluation where
  judgeable : Nat
  score     : Option Nat
  verdict   : Verdict
  deriving DecidableEq, Repr

/-- Judges a window against a baseline under the tuning (R131). -/
def judge (b : Option Baseline) (w : ZoneSums) (t : Tuning) : Evaluation :=
  let count := (List.finRange 48).countP (judgeable b w)
  let score := (List.finRange 48).countP (lostDetail b w t.ratio)
  if count < 12 then { judgeable := count, score := none, verdict := .notJudged }
  else { judgeable := count, score := some score, verdict := if t.zones ≤ score then .suspect else .clean }

/-- Whether a learned zone counts (R141). -/
def learnCounted (a : ZoneSums) (z : Zone) : Bool := inLuminanceWindow (a.meanLuminance z)

/-- The number of counted zones of a learn (R141). -/
def countedZones (a : ZoneSums) : Nat := (List.finRange 48).countP (learnCounted a)

/-- The baseline of a learn (R141). -/
def learnedBaseline (a : ZoneSums) (g : Geometry) : Baseline :=
  { edges := Vector.ofFn fun z => if learnCounted a z then a.meanEdge z else 0, geometry := g }

/-- The number of zones whose baseline is at least 64 (R141). -/
def Baseline.usableZones (b : Baseline) : Nat := (List.finRange 48).countP fun z => decide (64 ≤ b.edges[z])

end Sys2Proof.Machine
end

