-- ==== Sys2Proof/Machine/Soil.lean ====
section
/-! DEFINITION. The soiling monitor (spec/07): scheduling, examinations, evaluations, heater requests, wash and learning. -/

namespace Sys2Proof.Machine

/-! ## Handing a change on (R99, R135, R143) -/

/-- The SOILED marker is added at once to a tile that shows the camera (R99). -/
def ResolvedTile.markSoiled (t : ResolvedTile) (c : Cam) : ResolvedTile :=
  if t.shown = some c ∧ t.slot.isSome then { t with markers := { t.markers with soiled := true } } else t

/-- A soiling state notice that gives a camera the soiling marker, at one composer (R99). -/
def Composer.markSoiled (k : Composer) (c : Cam) : Composer :=
  { k with screen := { k.screen with tiles := k.screen.tiles.map (·.markSoiled c) } }

/-- The content of SOIL_STATE (R143). -/
def State.soilContent (s : State) (c : Cam) (previous : SoilState) (cause : SoilCause) : SoilContent :=
  let r := s.soilOf c
  { camera := c, state := r.state, previous := previous, cause := cause, marker := r.marker, lastScore := r.lastScore,
    lastJudgeable := r.lastJudgeable, heaterSpent := r.heaterSpent, wasSoiled := r.wasSoiled,
    baselineValid := r.baseline.isSome, lastHeater := r.lastHeater, time := s.now }

/-- A change of a camera's soiling state is handed on: to both composers, to the clip unit, to the link (R135). -/
def State.handSoilOn (s : State) (c : Cam) (previous : SoilState) (cause : SoilCause) : State :=
  let r := s.soilOf c
  if r.state = previous then s
  else
    let s := if r.marker then (s.setScreenA (s.screenA.markSoiled c)).setScreenB (s.screenB.markSoiled c) else s
    let s := if r.state = .soiled then s.trigger .soiled c else s
    s.raise (.soilState c) (.soilState (s.soilContent c previous cause))

/-- Writes a soiling record and hands on the change of its state, if it is one. -/
def State.changeSoil (s : State) (c : Cam) (r : SoilRecord) (cause : SoilCause) : State :=
  (s.setSoilOf c r).handSoilOn c (s.soilOf c).state cause

/-- The suspect, clean and trial counts become 0. -/
def SoilRecord.zeroCounts (r : SoilRecord) : SoilRecord := { r with suspectCount := 0, cleanCount := 0, trialCount := 0 }

/-! ## Heater requests (R136) -/

/-- A heater request; the answer says whether it was admitted. A REPLACED ending is ignored (R136, R137). -/
def State.requestHeater (s : State) (c : Cam) (on : Bool) : State × Bool :=
  let r := s.soilOf c
  match (s.ctl c).heaterRequest on with
  | some control => ((s.setCtl c control).setSoilOf c { r with heaterOffOwed := false }, true)
  | none =>
    (s.setSoilOf c { r with lastHeater := some ⟨on, .full⟩, heaterOffOwed := r.heaterOffOwed || !on }, false)

/-- A heater-off request (R136). -/
def State.requestHeaterOff (s : State) (c : Cam) : State := (s.requestHeater c false).1

/-! ## Scheduling and the start of an examination (R124 to R128) -/

/-- The states a camera may be examined in (R125). -/
def SoilState.examined : SoilState → Bool
  | .unwatched => false
  | .unlearned => false
  | _ => true

/-- Watched, in a state R125 names and RUNNING (R125, R127). -/
def State.examinable (s : State) (c : Cam) : Bool :=
  (s.soilOf c).watch && (s.soilOf c).state.examined && (s.cam c).state == .running

/-- The capture sequence of a camera's newest READY slot. -/
def State.newestSequence (s : State) (c : Cam) : Option Word32 :=
  match s.slots.newest c with
  | none => none
  | some i => (s.slots.frame i).map (·.sequence)

/-- A camera qualifies for examination (R125). -/
def State.qualifies (s : State) (c : Cam) : Bool :=
  s.examinable c &&
    match s.newestSequence c with
    | none => false
    | some n => (s.soilOf c).lastExamined != some n

/-- What comes of an attempt to start an examination (R128). -/
inductive StartResult where
  | started | geometry | noSlot
  deriving DecidableEq, Repr

/-- The record of a camera whose baseline was lost (R128 step 2). -/
def SoilRecord.unlearned (r : SoilRecord) : SoilRecord :=
  { r.zeroCounts with baseline := none, state := .unlearned, window := ZoneSums.zero, heaterSpent := false,
                      heaterOffOwed := false, wasSoiled := false }

/-- The start of an examination on a chosen camera (R128). -/
def State.startExamination (s : State) (c : Cam) : State × StartResult :=
  match s.slots.pinNewest c .engine with
  | (_, none) => (s, .noSlot)
  | (m, some i) =>
    let s := s.setSlots m
    match s.slots.frame i with
    | none => (s.setSlots (s.slots.unpin i .engine), .noSlot)
    | some f =>
      let r := s.soilOf c
      if r.state ≠ .learning ∧ r.baseline.any (fun b => b.geometry ≠ f.geometry) then
        let s := s.setSlots (s.slots.unpin i .engine)
        let s := s.changeSoil c r.unlearned .geometry
        (if r.state = .heating then s.requestHeaterOff c else s, .geometry)
      else
        let generation := (s.cam c).generation
        let window := if r.generationSeen = some generation then r.window else ZoneSums.zero
        let s := s.setSoilOf c
          { r with window := window, generationSeen := some generation, lastExamined := some f.sequence }
        let e : Examination :=
          { camera := c, slot := i, sequence := f.sequence, generation := generation,
            purpose := if r.state = .learning then .learn else .watch }
        (s.setSoil { s.soil with engine := some e, recheck := none }, .started)

/-- The entries of the priority queue, tested from the head; `kept` are the entries that stay ahead (R127 step 1). -/
def State.scanQueue (s : State) (kept : List Cam) : List Cam → State × Bool
  | [] => (s.setSoil { s.soil with queue := kept }, false)
  | c :: rest =>
    if s.qualifies c then
      match s.startExamination c with
      | (s, .started) => (s.setSoil { s.soil with queue := kept ++ rest }, true)
      | (s, .geometry) => State.scanQueue s kept rest
      | (s, .noSlot) => State.scanQueue s (kept ++ [c]) rest
    else if s.examinable c then State.scanQueue s (kept ++ [c]) rest
    else State.scanQueue s kept rest

/-- The cameras of the rotation in order; the first that qualifies is chosen and the pointer becomes its number
(R127 step 2). -/
def State.scanRotation (s : State) : List Cam → State × Bool
  | [] => (s, false)
  | c :: rest =>
    if s.qualifies c then
      match (s.setSoil { s.soil with rotation := c }).startExamination c with
      | (s, .started) => (s, true)
      | (s, .geometry) => State.scanRotation s rest
      | (_, .noSlot) => State.scanRotation s rest
    else State.scanRotation s rest

/-- The order of the rotation: from the camera after the pointer, wrapping, to the camera at the pointer (R127). -/
def rotationOrder (pointer : Cam) : List Cam := allCams.map fun i => pointer + 1 + i

/-- The heater-offs owed are requested again, in camera-number order (R136). -/
def State.requestOwed (s : State) : State :=
  allCams.foldl (fun s c => if (s.soilOf c).heaterOffOwed then s.requestHeaterOff c else s) s

/-- A scheduling decision (R127). A decision that finds no camera loads the idle recheck timer with 10 ms (R124). -/
def State.schedule (s : State) : State :=
  let s := s.requestOwed
  match s.scanQueue [] s.soil.queue with
  | (s, true) => s
  | (s, false) =>
    match s.scanRotation (rotationOrder s.soil.rotation) with
    | (s, true) => s
    | (s, false) => s.setSoil { s.soil with recheck := s.loaded 10 }

/-- A camera is added to the priority queue; while the engine is IDLE the addition makes a decision (R124, R126). -/
def State.queueForExamination (s : State) (c : Cam) : State :=
  if c ∈ s.soil.queue then s
  else
    let s := s.setSoil { s.soil with queue := s.soil.queue ++ [c] }
    if s.soil.engine.isNone then s.schedule else s

/-! ## Evaluation (R131 to R134) -/

/-- The confirmation test of a record whose suspect count has just risen, already written to the state (R132). -/
def State.confirm (s : State) (c : Cam) (previous : SoilState) : State :=
  let r := s.soilOf c
  if s.soil.tuning.confirm ≤ r.suspectCount then
    if (s.cam c).hasHeater ∧ r.heaterAllowed ∧ r.heaterSpent = false then
      match s.requestHeater c true with
      | (s, true) =>
        (s.setSoilOf c { (s.soilOf c).zeroCounts with state := .heating, heaterSpent := true }).handSoilOn c previous
          .evaluation
      | (s, false) =>
        (s.setSoilOf c { s.soilOf c with state := .soiled, heaterSpent := true, suspectCount := 0 }).handSoilOn c
          previous .heaterFail
    else (s.setSoilOf c { r with state := .soiled, suspectCount := 0 }).handSoilOn c previous .evaluation
  else (s.setSoilOf c { r with state := .suspect }).handSoilOn c previous .evaluation

/-- The trial count rises, whatever the result; at T the camera is SOILED (R133 step 2). -/
def State.countTrial (s : State) (c : Cam) : State :=
  let r := s.soilOf c
  let trial := saturate 30 r.trialCount
  if s.soil.tuning.trial ≤ trial then
    (s.changeSoil c { r.zeroCounts with state := .soiled } .evaluation).requestHeaterOff c
  else s.setSoilOf c { r with trialCount := trial }

/-- An evaluation's result applied to the state (R132 to R134). -/
def State.applyVerdict (s : State) (c : Cam) (verdict : Verdict) : State :=
  let r := s.soilOf c
  match r.state, verdict with
  | .clean, .suspect => (s.setSoilOf c { r with suspectCount := 1 }).confirm c .clean
  | .suspect, .suspect => (s.setSoilOf c { r with suspectCount := saturate 15 r.suspectCount }).confirm c .suspect
  | .suspect, .clean => s.changeSoil c { r with suspectCount := 0, state := .clean } .evaluation
  | .heating, .clean =>
    let clean := saturate 15 r.cleanCount
    if 2 ≤ clean then
      (s.changeSoil c { r.zeroCounts with state := .clean, heaterSpent := false } .evaluation).requestHeaterOff c
    else (s.setSoilOf c { r with cleanCount := clean }).countTrial c
  | .heating, .suspect => (s.setSoilOf c { r with cleanCount := 0 }).countTrial c
  | .heating, .notJudged => s.countTrial c
  | .soiled, .clean =>
    let clean := saturate 15 r.cleanCount
    if s.soil.tuning.cleanRun ≤ clean then
      s.changeSoil c { r.zeroCounts with state := .clean, heaterSpent := false } .evaluation
    else s.setSoilOf c { r with cleanCount := clean }
  | .soiled, .suspect => s.setSoilOf c { r with cleanCount := 0 }
  | .verify, .clean =>
    s.changeSoil c { r.zeroCounts with state := .clean, heaterSpent := false, wasSoiled := false } .evaluation
  | .verify, .suspect => s.changeSoil c { r.zeroCounts with state := .soiled, wasSoiled := false } .evaluation
  | _, _ => s

/-- The evaluation of a camera's window (R131). -/
def State.evaluate (s : State) (c : Cam) : State :=
  let r := s.soilOf c
  let e := judge r.baseline r.window s.soil.tuning
  (s.setSoilOf c { r with lastScore := e.score, lastJudgeable := some e.judgeable, window := ZoneSums.zero }).applyVerdict c
    e.verdict

/-! ## Learning (R141, R142) -/

/-- The record after a learn has ended without a new baseline: the state before learning, with the counts it had
(R141, R142). -/
def SoilRecord.learnAbandoned (r : SoilRecord) : SoilRecord :=
  { r with state := r.beforeLearning.getD .unlearned, learned := ZoneSums.zero, beforeLearning := none, learnJob := none }

/-- The record after a learn has given a baseline (R141). -/
def SoilRecord.learnSucceeded (r : SoilRecord) (b : Baseline) : SoilRecord :=
  { r.zeroCounts with baseline := some b, state := .clean, heaterSpent := false, heaterOffOwed := false,
                      wasSoiled := false, learned := ZoneSums.zero, beforeLearning := none, learnJob := none }

/-- A learn that has reached L ends (R141). -/
def State.finishLearn (s : State) (c : Cam) (g : Geometry) : State :=
  let r := s.soilOf c
  let counted := countedZones r.learned
  let b := learnedBaseline r.learned g
  if 24 ≤ counted then
    (s.changeSoil c (r.learnSucceeded b) .learnEnd).endJob? r.learnJob .ok [byteOf counted, byteOf b.usableZones]
  else (s.changeSoil c r.learnAbandoned .learnEnd).endJob? r.learnJob .dark [byteOf counted]

/-- A camera that leaves RUNNING ends its learn with CAMERA_LOST (R139, R142). -/
def State.loseLearn (s : State) (c : Cam) : State :=
  let r := s.soilOf c
  if r.state = .learning then
    (s.changeSoil c r.learnAbandoned .learnEnd).endJob? r.learnJob .cameraLost []
  else s

/-! ## Examination end (R130) -/

/-- The three tests of a result (R130). -/
def State.resultCounts (s : State) (e : Examination) : Bool :=
  let r := s.soilOf e.camera
  (s.cam e.camera).generation == e.generation && r.watch &&
    match e.purpose with
    | .learn => r.state == .learning
    | .watch => r.state != .learning && r.state != .unwatched

/-- A result that passes is added to the learn accumulation or to the window (R130). -/
def State.addResult (s : State) (e : Examination) (g : Geometry) : State :=
  let c := e.camera
  let luminance := meanLuminance s.pixels e.slot g
  let edges := edgeEnergy s.pixels e.slot g
  let r := s.soilOf c
  match e.purpose with
  | .learn =>
    let s := s.setSoilOf c { r with learned := r.learned.add luminance edges }
    if s.soil.tuning.learn ≤ r.learned.examinations + 1 then s.finishLearn c g else s
  | .watch =>
    let s := s.setSoilOf c { r with window := r.window.add luminance edges }
    if s.soil.tuning.window ≤ r.window.examinations + 1 then s.evaluate c else s

/-- An examination ends (R130). -/
def State.endExamination (s : State) : State :=
  match s.soil.engine with
  | none => s
  | some e =>
    let frame := s.slots.frame e.slot
    let s := s.setSlots (s.slots.unpin e.slot .engine)
    let s := match frame with
      | some f => if s.resultCounts e then s.addResult e f.geometry else s
      | none => s
    (s.setSoil { s.soil with engine := none }).schedule

/-- The idle recheck timer expires while the engine is IDLE (R124). -/
def State.recheckExpired (s : State) : State :=
  if s.soil.engine.isNone && s.due s.soil.recheck then s.schedule else s

/-! ## Heater results, wash, camera state notices (R137 to R139) -/

/-- A heater result notice (R137). -/
def State.heaterResult (s : State) (c : Cam) (on : Bool) (outcome : HeaterOutcome) : State :=
  let r := { s.soilOf c with lastHeater := some ⟨on, outcome⟩ }
  if on = true ∧ outcome ≠ .done ∧ r.state = .heating then
    (s.changeSoil c { r.zeroCounts with state := .soiled } .heaterFail).requestHeaterOff c
  else s.setSoilOf c r

/-- The record of a washed camera (R138). -/
def SoilRecord.washed (r : SoilRecord) : SoilRecord :=
  { r.zeroCounts with state := .verify, wasSoiled := r.state == .soiled, window := ZoneSums.zero }

/-- A camera named by WASH_DONE (R138, log 28). -/
def State.wash (s : State) (c : Cam) : State :=
  let r := s.soilOf c
  match r.state with
  | .clean => (s.changeSoil c r.washed .wash).queueForExamination c
  | .suspect => (s.changeSoil c r.washed .wash).queueForExamination c
  | .soiled => (s.changeSoil c r.washed .wash).queueForExamination c
  | .heating => ((s.changeSoil c r.washed .wash).requestHeaterOff c).queueForExamination c
  | _ => s

/-- What entry to STOPPING or FAILED does after a learn has ended (R139). -/
def State.soilStopped (s : State) (c : Cam) (new : CaptureState) : State :=
  let r := s.soilOf c
  let cleared := if r.watch then { r.zeroCounts with window := ZoneSums.zero } else r
  let cleared := if new = .stopping then { cleared with heaterOffOwed := false } else cleared
  match r.state with
  | .suspect => s.changeSoil c { cleared with state := .clean, heaterSpent := false } .camera
  | .heating =>
    let s := s.changeSoil c { cleared with state := .clean, heaterSpent := false } .camera
    if new = .failed then s.requestHeaterOff c else s
  | _ => s.setSoilOf c cleared

/-- A camera state notice at the soiling monitor (R139). -/
def State.soilNotice (s : State) (c : Cam) (new : CaptureState) : State :=
  match new with
  | .lost => s.loseLearn c
  | .stopping => (s.loseLearn c).soilStopped c new
  | .failed => (s.loseLearn c).soilStopped c new
  | _ => s

/-! ## Settings (R122, R123) -/

/-- The watch goes on (R122). -/
def SoilRecord.watched (r : SoilRecord) : SoilRecord :=
  { r.zeroCounts with watch := true, state := if r.baseline.isSome then .clean else .unlearned, window := ZoneSums.zero,
                      heaterSpent := false, heaterOffOwed := false, wasSoiled := false }

/-- The watch goes off (R122). -/
def SoilRecord.unwatched (r : SoilRecord) : SoilRecord :=
  { r.zeroCounts with watch := false, state := .unwatched, window := ZoneSums.zero, learned := ZoneSums.zero,
                      beforeLearning := none, learnJob := none, heaterSpent := false, wasSoiled := false }

/-- SOIL_SETUP's settings taken (R122; the cause from LEARNING is R142's, log 21). -/
def State.setWatch (s : State) (c : Cam) (watch allowed : Bool) : State :=
  let r := { s.soilOf c with heaterAllowed := allowed }
  match r.watch, watch with
  | false, true => s.changeSoil c r.watched .setup
  | true, false =>
    let s := (s.changeSoil c r.unwatched (if r.state = .learning then .learnEnd else .setup)).endJob? r.learnJob
      .aborted []
    if r.state = .heating then s.requestHeaterOff c else s
  | _, _ => s.setSoilOf c r

/-- SOIL_TUNE's settings taken: every camera's window is cleared (R123). -/
def State.tune (s : State) (t : Tuning) : State :=
  s.setSoil { s.soil with
    tuning := t, records := Vector.ofFn fun c => { s.soil.records[c] with window := ZoneSums.zero } }

/-- SOIL_LEARN accepted with a job (R140). -/
def State.beginLearn (s : State) (c : Cam) (j : JobId) (tag : Byte) : State :=
  let s := s.openJob j .soilLearn c.val tag
  let r := s.soilOf c
  s.changeSoil c
    { r with learnJob := some j, beforeLearning := some r.state, learned := ZoneSums.zero, window := ZoneSums.zero,
             state := .learning } .learn

end Sys2Proof.Machine
end

