-- ==== Sys2Proof/Machine/Capture.lean ====
section
/-! DEFINITION. The capture side of the camera ports (spec/02): packets, timers, loss, stop, failure and the ends of
bring-ups and stream-offs. -/

namespace Sys2Proof.Machine

/-! ## Reports and notices (R43, R44) -/

/-- The content of CAMERA_STATE (R44). -/
def State.cameraContent (s : State) (c : Cam) (cause : CameraCause) : CameraContent :=
  let r := s.cam c
  { camera := c, state := r.state, degraded := r.degraded, starved := r.starved, cause := cause,
    lastResult := r.lastResult, lastDamage := r.lastDamage, generation := r.generation,
    lastPublished := r.lastPublished, damagedTotal := r.damagedTotal, skippedTotal := r.skippedTotal }

/-- Raises CAMERA_STATE with a cause, from the record as it stands (R44). -/
def State.raiseCamera (s : State) (c : Cam) (cause : CameraCause) : State :=
  s.raise (.cameraState c) (.cameraState (s.cameraContent c cause))

/-- The raises of one event, in order, each with the record after the event (R44, log 30). -/
def State.raiseCameraAll (s : State) (c : Cam) (causes : List CameraCause) : State :=
  causes.foldl (fun s cause => s.raiseCamera c cause) s

/-- A camera state notice, handed to the soiling monitor and to the clip unit; the composers read the record at their next
output frame start (R43, R96, log 22). -/
def State.cameraNotice (s : State) (c : Cam) (old new : CaptureState) : State := (s.soilNotice c new).clipNotice c old new

/-! ## Damaged, good and skipped frames (R37 to R42) -/

/-- The packets of a lane are taken in SEARCHING, RUNNING and LOST alone (R23). -/
def CaptureState.takesPackets : CaptureState → Bool
  | .searching => true
  | .running => true
  | .lost => true
  | _ => false

/-- A damaged frame is ended; the causes are the raises it asks for (R40, R41). A frame of kind GEOMETRY holds no slot. -/
def State.damageFrame (s : State) (c : Cam) (kind : DamageKind) : State × List CameraCause :=
  let r := s.cam c
  let s := if kind = .geometry then s else s.setSlots (s.slots.discard c)
  let r' := r.damaged c s.elapsed kind
  (s.setCam c r', healthCauses r r')

/-- A damaged frame that is the whole of its event. -/
def State.damageOnly (s : State) (c : Cam) (kind : DamageKind) : State :=
  let (s, causes) := s.damageFrame c kind
  s.raiseCameraAll c causes

/-- What a frame-start does before the frame itself is dealt with (R29). -/
def State.frameStartSeen (s : State) (c : Cam) (p : FrameStart) : State × List CameraCause :=
  let r := s.cam c
  let s' := s.setCam c
    { r with frameTimer := s.loaded r.setup.frameTimeout, lastStart := some s.now, lastNumber := some p.number,
             state := .running, recoveryTimer := if r.state = .lost then none else r.recoveryTimer }
  if r.state = .running then (s', []) else (s'.cameraNotice c r.state .running, [.frameStart])

/-- A frame-start of the setup's geometry asks for a slot (R37). -/
def State.takeFrame (s : State) (c : Cam) (p : FrameStart) : State × List CameraCause :=
  let r := s.cam c
  let r := { r with sequence := r.sequence + 1 }
  let f : FrameFields :=
    { sequence := r.sequence, number := p.number, time := r.lastStart.getD s.now,
      geometry := ⟨r.setup.width, r.setup.height⟩ }
  match s.slots.take c f with
  | (m, some _) => ((s.setSlots m).setCam c r.slotGiven, healthCauses r r.slotGiven)
  | (m, none) =>
    let r' := r.skipped c s.elapsed
    ((s.setSlots m).setCam c r', healthCauses r r')

/-- FRAME_START: a frame-start packet on a lane (R23, R29, R37). -/
def State.frameStart (s : State) (c : Cam) (packet : List Byte) : State :=
  if (s.cam c).state.takesPackets then
    match readFrameStart packet with
    | none => s
    | some p =>
      let (s, seen) := s.frameStartSeen c p
      let (s, truncated) := if (s.cam c).receive = .receiving then s.damageFrame c .truncated else (s, [])
      let (s, ended) :=
        if p.width = (s.cam c).setup.width ∧ p.height = (s.cam c).setup.height then s.takeFrame c p
        else s.damageFrame c .geometry
      s.raiseCameraAll c (seen ++ truncated ++ ended)
  else s

/-- The FILLING slot of a camera. -/
def SlotManager.fillingSlot (m : SlotManager) (c : Cam) : Option SlotNo :=
  match m.ring c with
  | none => none
  | some r => r.filling

/-- A good line is written to the FILLING slot at its line position, and the next expected line rises (R38, log 12). -/
def State.storeLine (s : State) (c : Cam) (line : Line) : State :=
  let r := s.cam c
  let s := match s.slots.fillingSlot c with
    | none => s
    | some i => s.setPixels (Memory.writeBytes s.pixels (slotAddress i (line.number * (2 * r.setup.width))) line.pixels)
  s.setCam c { r with nextLine := r.nextLine + 1 }

/-- LINE_PACKET: a line packet on a lane (R38; the line after the last is ORDER, log 14). -/
def State.linePacket (s : State) (c : Cam) (packet : List Byte) : Host.Outcome State Fault Refusal :=
  let r := s.cam c
  if r.state.takesPackets = true ∧ r.receive = .receiving then
    match readLine packet with
    | none => .next (s.damageOnly c .crc)
    | some line =>
      if line.pixels.length ≠ 2 * r.setup.width then .next (s.damageOnly c .length)
      else if line.number ≠ r.nextLine ∨ r.setup.height ≤ line.number then .next (s.damageOnly c .order)
      else if slotBytes < (line.number + 1) * (2 * r.setup.width) then .fault .outsideSlot
      else .next (s.storeLine c line)
  else .next s

/-- A good frame is published (R16, R39, R154). -/
def State.publishFrame (s : State) (c : Cam) : State :=
  let r := s.cam c
  let (m, notice) := s.slots.publish c
  let s := s.setSlots m
  let s := match notice with
    | none => s
    | some n => s.publicationNotice n
  let r' := r.good c s.elapsed r.sequence
  (s.setCam c r').raiseCameraAll c (healthCauses r r')

/-- FRAME_END: a frame-end packet on a lane (R39). -/
def State.frameEnd (s : State) (c : Cam) (packet : List Byte) : State :=
  let r := s.cam c
  if r.state.takesPackets = true ∧ r.receive = .receiving then
    match readFrameEnd packet with
    | none => s
    | some count =>
      if count = r.setup.height ∧ r.nextLine = r.setup.height then s.publishFrame c else s.damageOnly c .count
  else s

/-! ## Timers (R30, R31) -/

/-- FRAME_TIMER_EXPIRY (R30). -/
def State.frameTimerExpired (s : State) (c : Cam) : State :=
  let old := (s.cam c).state
  if s.due (s.cam c).frameTimer = true ∧ (old = .searching ∨ old = .running) then
    let (s, damaged) := if (s.cam c).receive = .receiving then s.damageFrame c .timeout else (s, [])
    let r := s.cam c
    let s := s.setCam c
      { r with state := .lost, frameTimer := none,
               recoveryTimer := if r.setup.recoveryInterval = 0 then none else s.loaded r.setup.recoveryInterval }
    (s.cameraNotice c old .lost).raiseCameraAll c (damaged ++ [.frameTimeout])
  else s

/-- The bring-up entry with the setup width, height and rate (R27, R31). -/
def CameraRecord.bringUp (r : CameraRecord) : EntryWork := .bringUp r.setup.width r.setup.height r.setup.rate .identify

/-- RECOVERY_TIMER_EXPIRY (R31). -/
def State.recoveryTimerExpired (s : State) (c : Cam) : State :=
  let r := s.cam c
  if s.due r.recoveryTimer = true ∧ r.state = .lost then
    let again := s.setCam c { r with recoveryTimer := s.loaded r.setup.recoveryInterval }
    if r.recoveryPending then again
    else
      match (s.ctl c).enqueue r.bringUp with
      | none => again
      | some control => (s.setCtl c control).setCam c { r with recoveryPending := true, recoveryTimer := none }
  else s

/-! ## Stop and failure (R33 to R36) -/

/-- The ring is dissolved and the clip unit is told of a slot moved into its clip (R20). -/
def State.dissolveRing (s : State) (c : Cam) : State :=
  let (m, moved) := s.slots.dissolve c
  (s.setSlots m).slotMoved moved

/-- Timers stopped and the frame being received abandoned (R33 step 1, R35 step 1). -/
def CameraRecord.halted (r : CameraRecord) : CameraRecord :=
  { r with frameTimer := none, recoveryTimer := none, receive := .waitStart }

/-- CAMERA_STOP in BRINGUP, SEARCHING, RUNNING or LOST (R33). -/
def State.stopCamera (s : State) (c : Cam) : State :=
  let old := (s.cam c).state
  let s := s.setCam c (s.cam c).halted
  let s := s.dissolveRing c
  let s := s.setCam c { s.cam c with generation := (s.cam c).generation + 1 }
  let s := s.flushControl c
  let s := s.endJob? (s.cam c).startJob .aborted []
  let s := s.setCam c { s.cam c with startJob := none, recoveryPending := false, state := .stopping }
  (s.cameraNotice c old .stopping).raiseCamera c .stop

/-- A camera enters FAILED (R35). -/
def State.failCamera (s : State) (c : Cam) (cause : CameraCause) : State :=
  let old := (s.cam c).state
  let s := s.setCam c { (s.cam c).halted with recoveryPending := false }
  let s := s.dissolveRing c
  let s := s.setCam c { s.cam c with generation := (s.cam c).generation + 1, state := .failed }
  (s.cameraNotice c old .failed).raiseCamera c cause

/-! ## What the control side reports (R24, R28, R32, R34) -/

/-- The IDENTIFY payload of a bring-up is written into the camera record (R24, R52). -/
def CameraRecord.identified (r : CameraRecord) (payload : List Byte) : CameraRecord :=
  { r with
    identity := some { model := BitVec.ofNat 16 (field2 payload 0), serial := BitVec.ofNat 32 (field4 payload 2) },
    heaterPresent := payload.getD 6 0,
    largest := some { width := BitVec.ofNat 16 (field2 payload 7), height := BitVec.ofNat 16 (field2 payload 9) } }

/-- The result data of an ended CAMERA_START job: identity, heater present, largest width and height (R28). -/
def CameraRecord.startData (r : CameraRecord) : List Byte :=
  let identity := r.identity.getD ⟨0, 0⟩
  let largest := r.largest.getD ⟨0, 0⟩
  bytes2 identity.model.toNat ++ bytes4 identity.serial.toNat ++ [r.heaterPresent] ++ bytes2 largest.width.toNat
    ++ bytes2 largest.height.toNat

/-- A camera brought up, or brought back, searches for frames (R28, R32). -/
def State.beginSearch (s : State) (c : Cam) (r : CameraRecord) (cause : CameraCause) : State :=
  let old := (s.cam c).state
  let s := s.setCam c { r with state := .searching, frameTimer := s.loaded r.setup.frameTimeout, recoveryTimer := none }
  (s.cameraNotice c old .searching).raiseCamera c cause

/-- The end of a bring-up, DONE or a failure (R28 in BRINGUP, R32 in LOST and RUNNING). -/
def State.bringUpEnded (s : State) (c : Cam) (result : Option FailCode) : State :=
  let r := s.cam c
  match r.state, result with
  | .bringUp, none =>
    (s.beginSearch c { r with startJob := none } .bringUpOk).endJob? r.startJob .ok r.startData
  | .bringUp, some code =>
    ((s.setCam c { r with startJob := none, lastResult := some code }).failCamera c .bringUpFail).endJob? r.startJob
      code.jobResult []
  | .lost, none => s.beginSearch c { r with recoveryPending := false } .recoveryOk
  | .lost, some code =>
    (s.setCam c { r with recoveryPending := false, lastResult := some code }).failCamera c .recoveryFail
  | .running, none => s.setCam c { r with recoveryPending := false }
  | .running, some code =>
    let r' := { r with recoveryPending := false, lastResult := some code, degraded := true, goodRun := 0 }
    (s.setCam c r').raiseCameraAll c (healthCauses r r')
  | _, _ => s

/-- The end of a stream-off (R34). -/
def State.streamOffEnded (s : State) (c : Cam) (result : Option FailCode) : State :=
  let r := s.cam c
  if r.state = .stopping then
    let s := s.setCam c { r with state := .off, lastResult := if result.isSome then result else r.lastResult }
    (s.cameraNotice c .stopping .off).raiseCamera c .stopped
  else s

end Sys2Proof.Machine
end

