-- ==== Sys2Proof/Machine/ControlPath.lean ====
section
/-! DEFINITION. The control side's events (spec/03): responses, the response timer, the ends of commands and entries. -/

namespace Sys2Proof.Machine

/-- The result of a command as the requester is told it: `none` is DONE. -/
def CommandEnd.failure : CommandEnd → Option FailCode
  | .done _ => none
  | .failed code => some code

/-- The result of a heater entry (R55). -/
def CommandEnd.heaterOutcome : CommandEnd → HeaterOutcome
  | .done _ => .done
  | .failed .cameraTimeout => .cameraTimeout
  | .failed .cameraRefused => .cameraRefused

/-- The current entry's command is sent, if the path is IDLE (R48). -/
def State.pumpControl (s : State) (c : Cam) : State := s.setCtl c (s.ctl c).pump

/-- The current entry leaves the queue. -/
def State.popControl (s : State) (c : Cam) : State := s.setCtl c (s.ctl c).popped

/-- A step of a bring-up has ended, and the entry is not flushed (R52). -/
def State.endBringUpStep (s : State) (c : Cam) (step : BringUpStep) (result : CommandEnd) : State :=
  match result, step with
  | .done payload, .identify =>
    (s.setCam c ((s.cam c).identified payload)).setCtl c ((s.ctl c).withStep .configure)
  | .done _, .configure => s.setCtl c ((s.ctl c).withStep .streamOn)
  | .done _, .streamOn => (s.popControl c).bringUpEnded c none
  | .failed code, _ => (s.popControl c).bringUpEnded c (some code)

/-- A command's ending is handed to the current entry; the path is IDLE already (R52, R53, R55, R57, R59). -/
def State.endEntry (s : State) (c : Cam) (e : QueueEntry) (result : CommandEnd) : State :=
  if e.flushed then
    match e.work with
    | .passThrough p j => (s.popControl c).endPassThrough p j result
    | _ => s.popControl c
  else
    match e.work with
    | .bringUp _ _ _ step => s.endBringUpStep c step result
    | .streamOff => (s.popControl c).streamOffEnded c result.failure
    | .heater on => (s.popControl c).heaterResult c on result.heaterOutcome
    | .passThrough p j => (s.popControl c).endPassThrough p j result

/-- The command in flight ends: the path becomes IDLE, the current entry is handed the ending, and the next command is sent
in the same event (R48 to R50). -/
def State.endCommand (s : State) (c : Cam) (result : CommandEnd) : State :=
  let s := s.setCtl c (s.ctl c).idled
  match (s.ctl c).queue with
  | [] => s
  | e :: _ => (s.endEntry c e result).pumpControl c

/-- An attempt fails: the command is sent again, or ends CAMERA_TIMEOUT (R50). -/
def State.failAttempt (s : State) (c : Cam) : State :=
  match (s.ctl c).attempt with
  | .first => s.setCtl c (s.ctl c).resend
  | .second => s.endCommand c (.failed .cameraTimeout)

/-- CAMERA_RESPONSE: a response arrives on a lane (R49). -/
def State.cameraResponse (s : State) (c : Cam) (packet : List Byte) : State :=
  match (s.ctl c).inFlight with
  | none => s
  | some command =>
    match checkResponse command packet with
    | none => s.failAttempt c
    | some result => s.endCommand c result

/-- RESPONSE_TIMER_EXPIRY of a camera (R50). -/
def State.responseTimerExpired (s : State) (c : Cam) : State :=
  if s.due (s.ctl c).responseTimer = true ∧ (s.ctl c).inFlight.isSome then s.failAttempt c else s

/-- COMMAND_LAST_BYTE_SENT of a camera (R48, R50). -/
def State.commandLastByteSent (s : State) (c : Cam) : State := s.setCtl c ((s.ctl c).lastByteSent s.elapsed)

end Sys2Proof.Machine
end

