-- ==== Sys2Proof/Machine/Split.lean ====
section
/-! DEFINITION. The split planner (spec/06): attention order, joins, departures, changes, readmissions, the pattern, the
hold-over test and the tiles of a split. -/

namespace Sys2Proof.Machine

/-! ## Attention order (R72, R106) -/

/-- A camera's first mapped door (R72). -/
def DoorUnit.firstDoor (d : DoorUnit) (c : Cam) : Option Door :=
  (List.finRange 12).find? fun i => d.map[i].camera == some c

/-- The driver-view rank of a door (R72). -/
def DoorUnit.driverRank (d : DoorUnit) (i : Door) : Nat :=
  match d.cab with
  | .b => 5 - d.map[i].rank
  | _ => d.map[i].rank

/-- The driver-view side of a door, 0 for left and 1 for right (R72). -/
def DoorUnit.driverSide (d : DoorUnit) (i : Door) : Nat :=
  match d.cab, d.map[i].side with
  | .b, .left => 1
  | .b, .right => 0
  | _, .left => 0
  | _, .right => 1

/-- A camera's place in attention order as a number: driver-view rank, then driver-view side, then camera number; a camera
without a mapped door after all others (R72, R106). -/
def DoorUnit.orderKey (d : DoorUnit) (c : Cam) : Nat :=
  let place := match d.firstDoor c with
    | some i => d.driverRank i * 2 + d.driverSide i
    | none => 12
  place * 14 + c.val

/-- Inserts an item before the first whose key is greater. -/
def insertByKey {α : Type} (key : α → Nat) (x : α) : List α → List α
  | [] => [x]
  | y :: rest => if key x < key y then x :: y :: rest else y :: insertByKey key x rest

/-- Sorts a list by a key. -/
def sortByKey {α : Type} (key : α → Nat) (l : List α) : List α := l.foldl (fun sorted x => insertByKey key x sorted) []

/-- All cameras in attention order (R72). -/
def DoorUnit.attentionOrder (d : DoorUnit) : List Cam := sortByKey d.orderKey allCams

/-! ## The pattern (R112) -/

/-- The number of an attention class, 1 most urgent (R74). -/
def AttentionClass.number : AttentionClass → Nat
  | .one => 1
  | .two => 2
  | .three => 3
  | .four => 4

/-- The number of places of a pattern. -/
def Pattern.places : Pattern → Nat
  | .one => 1
  | .two => 2
  | .four => 4
  | .six => 6

/-- The smallest pattern that holds a number of entries. -/
def Pattern.holding (n : Nat) : Pattern := if n ≤ 1 then .one else if n ≤ 2 then .two else if n ≤ 4 then .four else .six

/-- The number of places of a pattern or none. -/
def placesOf (p : Option Pattern) : Nat :=
  match p with
  | none => 0
  | some p => p.places

/-- The pattern grows when the list holds more entries than it has places (R112). -/
def grownPattern (p : Option Pattern) (entries : Nat) : Option Pattern :=
  if placesOf p < entries then some (Pattern.holding entries) else p

/-! ## Notices (R107 to R111) -/

/-- A door notice to the split planner (R107). -/
inductive DoorNotice where
  | departure (camera : Cam)
  | change (camera : Cam) (attention : Attention)
  | join (camera : Cam) (attention : Attention)
  | newMap
  deriving DecidableEq, Repr

namespace SplitRecord

/-- Whether the split list holds an entry for a camera. -/
def holds (r : SplitRecord) (c : Cam) : Bool := r.entries.any (·.camera == c)

/-- The entry of a camera takes a class and deciding state, or becomes DEPARTED (`none`), in its place. -/
def setAttention (r : SplitRecord) (c : Cam) (a : Option Attention) : SplitRecord :=
  { r with entries := r.entries.map fun e => if e.camera = c then { e with attention := a } else e }

/-- Inserts a new entry at its place; the pattern grows if it must (R106, R112). -/
def insert (r : SplitRecord) (d : DoorUnit) (e : SplitEntry) : SplitRecord :=
  let entries := insertByKey (fun x => d.orderKey x.camera) e r.entries
  { r with entries := entries, pattern := grownPattern r.pattern entries.length }

/-- Puts a camera into the outside set at its place (R106, R108). -/
def putOutside (r : SplitRecord) (d : DoorUnit) (o : Outside) : SplitRecord :=
  { r with outside := insertByKey (fun x => d.orderKey x.camera) o r.outside }

/-- Takes a camera out of the outside set. -/
def takeOutside (r : SplitRecord) (c : Cam) : SplitRecord := { r with outside := r.outside.filter (·.camera != c) }

/-- The class number of an entry; 0 for DEPARTED (R191). -/
def classNumber (e : SplitEntry) : Nat :=
  match e.attention with
  | none => 0
  | some a => a.cls.number

/-- The entry a joiner replaces on a full list: the last DEPARTED entry, else the last of the worst class among those worse
than the joiner's (R108 step 3). -/
def replaced (r : SplitRecord) (a : Attention) : Option SplitEntry :=
  match r.entries.reverse.find? (·.attention.isNone) with
  | some e => some e
  | none =>
    let worse := r.entries.reverse.filter fun e => decide (a.cls.number < classNumber e)
    let worst := worse.foldl (fun n e => max n (classNumber e)) 0
    worse.find? fun e => classNumber e == worst

/-- A join (R108). -/
def join (r : SplitRecord) (d : DoorUnit) (now : Time) (c : Cam) (a : Attention) : SplitRecord :=
  let entry : SplitEntry := { camera := c, attention := some a, joined := now }
  if r.holds c then r.setAttention c (some a)
  else if r.entries.length < 6 then r.insert d entry
  else
    match r.replaced a with
    | none => r.putOutside d ⟨c, a⟩
    | some old =>
      let r := { r with entries := r.entries.filter (·.camera != old.camera) }.insert d entry
      match old.attention with
      | none => r
      | some b => r.putOutside d ⟨old.camera, b⟩

/-- A departure (R109). -/
def departure (r : SplitRecord) (c : Cam) : SplitRecord := (r.setAttention c none).takeOutside c

/-- An attention change (R110). -/
def change (r : SplitRecord) (d : DoorUnit) (now : Time) (c : Cam) (a : Attention) : SplitRecord :=
  if r.holds c then r.setAttention c (some a)
  else if r.outside.any (·.camera == c) then (r.takeOutside c).join d now c a
  else r

/-- A map notice re-sorts the list and the outside set (R106). -/
def remap (r : SplitRecord) (d : DoorUnit) : SplitRecord :=
  { r with entries := sortByKey (fun e => d.orderKey e.camera) r.entries,
           outside := sortByKey (fun o => d.orderKey o.camera) r.outside }

/-- One notice applied. -/
def apply (r : SplitRecord) (d : DoorUnit) (now : Time) : DoorNotice → SplitRecord
  | .departure c => r.departure c
  | .change c a => r.change d now c a
  | .join c a => r.join d now c a
  | .newMap => r.remap d

/-- The outside camera of best class, the first in attention order of equal classes (R111). -/
def bestOutside (r : SplitRecord) : Option Outside :=
  let best := r.outside.foldl (fun n o => min n o.attention.cls.number) 4
  r.outside.find? fun o => o.attention.cls.number == best

/-- Readmissions, at most as many as the number given (R111). -/
def readmit (r : SplitRecord) (d : DoorUnit) (now : Time) : Nat → SplitRecord
  | 0 => r
  | n + 1 =>
    if r.entries.any (·.attention.isNone) then
      match r.bestOutside with
      | none => r
      | some o => SplitRecord.readmit ((r.takeOutside o.camera).join d now o.camera o.attention) d now n
    else r

/-- A batch of notices with the readmissions that follow (R107, R111). -/
def batch (r : SplitRecord) (d : DoorUnit) (now : Time) (notices : List DoorNotice) : SplitRecord :=
  let r := notices.foldl (fun r n => r.apply d now n) r
  r.readmit d now r.outside.length

/-- Whether the list holds a camera at class 1. -/
def urgent (r : SplitRecord) (c : Cam) : Bool := r.entries.any fun e => e.camera == c && classNumber e == 1

/-- Whether a batch left an entry at class 1 that was not at class 1 before (R92, R111). -/
def roseToUrgent (before after : SplitRecord) : Bool :=
  after.entries.any fun e => classNumber e == 1 && !before.urgent e.camera

/-- The split cleared (R117). -/
def cleared (_ : SplitRecord) : SplitRecord := { entries := [], pattern := none, outside := [], holdOver := none }

/-- The hold-over test, for a screen's hold-over value and an elapsed time (R115). -/
def testHoldOver (r : SplitRecord) (holdOver elapsed : Nat) : SplitRecord :=
  if r.entries.isEmpty then r
  else if r.entries.all (·.attention.isNone) then
    if r.holdOver.isSome then r
    else if holdOver = 0 then r.cleared
    else { r with holdOver := some (elapsed + holdOver) }
  else { r with holdOver := none }

/-- A snapshot: the split cleared and rebuilt from the cameras in attention (R118). -/
def snapshot (r : SplitRecord) (d : DoorUnit) (now : Time) (cameras : List (Cam × Attention)) : SplitRecord :=
  cameras.foldl (fun r p => r.join d now p.1 p.2) r.cleared

/-- The split is alive (R88, R104). -/
def alive (r : SplitRecord) : Bool := !r.entries.isEmpty || r.holdOver.isSome

end SplitRecord

/-! ## Tiles of a split (R112 to R114) -/

/-- The rectangle of a place of a pattern on a screen (R112). -/
def Pattern.rect (p : Pattern) (w h : Nat) (place : Nat) : Rect :=
  match p with
  | .one => { x := 0, y := 0, w := w, h := h }
  | .two => { x := place * (w / 2), y := 0, w := w / 2, h := h }
  | .four => { x := (place % 2) * (w / 2), y := (place / 2) * (h / 2), w := w / 2, h := h / 2 }
  | .six =>
    { x := (place % 3) * (w / 3), y := (place / 3) * (h / 2),
      w := if place % 3 = 2 then w - 2 * (w / 3) else w / 3, h := h / 2 }

/-- A tile before it is resolved: a rectangle with a source, an optional alternate, a label and markers (R83 step 3). -/
structure BuiltTile where
  rect      : Rect
  source    : TileSource
  alternate : Option Cam
  label     : List Byte
  markers   : Markers
  overflow  : Nat
  deriving DecidableEq, Repr

/-- The tile of a place of the split, without the overflow (R113). The overflow of a tile that does not carry OVERFLOW(n) is
0, the model's choice (log 39). -/
def DoorUnit.placeTile (d : DoorUnit) (rect : Rect) (entry : Option SplitEntry) : BuiltTile :=
  match entry with
  | none => { rect := rect, source := .blank, alternate := none, label := [], markers := Markers.none, overflow := 0 }
  | some e =>
    { rect := rect, source := .camera e.camera,
      alternate := (d.firstDoor e.camera).bind fun i => d.map[i].alternate,
      label := [], markers := splitMarkers e.attention, overflow := 0 }

/-- OVERFLOW(n) on a tile (R114). -/
def BuiltTile.withOverflow (t : BuiltTile) (n : Nat) : BuiltTile :=
  { t with markers := { t.markers with overflow := true }, overflow := n }

/-- The tiles of a split on a screen, one for each place, OVERFLOW(n) on the last (R113, R114). -/
def SplitRecord.tiles (r : SplitRecord) (d : DoorUnit) (w h : Nat) : List BuiltTile :=
  match r.pattern with
  | none => []
  | some p =>
    (List.range p.places).map fun i =>
      let t := d.placeTile (p.rect w h i) r.entries[i]?
      if i + 1 = p.places ∧ 0 < r.outside.length then t.withOverflow r.outside.length else t

end Sys2Proof.Machine
end

