-- ==== Sys2Proof/Machine/Screens.lean ====
section
/-! DEFINITION. The screen composers (spec/05): view selection, tiles and their resolution, the output frame cycle, forced
layouts, VIEW and the picture drawn. -/

namespace Sys2Proof.Machine

/-- The reader of a screen (R10). -/
def readerOf : ScreenId → Reader
  | .a => .screenA
  | .b => .screenB

/-! ## View selection (R88) -/

/-- The view a screen selects, as its state stands (R88). -/
def State.selectView (s : State) (i : ScreenId) : View :=
  let r := s.screen i
  let active := s.doors.activeScreen == some i
  let onLayout := fun (mode : ViewMode) (l : LayoutNo) => View.mk mode (some l) none
  if r.setup.enable = false then View.mk .off none none
  else
    match (if active && !s.doors.fresh then r.setup.fallback else none), r.forced with
    | some l, _ => onLayout .fallback l
    | none, some l => onLayout .forced l
    | none, none =>
      if active && (s.split i).alive then View.mk .split none (s.split i).pattern
      else
        match r.requested with
        | some l => onLayout .base l
        | none => View.mk .unconfigured none none

/-! ## VIEW (R101) -/

/-- Raises VIEW of a screen (R101). The overflow is 0 outside SPLIT. -/
def State.raiseView (s : State) (i : ScreenId) (cause : ViewCause) : State :=
  let r := s.screen i
  s.raise (.view i) (.view
    { screen := i, cause := cause, view := r.view, requested := r.requested, forced := r.forced,
      overflow := if r.view.mode = .split then (s.split i).outside.length else 0, time := s.now })

/-- A force-end notice: a forced layout is cleared and VIEW is raised (R92). -/
def State.forceEnd (s : State) (i : ScreenId) : State :=
  if (s.screen i).forced.isSome then
    (s.setScreen i { s.screen i with forced := none }).raiseView i .forceEnded
  else s

/-! ## Tiles (R89, R93 to R100) -/

/-- A tile record as a tile to resolve (R89); its overflow 0 is the model's choice (log 39). -/
def TileRecord.built (t : TileRecord) : BuiltTile :=
  { rect := t.rect, source := t.source, alternate := t.alternate, label := t.label, markers := Markers.none, overflow := 0 }

/-- The tiles of the selected view (R89); the overflow 0 of the UNCONFIGURED tile is the model's choice (log 39). -/
def State.builtTiles (s : State) (i : ScreenId) (v : View) : List BuiltTile :=
  let setup := (s.screen i).setup
  match v.mode, v.layout with
  | .split, _ => (s.split i).tiles s.doors setup.width setup.height
  | .unconfigured, _ =>
    [{ rect := { x := 0, y := 0, w := setup.width, h := setup.height }, source := .blank, alternate := none, label := [],
       markers := { Markers.none with unconfigured := true }, overflow := 0 }]
  | .off, _ => []
  | _, some l => s.layouts[l].map (·.built)
  | _, none => []

/-- The part of a rectangle that lies within a screen; `none` where it lies wholly outside (R93). -/
def Rect.clip (r : Rect) (w h : Nat) : Option Rect :=
  if r.x < w ∧ r.y < h then some { r with w := min r.w (w - r.x), h := min r.h (h - r.y) } else none

/-- The camera of a role under the cab state and the end map (R73). -/
def DoorUnit.roleCamera (d : DoorUnit) (front : Bool) : Option Cam :=
  match d.cab with
  | .none => none
  | .a => if front then d.endA else d.endB
  | .b => if front then d.endB else d.endA

/-- The primary camera of a source (R93). -/
def State.primaryCamera (s : State) : TileSource → Option Cam
  | .camera n => some n
  | .front => s.doors.roleCamera true
  | .rear => s.doors.roleCamera false
  | .blank => none

/-- A camera is RUNNING and does not have the soiling marker (R94). -/
def State.showsWell (s : State) (c : Cam) : Bool := (s.cam c).state == .running && !(s.soilOf c).marker

/-- Whether the alternate is chosen (R94). -/
def State.choosesAlternate (s : State) (primary alternate : Option Cam) : Bool :=
  !primary.any s.showsWell && alternate.any s.showsWell

/-- Resolves a tile: clipped, its camera chosen, its slot pinned, its markers decided (R93 to R95, R98 to R100). -/
def State.resolveTile (s : State) (i : ScreenId) (t : BuiltTile) : State × Option ResolvedTile :=
  let setup := (s.screen i).setup
  match t.rect.clip setup.width setup.height with
  | none => (s, none)
  | some rect =>
    let plain := fun (shown : Option Cam) (alternate : Bool) (markers : Markers) =>
      ResolvedTile.mk rect t.rect t.label shown alternate none none markers t.overflow
    if t.source = .blank then (s, some (plain none false t.markers))
    else
      let primary := s.primaryCamera t.source
      let alternate := s.choosesAlternate primary t.alternate
      let shown := if alternate then t.alternate else primary
      let markers := { t.markers with alternate := alternate }
      match shown with
      | none => (s, some (plain none alternate { markers with noPicture := true }))
      | some c =>
        match s.slots.pinNewest c (readerOf i) with
        | (_, none) => (s, some (plain shown alternate { markers with noPicture := true }))
        | (m, some slot) =>
          let time : Time := match s.slots.frame slot with
            | none => 0
            | some f => f.time
          (s.setSlots m, some
            { rect := rect, full := t.rect, label := t.label, shown := shown, alternate := alternate, slot := some slot,
              captureTime := some time, overflow := t.overflow,
              markers := { markers with soiled := (s.soilOf c).marker,
                                        frozen := isFrozen s.now time setup.freezeLimit } })

/-- Resolves tiles in list order. -/
def State.resolveTiles (s : State) (i : ScreenId) : List BuiltTile → State × List ResolvedTile
  | [] => (s, [])
  | t :: rest =>
    let (s, tile) := s.resolveTile i t
    let (s, tiles) := State.resolveTiles s i rest
    (s, tile.toList ++ tiles)

/-- The slots a list of resolved tiles holds pinned, in ascending slot number (R83, R84). -/
def pinnedSlots (tiles : List ResolvedTile) : List SlotNo :=
  (List.finRange 160).filter fun i => tiles.any (·.slot == some i)

/-! ## The output frame cycle (R83 to R85) -/

/-- The milliseconds of an interval: 40 at 25 output frames per second, 33, 33 and 34 in turn at 30 (R84). -/
def intervalOf (rate : Nat) (place : Fin 3) : Nat := if rate = 25 then 40 else if place.val = 2 then 34 else 33

/-- The output period that begins at a start. The cycle begins anew at a new rate and after a start taken at once
(R82, R84, R85). -/
def nextPeriod (p : OutputPeriod) (rate elapsed : Nat) (anew : Bool) : OutputPeriod :=
  let place := if anew || p.rate != rate then 0 else p.place + 1
  { ends := elapsed + intervalOf rate place, rate := rate, place := place }

/-- An output frame start (R83); `anew` when it is taken at once by R85 or follows a reset. -/
def State.startOutputFrame (s : State) (i : ScreenId) (anew : Bool) : State :=
  let previous := (s.screen i).view
  let s := s.setScreen i { s.screen i with frameCount := (s.screen i).frameCount + 1 }
  let view := s.selectView i
  let (s, tiles) := s.resolveTiles i (s.builtTiles i view)
  let r := s.screen i
  let s := s.setScreen i
    { r with view := view, tiles := tiles, pinned := pinnedSlots tiles, frameStart := s.now, drawn := r.setup,
             period := nextPeriod r.period r.setup.rate s.elapsed anew }
  if view = previous then s else s.raiseView i .frame

/-- The output frame ends: every slot of the pinned set is unpinned in ascending slot number (R84). -/
def State.endOutputFrame (s : State) (i : ScreenId) : State :=
  let r := s.screen i
  let s := s.setSlots (r.pinned.foldl (fun m slot => m.unpin slot (readerOf i)) s.slots)
  s.setScreen i { s.screen i with pinned := [] }

/-- OUTPUT_FRAME_END of a screen, followed in the same event by the next start (R84). -/
def State.outputFrameEnds (s : State) (i : ScreenId) : State :=
  if (s.screen i).period.ends ≤ s.elapsed then (s.endOutputFrame i).startOutputFrame i false else s

/-- An output frame in SPLIT is cut short and the next start is taken at once (R85). -/
def State.cutOutputFrame (s : State) (i : ScreenId) : State :=
  if (s.screen i).view.mode = .split then (s.endOutputFrame i).startOutputFrame i true else s

/-- HOLD_OVER_TIMER_EXPIRY of a screen (R116). -/
def State.holdOverExpired (s : State) (i : ScreenId) : State :=
  if s.due (s.split i).holdOver then s.setSplit i (s.split i).cleared else s

/-! ## The picture (R97) -/

/-- A stored length times a numerator over a denominator in whole pixels: exact where that is whole, else one of the two
neighbouring numbers, and R97 does not say which (log 29). -/
def scaledLength (length numerator denominator : Nat) : Nat :=
  let exact := decide (length * numerator % denominator = 0)
  length * numerator / denominator + (!exact && Config.roundsUp length numerator denominator).toNat

/-- The size of a camera frame scaled to fit within a rectangle with its proportions kept: one side is the rectangle's and the
other is scaled with it (R97). -/
def fittedSize (g : Geometry) (w h : Nat) : Nat × Nat :=
  if w * g.height ≤ h * g.width then (w, scaledLength g.height w g.width) else (scaledLength g.width h g.height, h)

/-- The offset that centres a length in a longer one: half the difference, and R97 does not say on which side the odd pixel of
an odd difference stands (log 29). -/
def centred (outer inner : Nat) : Nat :=
  (outer - inner) / 2 + (decide ((outer - inner) % 2 = 1) && Config.oddPixelBefore outer inner).toNat

/-- A marker as it is drawn, in the order of R98. -/
inductive DrawnMarker where
  | obstruction | fault | closed | soiled | frozen | alternate | noPicture
  | overflow (n : Nat)
  | unconfigured
  deriving DecidableEq, Repr

/-- The markers a tile carries, left to right in the order of R98; OVERFLOW with its n. -/
def Markers.drawn (m : Markers) (n : Nat) : List DrawnMarker :=
  ([(m.obstruction, DrawnMarker.obstruction), (m.fault, .fault), (m.closed, .closed), (m.soiled, .soiled),
    (m.frozen, .frozen), (m.alternate, .alternate), (m.noPicture, .noPicture), (m.overflow, .overflow n),
    (m.unconfigured, .unconfigured)].filter (·.1)).map (·.2)

/-- The n that a row of markers shows, 0 without OVERFLOW(n). -/
def overflowShown (row : List DrawnMarker) : Nat :=
  row.foldl (fun n k => match k with
    | .overflow m => m
    | _ => n) 0

/-- A tile as it is drawn: the part of the screen it covers, where its camera frame stands and its slot, its label and its
markers (R97, R98). -/
structure DrawnTile where
  covers  : Rect
  picture : Option (SlotNo × Rect)
  label   : List Byte
  markers : List DrawnMarker
  deriving DecidableEq, Repr

/-- A resolved tile as it is drawn: the frame of its slot fitted and centred in its unclipped rectangle (R97). -/
def State.drawTile (s : State) (t : ResolvedTile) : DrawnTile :=
  let picture := match t.slot with
    | none => none
    | some i =>
      (s.slots.frame i).map fun f =>
        let (w, h) := fittedSize f.geometry t.full.w t.full.h
        (i, Rect.mk (t.full.x + centred t.full.w w) (t.full.y + centred t.full.h h) w h)
  { covers := t.rect, picture := picture, label := t.label, markers := t.markers.drawn t.overflow }

/-- The tiles a screen output draws, in list order; no picture in view mode OFF (R83, R97). -/
def State.outputTiles (s : State) (i : ScreenId) : Option (List DrawnTile) :=
  let r := s.screen i
  if r.view.mode = .off then none else some (r.tiles.map s.drawTile)

/-- Whether a rectangle covers a pixel. -/
def Rect.has (r : Rect) (x y : Nat) : Bool :=
  decide (r.x ≤ x) && decide (x < r.x + r.w) && decide (r.y ≤ y) && decide (y < r.y + r.h)

/-- What stands at a pixel of a screen output (R97): nothing; a pixel of a camera frame; a part of a tile's label, by its
distances from the tile's left and bottom edges; a part of a tile's row of markers, by its distances from the tile's left and
top edges. -/
inductive ScreenPixel where
  | blank
  | picture (luminance chroma : Byte)
  | label (text : List Byte) (across up : Nat)
  | markers (row : List DrawnMarker) (across down : Nat)
  deriving DecidableEq, Repr

/-- The pixel at a place of a slot's camera frame scaled to a width and height: at the stored size the stored pixel, else
resampled, which no rule describes (R97, log 29). -/
def State.framePixel (s : State) (slot : SlotNo) (w h x y : Nat) : ScreenPixel :=
  match s.slots.frame slot with
  | none => .blank
  | some f =>
    let g := f.geometry
    let luminance := fun x y => byteOf (luminanceAt s.pixels slot g x y)
    let chroma := fun x y => byteOf (chromaAt s.pixels slot g x y)
    if w = g.width ∧ h = g.height then .picture (luminance x y) (chroma x y)
    else
      .picture (Config.scaledLuminance luminance g.width g.height w h x y)
        (Config.scaledChroma chroma g.width g.height w h x y)

/-- Whether a tile shows its markers at a distance from its left and top edges: never without a marker; which pixels a row of
markers covers is free (R97, R98, log 29). -/
def DrawnTile.markersAt (t : DrawnTile) (across down : Nat) : Bool :=
  !t.markers.isEmpty && Config.markersCover (t.markers.map (·.ctorIdx)) (overflowShown t.markers) t.covers.w across down

/-- Whether a tile shows its label at a distance from its left and bottom edges: never with an empty label; which pixels a
label covers is free (R97, log 29). -/
def DrawnTile.labelAt (t : DrawnTile) (across up : Nat) : Bool :=
  !t.label.isEmpty && Config.labelCovers t.label t.covers.w across up

/-- What a tile draws at a pixel it covers: its markers along the top edge, its label along the bottom edge, its camera frame
where that stands, and blank in the rest of its rectangle (R97). That the edges are those of the part of the tile on the
screen, and that the markers lie over the label, is log 29. -/
def State.tilePixel (s : State) (t : DrawnTile) (x y : Nat) : ScreenPixel :=
  let across := x - t.covers.x
  let down := y - t.covers.y
  let up := t.covers.h - 1 - down
  if t.markersAt across down then .markers t.markers across down
  else if t.labelAt across up then .label t.label across up
  else
    match t.picture with
    | none => .blank
    | some (slot, r) => if r.has x y then s.framePixel slot r.w r.h (x - r.x) (y - r.y) else .blank

/-- The picture on a screen output, pixel by pixel: a later tile over the ones before it where they overlap, blank where no
tile covers; no picture in view mode OFF (R83, R97). -/
def State.outputPicture (s : State) (i : ScreenId) : Option (Nat → Nat → ScreenPixel) :=
  (s.outputTiles i).map fun tiles x y =>
    match tiles.reverse.find? (·.covers.has x y) with
    | none => .blank
    | some t => s.tilePixel t x y

end Sys2Proof.Machine
end

