-- ==== Sys2Proof/Machine/Doors.lean ====
section
/-! DEFINITION. The door unit (spec/04): attention, door notices, freshness, the cab change and triggers. -/

namespace Sys2Proof.Machine

/-! ## Attention (R74, R75) -/

/-- The attention of a door in a state; class 4 for RELEASED only while released doors are shown (R74). -/
def DoorState.attention (released : Bool) (st : DoorState) : Option Attention :=
  match st with
  | .obstructed => some ⟨.one, .obstructed⟩
  | .fault => some ⟨.two, .fault⟩
  | .closing => some ⟨.two, .closing⟩
  | .open => some ⟨.three, .open⟩
  | .released => if released then some ⟨.four, .released⟩ else none
  | .locked => none

/-- The more urgent of two attentions; at class 2 FAULT decides over CLOSING (R74). -/
def Attention.better (a b : Attention) : Attention :=
  if b.cls.number < a.cls.number ∨ (b.cls.number = a.cls.number ∧ b.deciding = .fault) then b else a

/-- The better of two attentions or none. -/
def betterOf : Option Attention → Option Attention → Option Attention
  | none, b => b
  | some a, none => some a
  | some a, some b => some (a.better b)

/-- The attention of a camera: the best among the doors mapped to it (R74). -/
def DoorUnit.attentionOf (d : DoorUnit) (released : Bool) (c : Cam) : Option Attention :=
  (List.finRange 12).foldl (fun best i =>
    if d.map[i].camera = some c then betterOf best (d.table[i].state.attention released) else best) none

/-- The active screen's show-released setting (R74). -/
def State.showsReleased (s : State) : Bool :=
  match s.doors.activeScreen with
  | none => false
  | some i => (s.screen i).setup.showReleased

/-- The attention record as recomputed (R75). -/
def State.recomputed (s : State) : Vector (Option Attention) 14 :=
  Vector.ofFn fun c => s.doors.attentionOf s.showsReleased c

/-- The outcomes of a recompute as door notices: departures, attention changes, joins, each in attention order (R75). -/
def DoorUnit.notices (d : DoorUnit) (after : Vector (Option Attention) 14) : List DoorNotice :=
  let order := d.attentionOrder
  (order.filterMap fun c => match d.attention[c], after[c] with
    | some _, none => some (.departure c)
    | _, _ => none)
  ++ (order.filterMap fun c => match d.attention[c], after[c] with
    | some a, some b => if a = b then none else some (.change c b)
    | _, _ => none)
  ++ (order.filterMap fun c => match d.attention[c], after[c] with
    | none, some b => some (.join c b)
    | _, _ => none)

/-- The cameras that join, in attention order. -/
def joinsOf (notices : List DoorNotice) : List Cam :=
  notices.filterMap fun n => match n with
    | .join c _ => some c
    | _ => none

/-- The cameras in attention, in attention order, as a snapshot lists them (R69, R71). -/
def DoorUnit.inAttention (d : DoorUnit) : List (Cam × Attention) :=
  d.attentionOrder.filterMap fun c => (d.attention[c]).map fun a => (c, a)

/-! ## Handing on (R69, R71, R75, R107) -/

/-- A batch of door notices at a screen's planner: the notices and readmissions, the force-end notice, the hold-over test
(R107). -/
def State.plannerBatch (s : State) (i : ScreenId) (notices : List DoorNotice) : State :=
  let before := s.split i
  let after := before.batch s.doors s.now notices
  let s := s.setSplit i after
  let s := if before.roseToUrgent after then s.forceEnd i else s
  s.setSplit i ((s.split i).testHoldOver (s.screen i).setup.holdOver s.elapsed)

/-- Door notices at the planner of the active screen; with cab NONE no planner receives them (R75). -/
def State.handNotices (s : State) (notices : List DoorNotice) : State :=
  match s.doors.activeScreen with
  | none => s
  | some i => if notices.isEmpty then s else s.plannerBatch i notices

/-- A snapshot at the planner of the active screen (R69, R71, R118). -/
def State.handSnapshot (s : State) : State :=
  match s.doors.activeScreen with
  | none => s
  | some i => s.setSplit i ((s.split i).snapshot s.doors s.now s.doors.inAttention)

/-- Joins at the soiling monitor's priority queue (R75, R126). -/
def State.handJoins (s : State) (joins : List Cam) : State := joins.foldl (fun s c => s.queueForExamination c) s

/-- Attention is recomputed and its outcomes are handed on; `more` are the notices that follow them (R62, R75). -/
def State.recomputeAttention (s : State) (more : List DoorNotice) : State :=
  let after := s.recomputed
  let notices := s.doors.notices after
  let s := s.setDoors { s.doors with attention := after }
  (s.handNotices (notices ++ more)).handJoins (joinsOf notices)

/-- Attention is recomputed and a snapshot is handed on in place of notices (R69, R71). -/
def State.recomputeToSnapshot (s : State) : State :=
  let after := s.recomputed
  let joins := joinsOf (s.doors.notices after)
  ((s.setDoors { s.doors with attention := after }).handSnapshot).handJoins joins

/-- The trigger of a door that entered a state, if it gives one (R76). -/
def State.doorTrigger (s : State) (i : Door) (entered : DoorState) : State :=
  match entered, s.doors.map[i].camera with
  | .obstructed, some c => s.trigger .obstruction c
  | .fault, some c => s.trigger .doorFault c
  | _, _ => s

/-- Raises DOOR_STALE (R70). -/
def State.raiseDoorStale (s : State) : State :=
  s.raise .doorStale (.doorStale s.doors.fresh s.now s.doors.lastTable s.doors.period)

/-- No camera in attention. -/
def noAttention : Vector (Option Attention) 14 := Vector.ofFn fun _ => none

/-! ## The events (R62, R65 to R69, R71, R77) -/

/-- A door takes a state; the time of last change moves only with a change (R64). -/
def DoorEntry.write (e : DoorEntry) (st : DoorState) (now : Time) : DoorEntry :=
  if e.state = st then e else { state := st, lastChange := now }

/-- DOOR_MAP taken (R62). -/
def State.writeDoorMap (s : State) (map : Vector DoorMapRecord 12) : State :=
  let s := s.setDoors { s.doors with map := map }
  if s.doors.fresh then s.recomputeAttention [.newMap] else s

/-- DOOR_TABLE taken (R65, R69). -/
def State.writeDoorTable (s : State) (states : Door → DoorState) : State :=
  let old := s.doors
  let table := Vector.ofFn fun i => old.table[i].write (states i) s.now
  let s := s.setDoors
    { old with table := table, lastTable := some s.now, fresh := true,
               timer := if old.period = 0 then old.timer else s.loaded old.period }
  let s := if old.fresh then s.recomputeAttention [] else s.recomputeToSnapshot.raiseDoorStale
  (List.finRange 12).foldl (fun s i => if old.table[i].state = states i then s else s.doorTrigger i (states i)) s

/-- DOOR_CHANGE taken while FRESH (R66). -/
def State.writeDoor (s : State) (i : Door) (st : DoorState) : State :=
  if s.doors.table[i].state = st then s
  else
    let s := s.setDoors { s.doors with table := s.doors.table.set i.val (s.doors.table[i].write st s.now) i.isLt }
    (s.recomputeAttention []).doorTrigger i st

/-- FRESHNESS_TIMER_EXPIRY (R67). -/
def State.freshnessExpired (s : State) : State :=
  if s.doors.fresh = true ∧ s.due s.doors.timer = true then
    let s := s.setDoors { s.doors with fresh := false, timer := none, attention := noAttention }
    let s := match s.doors.activeScreen with
      | none => s
      | some i => s.setSplit i (s.split i).cleared
    s.raiseDoorStale
  else s

/-- DOOR_FRESHNESS_SET taken (R68). -/
def State.setFreshness (s : State) (period : Nat) : State :=
  let d := { s.doors with period := period }
  s.setDoors (if d.fresh then { d with timer := if period = 0 then none else s.loaded period } else d)

/-- CAB_SET taken (R71). The cut of R85 is made with the cab change notice. -/
def State.setCab (s : State) (cab : Cab) : State :=
  if s.doors.cab = cab then s
  else
    let old := s.doors.activeScreen
    let s := s.setDoors { s.doors with cab := cab }
    let s := match old with
      | none => s
      | some i => (s.setSplit i (s.split i).cleared).cutOutputFrame i
    if s.doors.fresh then s.recomputeToSnapshot else s

/-- A show-released notice of the active screen (R77). -/
def State.showReleasedChanged (s : State) : State := if s.doors.fresh then s.recomputeAttention [] else s

/-- SCREEN_SETUP taken (R81). -/
def State.setScreenSetup (s : State) (i : ScreenId) (setup : ScreenSetup) : State :=
  let old := (s.screen i).setup
  let s := s.setScreen i { s.screen i with setup := setup }
  if s.doors.activeScreen = some i ∧ old.showReleased ≠ setup.showReleased then s.showReleasedChanged else s

end Sys2Proof.Machine
end

