-- ==== Sys2Proof/Machine/Export.lean ====
section
/-! DEFINITION. The export engine (spec/09): frame images, blocks, staging, the stall limit and the ends of an export. -/

namespace Sys2Proof.Machine

/-! ## Frame images (R165) -/

/-- The bytes per image pixel (R165). -/
def ExportContent.pixelBytes : ExportContent → Nat
  | .luma => 1
  | .full => 2

/-- The size of a frame image in bytes (R165). -/
def imageSize (g : Geometry) (scale : Nat) (content : ExportContent) : Nat :=
  (g.width / scale) * (g.height / scale) * content.pixelBytes

/-- The mean luminance of the square of an image pixel, rounded down (R165). -/
def imageLuminance (pixels : List Host.Cell) (slot : SlotNo) (g : Geometry) (scale x y : Nat) : Nat :=
  let square : Rect := { x := x * scale, y := y * scale, w := scale, h := scale }
  square.sum (luminanceAt pixels slot g) / (scale * scale)

/-- The mean of the square's chroma bytes of the stored pixels whose column has the parity of the image column, rounded
down (R165). At scale 1 it is the stored byte. -/
def imageChroma (pixels : List Host.Cell) (slot : SlotNo) (g : Geometry) (scale x y : Nat) : Nat :=
  let square : Rect := { x := x * scale, y := y * scale, w := scale, h := scale }
  let kind := fun i => decide (i % 2 = x % 2)
  square.sum (fun i j => if kind i then chromaAt pixels slot g i j else 0) / square.sum (fun i _ => (kind i).toNat)

/-- A byte of a frame image, row by row from the top and left to right (R165). -/
def imageByte (pixels : List Host.Cell) (slot : SlotNo) (g : Geometry) (scale : Nat) (content : ExportContent) (n : Nat) :
    Byte :=
  let columns := g.width / scale
  match content with
  | .luma => byteOf (imageLuminance pixels slot g scale (n % columns) (n / columns))
  | .full =>
    let p := n / 2
    if n % 2 = 0 then byteOf (imageLuminance pixels slot g scale (p % columns) (p / columns))
    else byteOf (imageChroma pixels slot g scale (p % columns) (p / columns))

/-! ## The staging halves (R163) -/

/-- The bytes of a whole block (R166). -/
def blockBytes : Nat := 1024

def Half.isEmpty : Half → Bool
  | .empty => true
  | _ => false

def Half.isFilling : Half → Bool
  | .filling _ => true
  | _ => false

def Half.isFull : Half → Bool
  | .full _ => true
  | _ => false

def Half.isSending : Half → Bool
  | .sending _ => true
  | _ => false

/-- The block of a FULL half. -/
def Half.fullBlock : Half → Option Block
  | .full b => some b
  | _ => none

/-- A fill end: a FILLING half becomes FULL (R167). -/
def Half.filled : Half → Half
  | .filling b => .full b
  | h => h

/-- The link takes the block of a FULL half (R168). -/
def Half.taken : Half → Half
  | .full b => .sending b
  | h => h

/-- A transmission end: a SENDING half becomes EMPTY (R168). -/
def Half.sent : Half → Half
  | .sending _ => .empty
  | h => h

/-- An abort: a FULL or FILLING half becomes EMPTY (R170). -/
def Half.discarded : Half → Half
  | .sending b => .sending b
  | _ => .empty

namespace ExportEngine

/-- Whether some half is in a state. -/
def anyHalf (e : ExportEngine) (p : Half → Bool) : Bool := p e.half0 || p e.half1

/-- Changes both halves. -/
def mapHalves (e : ExportEngine) (f : Half → Half) : ExportEngine := { e with half0 := f e.half0, half1 := f e.half1 }

/-- The block FILLING, if any. -/
def fillingBlock (e : ExportEngine) : Option Block :=
  match e.half0, e.half1 with
  | .filling b, _ => some b
  | _, .filling b => some b
  | _, _ => none

/-- Whether a block can be staged now: no half FILLING, some half EMPTY, blocks left (R167). -/
def mayStage (e : ExportEngine) (r : ExportRecord) : Bool :=
  !e.anyHalf Half.isFilling && e.anyHalf Half.isEmpty && r.nextFrame.isSome

/-- The test for WAITING (R162, R169). -/
def waits (e : ExportEngine) (r : ExportRecord) : Bool :=
  !e.anyHalf Half.isFilling && !e.anyHalf Half.isSending && e.anyHalf Half.isFull && !e.mayStage r

/-- The FULL block the arbiter may take: the one with the lower block sequence (R163, R168). -/
def offered (e : ExportEngine) : Option Block :=
  match e.half0.fullBlock, e.half1.fullBlock with
  | some a, some b => if a.sequence < b.sequence then some a else some b
  | some a, none => some a
  | none, b => b

/-- The half that holds the block offered becomes SENDING, and the engine leaves WAITING (R168). -/
def takeOffered (e : ExportEngine) (b : Block) : ExportEngine :=
  let e := if e.half0.fullBlock = some b then { e with half0 := e.half0.taken } else { e with half1 := e.half1.taken }
  { e with job := e.job.map fun r =>
      if r.phase = .waiting then { r with phase := .reading, stall := none } else r }

end ExportEngine

/-! ## Staging (R164, R166, R167, R169) -/

/-- The slot and geometry of a frame of the exported clip (R165). -/
def State.exportFrame (s : State) (r : ExportRecord) (index : Nat) : Option (SlotNo × Geometry) :=
  match s.clip r.clip with
  | none => none
  | some k =>
    match k.frames[index]? with
    | none => none
    | some e => (s.slots.frame e.slot).map fun f => (e.slot, f.geometry)

/-- The next block of an export, with its bytes as stored (R165 to R167). -/
def State.nextBlock (s : State) (r : ExportRecord) : Option Block :=
  match r.nextFrame with
  | none => none
  | some index =>
    (s.exportFrame r index).map fun (slot, g) =>
      let count := min blockBytes (imageSize g r.scale r.content - r.nextOffset)
      { frame := index, sequence := r.nextSequence, offset := r.nextOffset,
        bytes := (List.range count).map fun k => imageByte s.pixels slot g r.scale r.content (r.nextOffset + k) }

/-- The engine, while READING, begins to stage the next block if one is due, else is tested for WAITING
(R167, R169, log 26). -/
def State.stageOrWait (s : State) : State :=
  let e := s.exporter
  match e.job with
  | none => s
  | some r =>
    if r.phase ≠ .reading then s
    else if e.mayStage r then
      match s.nextBlock r with
      | none => s
      | some b =>
        s.setExporter (if e.half0.isEmpty then { e with half0 := .filling b } else { e with half1 := .filling b })
    else if e.waits r then s.setExporter { e with job := some { r with phase := .waiting, stall := s.loaded 5000 } }
    else s

/-- The pointers after a block has been staged (R167). That the next byte offset becomes 0 after the last frame too is the
model's choice (log 41). -/
def ExportRecord.advanced (r : ExportRecord) (b : Block) (size : Nat) : ExportRecord :=
  let r := { r with nextSequence := r.nextSequence + 1 }
  if b.offset + b.bytes.length < size then { r with nextOffset := b.offset + b.bytes.length }
  else
    { r with nextOffset := 0,
             nextFrame := if b.frame + 1 < r.firstFrame + r.frameCount then some (b.frame + 1) else none }

/-- FILL_END (R167). -/
def State.fillEnds (s : State) : State :=
  let e := s.exporter
  match e.job, e.fillingBlock with
  | some r, some b =>
    let size := match s.exportFrame r b.frame with
      | none => 0
      | some (_, g) => imageSize g r.scale r.content
    (s.setExporter { e.mapHalves Half.filled with job := some (r.advanced b size) }).stageOrWait
  | _, _ => s

/-! ## Ends of an export (R168 to R171) -/

/-- The exported clip returns from EXPORTING to COMPLETE and CLIP_READY is raised (R159). -/
def State.returnClip (s : State) (id : ClipId) : State := s.completeClip id .exportEnded

/-- The end of the transmission of a DATA message (R168). -/
def State.transmissionEnds (s : State) : State :=
  let e := s.exporter.mapHalves Half.sent
  match e.job with
  | none => s.setExporter e
  | some r =>
    if r.phase = .ending then s.setExporter { e with job := none }
    else
      let r := { r with blocksSent := r.blocksSent + 1 }
      if r.nextFrame.isNone && !e.anyHalf Half.isFull && !e.anyHalf Half.isFilling then
        let s := s.endJob r.job .ok (byteOf r.clip.val :: bytes2 r.blocksSent)
        (s.setExporter { e with job := none }).returnClip r.clip
      else (s.setExporter { e with job := some r }).stageOrWait

/-- The block sequence of the first block not sent: the lowest of the staged blocks. -/
def ExportEngine.firstUnsent (e : ExportEngine) (r : ExportRecord) : Nat :=
  match e.offered with
  | some b => b.sequence
  | none => r.nextSequence

/-- STALL_TIMER_EXPIRY (R169). -/
def State.stallExpired (s : State) : State :=
  match s.exporter.job with
  | none => s
  | some r =>
    if r.phase = .waiting ∧ s.due r.stall = true then
      let s' := s.endJob r.job .stalled
        (byteOf r.clip.val :: bytes2 r.blocksSent ++ bytes2 (s.exporter.firstUnsent r))
      (s'.setExporter { job := none, half0 := .empty, half1 := .empty }).returnClip r.clip
    else s

/-- An export in READING or WAITING is aborted (R170, R171). -/
def State.abortExport (s : State) (r : ExportRecord) : State :=
  let sending := s.exporter.anyHalf Half.isSending
  let e := s.exporter.mapHalves Half.discarded
  let s := s.endJob r.job .aborted (byteOf r.clip.val :: bytes2 (r.blocksSent + sending.toNat))
  let job := if sending then some { r with phase := .ending, stall := none } else none
  (s.setExporter { e with job := job }).returnClip r.clip

/-- EXPORT accepted with a job (R164). -/
def State.beginExport (s : State) (r : ExportRecord) (tag : Byte) : State :=
  let s := s.openJob r.job .exportClip r.clip.val tag
  let s := s.mapClip r.clip fun k => { k with state := .exporting }
  (s.setExporter { s.exporter with job := some r }).stageOrWait

/-- CLIP_RELEASE of a clip that is not FREE (R158, R171). -/
def State.releaseClip (s : State) (id : ClipId) (k : Clip) : State :=
  let s := match k.state, s.exporter.job with
    | .exporting, some r => s.abortExport r
    | _, _ => s
  let s := if k.state = .collecting ∧ k.mode = .setNext then s.endJob? k.job .aborted [byteOf id.val] else s
  let s := s.setSlots (s.slots.release id (k.frames.map (·.slot)))
  let s := s.setLink (s.link.withdraw (.clipReady id))
  s.setClip id none

end Sys2Proof.Machine
end

