-- ==== Sys2Proof/Machine/Format.lean ====
section
/-! DEFINITION. The layouts of replies, reports and DATA messages (spec/11, sections 11.1, 11.4 and 11.5). An enumerated
field without a line in the enumeration table is sent as its place in the owning rule's list (R191, log 18); every
enumeration of the state is declared in that order, so its code is its constructor's index. -/

namespace Sys2Proof.Machine

/-! ## Coding of fields (R191, R192) -/

/-- A 1-byte numeric or enumerated field. -/
def byte1 (n : Nat) : List Byte := [byteOf n]

/-- A yes/no, on/off or set/clear field. -/
def flag1 (b : Bool) : List Byte := [byteOf b.toNat]

/-- A set of up to 8 members. -/
def set1 (members : List Bool) : List Byte := [byteOf (setBits members)]

/-- A 1-byte field that may be absent: FFh (R192). -/
def orFF (n : Option Nat) : List Byte :=
  match n with
  | none => [0xFF]
  | some n => [byteOf n]

/-- A 2-byte field that may be absent: FFFFh (R192). -/
def orFFFF (n : Option Nat) : List Byte :=
  match n with
  | none => [0xFF, 0xFF]
  | some n => bytes2 n

/-- A 4-byte field. -/
def word4 (w : Word32) : List Byte := bytes4 w.toNat

/-- A 4-byte field that may be absent, with its presence byte (R192). -/
def present4 (w : Option Word32) : List Byte :=
  match w with
  | none => [0x00, 0, 0, 0, 0]
  | some w => 0x01 :: word4 w

/-- A 2-byte field without a spare code that may be absent, with its presence byte (R192). -/
def present2 (w : Option Word16) : List Byte :=
  match w with
  | none => [0x00, 0, 0]
  | some w => 0x01 :: bytes2 w.toNat

/-- A list of varying length: a 1-byte count, then the items. -/
def listOf {α : Type} (item : α → List Byte) (l : List α) : List Byte := byteOf l.length :: l.flatMap item

/-- A camera number or none. -/
def camByte (c : Option Cam) : List Byte := orFF (c.map (·.val))

/-- A layout number or none. -/
def layoutByte (l : Option LayoutNo) : List Byte := orFF (l.map (·.val))

/-- A tile source (R191). -/
def TileSource.code : TileSource → Byte
  | .camera n => byteOf n.val
  | .front => 0x40
  | .rear => 0x41
  | .blank => 0x42

/-- A class and a deciding state; both absent for class none (R191, R192). -/
def attentionBytes (a : Option Attention) : List Byte :=
  match a with
  | none => [0xFF, 0xFF]
  | some a => byte1 a.cls.number ++ byte1 a.deciding.ctorIdx

/-- A class or DEPARTED 00h, and a deciding state (R191). -/
def entryBytes (a : Option Attention) : List Byte :=
  match a with
  | none => [0x00, 0xFF]
  | some a => byte1 a.cls.number ++ byte1 a.deciding.ctorIdx

/-- The last heater result: setting and result (R121). -/
def heaterBytes (h : Option HeaterResult) : List Byte :=
  match h with
  | none => [0xFF, 0xFF]
  | some h => flag1 h.on ++ byte1 h.outcome.ctorIdx

/-! ## Replies (section 11.4) -/

/-- PART_INFO (R187). -/
def LinkController.partInfo (l : LinkController) : List Byte :=
  [0x4C, 0x61, 0x62, 0x72, 0x69, 0x6F] ++ bytes2 1422 ++ [Config.revision] ++ byte1 l.rate.ctorIdx ++ byte1 14 ++ byte1 2
    ++ bytes2 160 ++ byte1 12 ++ byte1 8 ++ byte1 8 ++ byte1 16

/-- A job entry of LINK_QUERY: state, kind, subject, tag (R187, R192). -/
def JobEntry.bytes : JobEntry → List Byte
  | .free => [0x00, 0xFF, 0xFF, 0x00]
  | .running i => [0x01] ++ byte1 i.kind.ctorIdx ++ byte1 i.subject ++ [i.tag]
  | .doneUnsent i => [0x02] ++ byte1 i.kind.ctorIdx ++ byte1 i.subject ++ [i.tag]

/-- The six fault totals in fault kind order (R176). -/
def FaultTotals.bytes (t : FaultTotals) : List Byte :=
  bytes2 t.format ++ bytes2 t.crc ++ bytes2 t.length ++ bytes2 t.oversize ++ bytes2 t.gap ++ bytes2 t.overrun

/-- LINK_QUERY (R187). -/
def LinkController.linkQuery (l : LinkController) : List Byte :=
  l.jobs.toList.flatMap JobEntry.bytes ++ (l.reports.toList.flatMap fun e => flag1 e.pending ++ byte1 e.count)
    ++ [l.masked] ++ l.faults.bytes ++ byte1 l.buffers.length ++ word4 l.timeBase

/-- The place of a slot (R1): place, ring state, camera. -/
def Place.head : Place → List Byte
  | .free => [0, 0xFF, 0xFF]
  | .blank c => [1, 0, byteOf c.val]
  | .filling c _ => [1, 1, byteOf c.val]
  | .ready c _ _ => [1, 2, byteOf c.val]
  | .clip c _ _ => [2, 0xFF, byteOf c.val]
  | .retiring c _ => [3, 0xFF, byteOf c.val]

/-- The claim of a slot and the clip it is in (R1). -/
def Place.clips : Place → List Byte
  | .ready _ _ k => orFF (k.map (·.val)) ++ [0xFF]
  | .clip _ _ k => [0xFF, byteOf k.val]
  | _ => [0xFF, 0xFF]

/-- The fields of R1 in table order. -/
def SlotManager.slotBytes (m : SlotManager) (i : SlotNo) : List Byte :=
  let r := m.slot i
  let f := m.frame i
  byte1 i.val ++ r.place.head ++ present4 (f.map (·.sequence)) ++ present2 (f.map (·.number))
    ++ present4 (f.map (·.time)) ++ orFFFF (f.map (·.geometry.width)) ++ orFFFF (f.map (·.geometry.height))
    ++ byte1 r.holders.count ++ set1 [r.holders.screenA, r.holders.screenB, r.holders.engine] ++ r.place.clips

/-- SLOT_QUERY (R22). -/
def State.slotQuery (s : State) (named : Option SlotNo) : List Byte :=
  let m := s.slots
  byte1 m.freePool.length
    ++ (allCams.flatMap fun c => flag1 (m.ring c).isSome ++ byte1 (s.cam c).setup.depth ++ byte1 (m.ringSize c)
          ++ byte1 (m.deficitOf c))
    ++ byte1 m.retiringCount ++ byte1 m.holdCount ++ byte1 m.holdLimit
    ++ (match named with
        | none => []
        | some i => m.slotBytes i)

/-- CAMERA_QUERY (R26). -/
def State.cameraQuery (s : State) (c : Cam) : List Byte :=
  let r := s.cam c
  bytes2 r.setup.width ++ bytes2 r.setup.height ++ byte1 r.setup.rate ++ byte1 r.setup.depth
    ++ bytes2 r.setup.frameTimeout ++ bytes2 r.setup.recoveryInterval
    ++ byte1 r.state.ctorIdx ++ byte1 r.receive.ctorIdx ++ bytes2 r.nextLine ++ set1 [r.degraded, r.starved]
    ++ byte1 r.damagedRun ++ byte1 r.goodRun ++ byte1 r.skipRun
    ++ word4 r.sequence ++ present4 r.lastPublished ++ present2 r.lastNumber ++ present4 r.lastStart
    ++ orFF (r.lastDamage.map (·.ctorIdx)) ++ orFF (r.lastResult.map (·.ctorIdx))
    ++ word4 r.publishedTotal ++ word4 r.damagedTotal ++ word4 r.skippedTotal
    ++ flag1 r.recoveryPending ++ present4 (s.expiry r.frameTimer) ++ present4 (s.expiry r.recoveryTimer)
    ++ orFF (r.startJob.map (·.val)) ++ present2 (r.identity.map (·.model)) ++ present4 (r.identity.map (·.serial))
    ++ [r.heaterPresent] ++ orFFFF (r.largest.map (·.width.toNat)) ++ orFFFF (r.largest.map (·.height.toNat))
    ++ bytes2 r.generation.toNat ++ byte1 (s.slots.ringSize c) ++ byte1 (s.slots.deficitOf c)

/-- DOOR_QUERY (R78). -/
def State.doorQuery (s : State) : List Byte :=
  let d := s.doors
  (d.map.toList.flatMap fun r => byte1 r.side.ctorIdx ++ byte1 r.rank ++ camByte r.camera ++ camByte r.alternate)
    ++ camByte d.endA ++ camByte d.endB
    ++ (d.table.toList.flatMap fun e => byte1 e.state.ctorIdx ++ word4 e.lastChange)
    ++ byte1 (if d.fresh then 0 else 1) ++ bytes2 d.period ++ present4 d.lastTable ++ present4 (s.expiry d.timer)
    ++ byte1 d.cab.ctorIdx ++ d.attention.toList.flatMap attentionBytes

/-- The view fields: mode, layout shown, pattern shown. -/
def View.bytes (v : View) : List Byte :=
  byte1 v.mode.ctorIdx ++ layoutByte v.layout ++ orFF (v.pattern.map (·.places))

/-- A resolved tile in SCREEN_QUERY (section 11.4). The overflow n of a tile without the marker OVERFLOW(n) is sent as 0, the
model's choice (log 39). -/
def ResolvedTile.bytes (t : ResolvedTile) : List Byte :=
  bytes2 t.rect.x ++ bytes2 t.rect.y ++ bytes2 t.rect.w ++ bytes2 t.rect.h ++ camByte t.shown ++ flag1 t.alternate
    ++ orFF (t.slot.map (·.val)) ++ present4 t.captureTime ++ bytes2 t.markers.bits ++ byte1 t.overflow

/-- A set of slot numbers: one bit for each of the 160 slots, slot 0 in the least significant bit of the last byte
(R191, log 19). -/
def slotSet (l : List SlotNo) : List Byte :=
  ((List.range 20).map fun k => byteOf (setBits ((List.range 8).map fun b => l.any (·.val == 8 * k + b)))).reverse

/-- The screen part of SCREEN_QUERY: the record of R80 apart from the frame tiles, with the output frame count last, then
the time of the output frame start and the tiles (R102, log 19). -/
def ScreenRecord.bytes (r : ScreenRecord) : List Byte :=
  flag1 r.setup.enable ++ bytes2 r.setup.width ++ bytes2 r.setup.height ++ byte1 r.setup.rate ++ bytes2 r.setup.holdOver
    ++ bytes2 r.setup.freezeLimit ++ layoutByte r.setup.fallback ++ flag1 r.setup.showReleased
    ++ layoutByte r.requested ++ layoutByte r.forced ++ r.view.bytes ++ slotSet r.pinned ++ word4 r.frameCount
    ++ word4 r.frameStart ++ listOf ResolvedTile.bytes r.tiles

/-- The split part of SCREEN_QUERY (R119). -/
def State.splitBytes (s : State) (r : SplitRecord) : List Byte :=
  orFF (r.pattern.map (·.places))
    ++ listOf (fun (p : SplitEntry × Nat) =>
        byte1 p.2 ++ byte1 p.1.camera.val ++ entryBytes p.1.attention ++ word4 p.1.joined) r.entries.zipIdx
    ++ listOf (fun (o : Outside) => byte1 o.camera.val ++ attentionBytes (some o.attention)) r.outside
    ++ byte1 r.outside.length ++ present4 (s.expiry r.holdOver)

/-- SCREEN_QUERY (R102, R119). -/
def State.screenQuery (s : State) (i : ScreenId) : List Byte := (s.screen i).bytes ++ s.splitBytes (s.split i)

/-- A tile record (section 11.3). -/
def TileRecord.bytes (t : TileRecord) : List Byte :=
  bytes2 t.rect.x ++ bytes2 t.rect.y ++ bytes2 t.rect.w ++ bytes2 t.rect.h ++ [t.source.code] ++ camByte t.alternate
    ++ listOf (fun b => [b]) t.label

/-- LAYOUT_QUERY (R102): the tiles, then the sets of screens that hold the layout as requested, forced and fallback. -/
def State.layoutQuery (s : State) (l : LayoutNo) : List Byte :=
  let a := s.screenA.screen
  let b := s.screenB.screen
  listOf TileRecord.bytes s.layouts[l]
    ++ set1 [a.requested == some l, b.requested == some l] ++ set1 [a.forced == some l, b.forced == some l]
    ++ set1 [a.setup.fallback == some l, b.setup.fallback == some l]

/-- The baseline in SOIL_QUERY: 48 values, geometry, valid; absent while it is not valid (R144, R192). -/
def baselineBytes (b : Option Baseline) : List Byte :=
  match b with
  | none => List.replicate 100 0xFF ++ flag1 false
  | some b => b.edges.toList.flatMap bytes2 ++ bytes2 b.geometry.width ++ bytes2 b.geometry.height ++ flag1 true

/-- Sums per zone, zone 0 first, and the examinations so far (section 11.4). -/
def ZoneSums.bytes (z : ZoneSums) (edge : Nat → List Byte) : List Byte :=
  ((List.finRange 48).flatMap fun i => bytes2 z.luminance[i] ++ edge z.edges[i]) ++ byte1 z.examinations

/-- The state before learning, by its own list of values (R121, R191). -/
def SoilState.beforeCode : SoilState → Nat
  | .unlearned => 0
  | .clean => 1
  | .suspect => 2
  | .soiled => 3
  | .verify => 4
  | _ => 255

/-- The fields of R121 in table order. -/
def SoilRecord.bytes (r : SoilRecord) : List Byte :=
  flag1 r.watch ++ flag1 r.heaterAllowed ++ byte1 r.state.ctorIdx ++ baselineBytes r.baseline ++ r.window.bytes bytes2
    ++ r.learned.bytes bytes4 ++ orFF (r.beforeLearning.map (·.beforeCode)) ++ orFF (r.learnJob.map (·.val))
    ++ byte1 r.suspectCount ++ byte1 r.cleanCount ++ byte1 r.trialCount ++ flag1 r.heaterSpent ++ flag1 r.heaterOffOwed
    ++ flag1 r.wasSoiled ++ present4 r.lastExamined ++ present2 r.generationSeen ++ orFF r.lastScore
    ++ orFF r.lastJudgeable ++ heaterBytes r.lastHeater

/-- The seven tuning settings (R123). -/
def Tuning.bytes (t : Tuning) : List Byte :=
  byte1 t.window ++ byte1 t.learn ++ byte1 t.ratio ++ byte1 t.zones ++ byte1 t.confirm ++ byte1 t.cleanRun
    ++ byte1 t.trial

/-- SOIL_QUERY (R144). -/
def State.soilQuery (s : State) (c : Cam) : List Byte :=
  let e := s.soil.engine
  (s.soilOf c).bytes ++ s.soil.tuning.bytes ++ flag1 e.isSome ++ camByte (e.map (·.camera))
    ++ present4 (e.map (·.sequence))

/-- A trigger entry: kind, camera, time; kind REQUEST is 3 (R148). -/
def TriggerEntry.bytes (t : TriggerEntry) : List Byte :=
  byte1 (match t.kind with
    | none => 3
    | some k => k.ctorIdx) ++ camByte t.camera ++ word4 t.time

/-- A camera status; FFh in mode DOOR (R192). -/
def statusByte (c : ClipCamera) : List Byte := orFF (c.status.map (·.ctorIdx))

/-- A frame entry (R149): location CLAIMED_IN_RING 0, HELD 1. It carries no geometry, which R166 has the host read with
CLIP_QUERY and neither R149 nor section 11.4 lists (log 42). -/
def FrameEntry.bytes (e : FrameEntry) : List Byte :=
  byte1 e.slot.val ++ byte1 e.camera.val ++ word4 e.sequence ++ word4 e.time ++ byte1 e.role.ctorIdx ++ flag1 e.held

/-- The fields of a clip that is not FREE, from its state on (R148); the time opened, which such a clip always has, stands without a
presence byte (log 19). -/
def Clip.bytes (k : Clip) : List Byte :=
  byte1 (k.state.ctorIdx + 1) ++ byte1 k.mode.ctorIdx ++ listOf (fun (c : ClipCamera) => byte1 c.camera.val) k.cameras
    ++ listOf statusByte k.cameras ++ listOf TriggerEntry.bytes k.triggers ++ flag1 k.moreTriggers
    ++ orFF (if k.mode = .door then some k.postRemaining else none) ++ [k.flags] ++ listOf FrameEntry.bytes k.frames
    ++ orFF (k.job.map (·.val)) ++ word4 k.opened

/-- An entry of the trigger map (R146). -/
def TriggerSetting.bytes (t : TriggerSetting) : List Byte := flag1 t.clip ++ byte1 t.pre ++ byte1 t.post

/-- CLIP_QUERY (R160). Of a FREE clip it carries the id, which R148 has always present, and the state (log 19). -/
def State.clipQuery (s : State) (id : ClipId) : List Byte :=
  let map := s.clips.map
  byte1 id.val ++ (match s.clip id with
      | none => byte1 0
      | some k => k.bytes)
    ++ map.obstruction.bytes ++ map.doorFault.bytes ++ map.soiled.bytes ++ bytes2 s.clips.missed
    ++ byte1 s.slots.holdCount ++ byte1 s.slots.holdLimit

/-! ## Reports and DATA (section 11.5) -/

/-- The content of a report in table order. -/
def ReportContent.bytes : ReportContent → List Byte
  | .start cause revision rate => byte1 cause.ctorIdx ++ [revision] ++ byte1 rate.ctorIdx
  | .doorStale fresh time lastTable period =>
    byte1 (if fresh then 0 else 1) ++ word4 time ++ present4 lastTable ++ bytes2 period
  | .cameraState c =>
    byte1 c.camera.val ++ byte1 c.state.ctorIdx ++ set1 [c.degraded, c.starved] ++ byte1 c.cause.ctorIdx
      ++ orFF (c.lastResult.map (·.ctorIdx)) ++ orFF (c.lastDamage.map (·.ctorIdx)) ++ bytes2 c.generation.toNat
      ++ present4 c.lastPublished ++ word4 c.damagedTotal ++ word4 c.skippedTotal
  | .soilState c =>
    byte1 c.camera.val ++ byte1 c.state.ctorIdx ++ byte1 c.previous.ctorIdx ++ byte1 c.cause.ctorIdx ++ flag1 c.marker
      ++ orFF c.lastScore ++ orFF c.lastJudgeable ++ set1 [c.heaterSpent, c.wasSoiled] ++ flag1 c.baselineValid
      ++ heaterBytes c.lastHeater ++ word4 c.time
  | .view c =>
    byte1 c.screen.ctorIdx ++ byte1 c.cause.ctorIdx ++ c.view.bytes ++ layoutByte c.requested ++ layoutByte c.forced
      ++ byte1 c.overflow ++ word4 c.time
  | .jobDone job info result data time =>
    byte1 job.val ++ byte1 info.kind.ctorIdx ++ byte1 info.subject ++ [info.tag] ++ byte1 result.ctorIdx
      ++ listOf (fun b => [b]) data ++ word4 time
  | .clipReady c =>
    byte1 c.clip.val ++ byte1 c.cause.ctorIdx ++ byte1 c.mode.ctorIdx
      ++ listOf (fun (x : ClipCamera) => byte1 x.camera.val ++ statusByte x) c.cameras
      ++ listOf TriggerEntry.bytes c.triggers ++ flag1 c.moreTriggers ++ set1 [c.truncated, c.short]
      ++ byte1 c.frameCount ++ word4 c.time
  | .clipMissed reason kind camera time total =>
    byte1 reason.ctorIdx ++ byte1 kind.ctorIdx ++ byte1 camera.val ++ word4 time ++ bytes2 total
  | .linkFault kind tag time totals =>
    byte1 kind.ctorIdx ++ (match tag with
      | none => [0x00, 0x00]
      | some t => [0x01, t]) ++ word4 time ++ totals.bytes

/-- The body of a report: source, count of changes, content (section 11.5). -/
def reportBody (id : ReportId) (e : ReportEntry) : List Byte :=
  byte1 id.source ++ byte1 e.count ++ (match e.content with
    | none => []
    | some c => c.bytes)

/-- The kind of a report: 40h plus its class (section 11.2). -/
def reportKind (id : ReportId) : Byte := byteOf (0x40 + id.cls)

/-- The body of a DATA message (R166, section 11.5). -/
def dataBody (id : ClipId) (b : Block) : List Byte :=
  byte1 id.val ++ byte1 b.frame ++ bytes2 b.sequence ++ bytes4 b.offset ++ bytes2 b.bytes.length ++ b.bytes

end Sys2Proof.Machine
end

