-- ==== Sys2Proof/Machine/Requests.lean ====
section
/-! DEFINITION. What each request does when it is decoded and what it is answered, by its owning rule. The kind and the body
length have been checked already (R178, R193); fields are numbered as R191 numbers them. -/

namespace Sys2Proof.Machine

/-- A refused request changes no state (R178). -/
def refuse (s : State) (a : Answer) : State × Answer := (s, a)

/-! ## Link controller (spec/10) -/

/-- PART_INFO (R187). -/
def servePartInfo (s : State) (_tag : Byte) (_body : List Byte) : State × Answer := (s, .ok s.link.partInfo)

/-- LINK_QUERY (R187). -/
def serveLinkQuery (s : State) (_tag : Byte) (_body : List Byte) : State × Answer := (s, .ok s.link.linkQuery)

/-- Whether REPORT_MASK may name a class: 1, 2, 3, 4, 6 or 7 (R183). -/
def maskable (cls : Nat) : Bool := decide (1 ≤ cls) && decide (cls ≤ 7) && cls != 5

/-- The set of classes of a list. -/
def classSet (classes : List Nat) : Byte := byteOf (setBits ((List.range 8).map fun n => classes.contains n))

/-- REPORT_MASK (R183). Of several refused fields the first in body order is named, the model's choice (log 27). -/
def serveReportMask (s : State) (_tag : Byte) (body : List Byte) : State × Answer :=
  let classes := listItems body
  match firstBad ((0, decide (6 < field1 body 0)) :: classes.zipIdx.map fun p => (p.2 + 1, !maskable p.1)) with
  | some f => refuse s (.badField f)
  | none => (s.setLink { s.link with masked := classSet classes }, .ok [])

/-- TIME_SET (R186). -/
def serveTimeSet (s : State) (_tag : Byte) (body : List Byte) : State × Answer :=
  (s.setLink { s.link with timeBase := BitVec.ofNat 32 (field4 body 0) }, .ok (word4 s.now))

/-- RESET: answered OK; the reset waits for the end of the reply (R188). -/
def serveReset (s : State) (_tag : Byte) (_body : List Byte) : State × Answer :=
  (s.setLink { s.link with resetAsked := true }, .ok [])

/-! ## Slot manager (spec/01) -/

/-- SLOT_QUERY (R22). -/
def serveSlotQuery (s : State) (_tag : Byte) (body : List Byte) : State × Answer :=
  let n := field1 body 0
  match slotOf n with
  | some i => (s, .ok (s.slotQuery (some i)))
  | none => if n = 255 then (s, .ok (s.slotQuery none)) else refuse s (.badField 0)

/-- HOLD_LIMIT_SET (R18). -/
def serveHoldLimitSet (s : State) (_tag : Byte) (body : List Byte) : State × Answer :=
  let n := field1 body 0
  if 64 < n then refuse s (.badField 0)
  else if n < s.slots.holdCount then refuse s .state
  else (s.setSlots { s.slots with holdLimit := n }, .ok [])

/-! ## Camera ports (spec/02, spec/03) -/

/-- The setup a CAMERA_SETUP body carries. -/
def bodySetup (body : List Byte) : Setup :=
  { width := field2 body 1, height := field2 body 3, rate := field1 body 5, depth := field1 body 6,
    frameTimeout := field2 body 7, recoveryInterval := field2 body 9 }

/-- Whether a value lies outside a range. -/
def outside (n low high : Nat) : Bool := decide (n < low) || decide (high < n)

/-- The setup tests in body order, then the frame period (R25 tests 2 and 3). -/
def setupFault (c : Setup) : Option Nat :=
  firstBad
    [(1, outside c.width 320 1280 || c.width % 32 != 0), (2, outside c.height 200 800 || c.height % 8 != 0),
     (3, outside c.rate 10 30), (4, outside c.depth 2 8), (5, outside c.frameTimeout 50 2000),
     (6, c.recoveryInterval != 0 && outside c.recoveryInterval 500 60000),
     (5, decide (c.frameTimeout * c.rate < 1000))]

/-- A camera in OFF or FAILED (R25, R27). -/
def CaptureState.stopped (st : CaptureState) : Bool := st == .off || st == .failed

/-- CAMERA_SETUP (R25). -/
def serveCameraSetup (s : State) (_tag : Byte) (body : List Byte) : State × Answer :=
  match camOf (field1 body 0) with
  | none => refuse s (.badField 0)
  | some c =>
    match setupFault (bodySetup body) with
    | some f => refuse s (.badField f)
    | none =>
      if (s.cam c).state.stopped then (s.setCam c { s.cam c with setup := bodySetup body }, .ok [])
      else refuse s .state

/-- The camera record of an accepted CAMERA_START (R27). -/
def CameraRecord.started (r : CameraRecord) (j : JobId) : CameraRecord :=
  { r with generation := r.generation + 1, degraded := false, starved := false, damagedRun := 0, goodRun := 0,
           skipRun := 0, publishedTotal := 0, damagedTotal := 0, skippedTotal := 0, lastDamage := none,
           lastResult := none, receive := .waitStart, startJob := some j, state := .bringUp }

/-- CAMERA_START (R27): CAMERA_STATE is raised for each flag it clears (R41, R42), then for the new capture state. -/
def serveCameraStart (s : State) (tag : Byte) (body : List Byte) : State × Answer :=
  match camOf (field1 body 0) with
  | none => refuse s (.badField 0)
  | some c =>
    let r := s.cam c
    if r.state.stopped = false then refuse s .state
    else
      match (s.ctl c).enqueue r.bringUp with
      | none => refuse s .busy
      | some control =>
        match s.link.freeJob with
        | none => refuse s .busy
        | some j =>
          match s.slots.establish c r.setup.depth with
          | none => refuse s .noSlots
          | some m =>
            let s := (((s.setSlots m).openJob j .cameraStart c.val tag).setCtl c control).setCam c (r.started j)
            ((s.cameraNotice c r.state .bringUp).raiseCameraAll c (healthCauses r (r.started j) ++ [.start]), .accepted j)

/-- CAMERA_STOP (R33). -/
def serveCameraStop (s : State) (_tag : Byte) (body : List Byte) : State × Answer :=
  match camOf (field1 body 0) with
  | none => refuse s (.badField 0)
  | some c =>
    match (s.cam c).state with
    | .stopping => (s, .ok [])
    | .off => (s, .ok [])
    | .failed => (s, .ok [])
    | _ => (s.stopCamera c, .ok [])

/-- CAMERA_QUERY (R26). -/
def serveCameraQuery (s : State) (_tag : Byte) (body : List Byte) : State × Answer :=
  match camOf (field1 body 0) with
  | none => refuse s (.badField 0)
  | some c => (s, .ok (s.cameraQuery c))

/-- The command kind and setting of CAMERA_COMMAND, or the field that is refused (R56 tests 2 and 3). -/
def passCommandOf (kind setting : Nat) : Except Nat PassCommand :=
  if kind = 1 then .ok .identify
  else if kind = 6 then .ok .status
  else if kind = 5 then
    match flagOf setting with
    | some on => .ok (.heater on)
    | none => .error 2
  else .error 1

/-- A pass-through HEATER (R56 test 5). -/
def PassCommand.isHeater : PassCommand → Bool
  | .heater _ => true
  | _ => false

/-- CAMERA_COMMAND (R56). -/
def serveCameraCommand (s : State) (tag : Byte) (body : List Byte) : State × Answer :=
  match camOf (field1 body 0), passCommandOf (field1 body 1) (field1 body 2) with
  | none, _ => refuse s (.badField 0)
  | some _, .error f => refuse s (.badField f)
  | some c, .ok p =>
    if (s.cam c).state = .stopping then refuse s .state
    else if p.isHeater && (s.soilOf c).watch then refuse s .state
    else if (s.ctl c).queue.any QueueEntry.isPassThrough then refuse s .busy
    else
      match s.link.freeJob with
      | none => refuse s .busy
      | some j =>
        match (s.ctl c).enqueue (.passThrough p j) with
        | none => refuse s .busy
        | some control => ((s.openJob j .cameraCommand c.val tag).setCtl c control, .accepted j)

/-! ## Door unit (spec/04) -/

/-- The door map record at a door's place of a DOOR_MAP body, or the field that is refused (R62). -/
def bodyDoor (body : List Byte) (d : Nat) : Except Nat DoorMapRecord :=
  match sideOf (field1 body (4 * d)) with
  | none => .error (4 * d)
  | some side =>
    let rank := field1 body (4 * d + 1)
    if 5 < rank then .error (4 * d + 1)
    else
      match camOrNone (field1 body (4 * d + 2)), camOrNone (field1 body (4 * d + 3)) with
      | none, _ => .error (4 * d + 2)
      | some _, none => .error (4 * d + 3)
      | some camera, some alternate =>
        if alternate.isSome ∧ (alternate = camera ∨ camera = none) then .error (4 * d + 3)
        else .ok { side := side, rank := rank, camera := camera, alternate := alternate }

/-- The records of a DOOR_MAP body in door order, or the first field that is refused (R62). -/
def bodyDoors (body : List Byte) (doors : List Door) : Except Nat (List DoorMapRecord) :=
  match doors with
  | [] => .ok []
  | d :: rest =>
    match bodyDoor body d.val with
    | .error f => .error f
    | .ok r =>
      match bodyDoors body rest with
      | .error f => .error f
      | .ok l => .ok (r :: l)

/-- DOOR_MAP (R62). -/
def serveDoorMap (s : State) (_tag : Byte) (body : List Byte) : State × Answer :=
  match bodyDoors body (List.finRange 12) with
  | .error f => refuse s (.badField f)
  | .ok l => (s.writeDoorMap (Vector.ofFn fun d => l.getD d.val (DoorMapRecord.reset d)), .ok [])

/-- END_MAP (R63). Of two refused fields the first is named, the model's choice (log 27). -/
def serveEndMap (s : State) (_tag : Byte) (body : List Byte) : State × Answer :=
  match camOrNone (field1 body 0), camOrNone (field1 body 1) with
  | none, _ => refuse s (.badField 0)
  | some _, none => refuse s (.badField 1)
  | some a, some b => (s.setDoors { s.doors with endA := a, endB := b }, .ok [])

/-- The door state at a door's place of a DOOR_TABLE body. -/
def bodyState (body : List Byte) (d : Nat) : Option DoorState := doorStateOf (field1 body d)

/-- DOOR_TABLE (R65). -/
def serveDoorTable (s : State) (_tag : Byte) (body : List Byte) : State × Answer :=
  match firstBad ((List.range 12).map fun d => (d, (bodyState body d).isNone)) with
  | some f => refuse s (.badField f)
  | none => (s.writeDoorTable fun d => (bodyState body d.val).getD .locked, .ok [])

/-- DOOR_CHANGE (R66). -/
def serveDoorChange (s : State) (_tag : Byte) (body : List Byte) : State × Answer :=
  match doorOf (field1 body 0), doorStateOf (field1 body 1) with
  | none, _ => refuse s (.badField 0)
  | some _, none => refuse s (.badField 1)
  | some d, some st => if s.doors.fresh then (s.writeDoor d st, .ok []) else refuse s .state

/-- DOOR_FRESHNESS_SET (R68). -/
def serveDoorFreshnessSet (s : State) (_tag : Byte) (body : List Byte) : State × Answer :=
  let period := field2 body 0
  if period ≠ 0 ∧ outside period 200 10000 = true then refuse s (.badField 0) else (s.setFreshness period, .ok [])

/-- CAB_SET (R71). -/
def serveCabSet (s : State) (_tag : Byte) (body : List Byte) : State × Answer :=
  match cabOf (field1 body 0) with
  | none => refuse s (.badField 0)
  | some cab => (s.setCab cab, .ok [])

/-- DOOR_QUERY (R78). -/
def serveDoorQuery (s : State) (_tag : Byte) (_body : List Byte) : State × Answer := (s, .ok s.doorQuery)

/-! ## Screen composers (spec/05) -/

/-- The setup a SCREEN_SETUP body carries, once its fields have passed their tests. -/
def bodyScreenSetup (body : List Byte) : ScreenSetup :=
  { enable := (flagOf (field1 body 1)).getD false, width := field2 body 2, height := field2 body 4,
    rate := field1 body 6, holdOver := field2 body 7, freezeLimit := field2 body 9,
    fallback := (layoutOrNone (field1 body 11)).getD none, showReleased := (flagOf (field1 body 12)).getD false }

/-- The setup tests of SCREEN_SETUP in body order (R81 test 2). -/
def screenSetupFault (body : List Byte) : Option Nat :=
  let c := bodyScreenSetup body
  firstBad
    [(1, (flagOf (field1 body 1)).isNone), (2, outside c.width 800 1920 || c.width % 16 != 0),
     (3, outside c.height 480 1200 || c.height % 8 != 0), (4, c.rate != 25 && c.rate != 30),
     (5, decide (20000 < c.holdOver)), (6, outside c.freezeLimit 100 5000),
     (7, (layoutOrNone (field1 body 11)).isNone), (8, (flagOf (field1 body 12)).isNone)]

/-- SCREEN_SETUP (R81). -/
def serveScreenSetup (s : State) (_tag : Byte) (body : List Byte) : State × Answer :=
  match screenOf (field1 body 0) with
  | none => refuse s (.badField 0)
  | some i =>
    match screenSetupFault body with
    | some f => refuse s (.badField f)
    | none =>
      let setup := bodyScreenSetup body
      if setup.fallback.any (fun l => s.layouts[l].isEmpty) then refuse s .state
      else (s.setScreenSetup i setup, .ok [])

/-- The first field of a tile record that is refused, numbered from the record's first field x (R87 test 3, log 37). -/
def RawTile.fault (t : RawTile) : Option Nat :=
  firstBad
    [(2, decide (t.w < 64)), (3, decide (t.h < 48)), (0, decide (1920 < t.x + t.w)), (1, decide (1200 < t.y + t.h)),
     (4, (sourceOf t.source).isNone),
     (5, t.alternate != 255 && (decide (13 < t.alternate) || t.alternate == t.source || t.source == 0x42)),
     (6, decide (12 < t.label.length) || t.label.any fun b => decide (b.toNat < 0x20) || decide (0x7E < b.toNat))]

/-- A tile record that has passed its tests. -/
def RawTile.record (t : RawTile) : TileRecord :=
  { rect := { x := t.x, y := t.y, w := t.w, h := t.h }, source := (sourceOf t.source).getD .blank,
    alternate := camOf t.alternate, label := t.label }

/-- The first refused field of the tile records, numbered in the body (R191). -/
def tilesFault (tiles : List RawTile) : Option Nat :=
  match tiles.zipIdx.filterMap fun p => p.1.fault.map fun f => 2 + 7 * p.2 + f with
  | [] => none
  | f :: _ => some f

/-- LAYOUT_WRITE (R87). -/
def serveLayoutWrite (s : State) (_tag : Byte) (body : List Byte) : State × Answer :=
  match layoutOf (field1 body 0), layoutTiles body with
  | none, _ => refuse s (.badField 0)
  | some _, none => refuse s .badLength
  | some l, some tiles =>
    if 12 < tiles.length then refuse s (.badField 1)
    else
      match tilesFault tiles with
      | some f => refuse s (.badField f)
      | none =>
        if tiles.isEmpty ∧ (s.screenA.screen.setup.fallback = some l ∨ s.screenB.screen.setup.fallback = some l) then
          refuse s .state
        else (s.setLayouts (s.layouts.set l.val (tiles.map RawTile.record) l.isLt), .ok [])

/-- Shown and held by: NOW when the view selected is of the request's own case, else HELD by the view mode that wins
(R90, R91). -/
def shownBytes (v : View) (forced : Bool) : List Byte :=
  match v.mode with
  | .base => [0, 0xFF]
  | .unconfigured => [0, 0xFF]
  | .forced => if forced then [0, 0xFF] else [1, byteOf ViewMode.forced.ctorIdx]
  | m => [1, byteOf m.ctorIdx]

/-- LAYOUT_SELECT (R90). Of two refused fields the first is named, the model's choice (log 27). -/
def serveLayoutSelect (s : State) (_tag : Byte) (body : List Byte) : State × Answer :=
  match screenOf (field1 body 0), layoutOrNone (field1 body 1) with
  | none, _ => refuse s (.badField 0)
  | some _, none => refuse s (.badField 1)
  | some i, some l =>
    let s := s.setScreen i { s.screen i with requested := l }
    (s, .ok (shownBytes (s.selectView i) false))

/-- LAYOUT_FORCE (R91). Of two refused fields the first is named, the model's choice (log 27). -/
def serveLayoutForce (s : State) (_tag : Byte) (body : List Byte) : State × Answer :=
  match screenOf (field1 body 0), layoutOrNone (field1 body 1) with
  | none, _ => refuse s (.badField 0)
  | some _, none => refuse s (.badField 1)
  | some i, some l =>
    let s := s.setScreen i { s.screen i with forced := l }
    (s, .ok (shownBytes (s.selectView i) true))

/-- SCREEN_QUERY (R102). -/
def serveScreenQuery (s : State) (_tag : Byte) (body : List Byte) : State × Answer :=
  match screenOf (field1 body 0) with
  | none => refuse s (.badField 0)
  | some i => (s, .ok (s.screenQuery i))

/-- LAYOUT_QUERY (R102). -/
def serveLayoutQuery (s : State) (_tag : Byte) (body : List Byte) : State × Answer :=
  match layoutOf (field1 body 0) with
  | none => refuse s (.badField 0)
  | some l => (s, .ok (s.layoutQuery l))

/-! ## Soiling monitor (spec/07) -/

/-- SOIL_SETUP (R122). Of several refused fields the first in body order is named, the model's choice (log 27). -/
def serveSoilSetup (s : State) (_tag : Byte) (body : List Byte) : State × Answer :=
  match camOf (field1 body 0), flagOf (field1 body 1), flagOf (field1 body 2) with
  | none, _, _ => refuse s (.badField 0)
  | some _, none, _ => refuse s (.badField 1)
  | some _, some _, none => refuse s (.badField 2)
  | some c, some watch, some allowed => (s.setWatch c watch allowed, .ok [])

/-- The tuning a SOIL_TUNE body carries. -/
def bodyTuning (body : List Byte) : Tuning :=
  { window := field1 body 0, learn := field1 body 1, ratio := field1 body 2, zones := field1 body 3,
    confirm := field1 body 4, cleanRun := field1 body 5, trial := field1 body 6 }

/-- The tests of SOIL_TUNE in body order (R123). -/
def tuningFault (t : Tuning) : Option Nat :=
  firstBad
    [(0, outside t.window 1 16), (1, outside t.learn 4 32), (2, outside t.ratio 1 15), (3, outside t.zones 1 48),
     (4, outside t.confirm 1 15), (5, outside t.cleanRun 1 15), (6, outside t.trial 1 30)]

/-- SOIL_TUNE (R123). -/
def serveSoilTune (s : State) (_tag : Byte) (body : List Byte) : State × Answer :=
  match tuningFault (bodyTuning body) with
  | some f => refuse s (.badField f)
  | none => (s.tune (bodyTuning body), .ok [])

/-- SOIL_LEARN (R140). -/
def serveSoilLearn (s : State) (tag : Byte) (body : List Byte) : State × Answer :=
  match camOf (field1 body 0) with
  | none => refuse s (.badField 0)
  | some c =>
    let r := s.soilOf c
    if r.watch = false then refuse s .state
    else if (s.cam c).state ≠ .running then refuse s .state
    else if r.state = .learning then refuse s .busy
    else if r.state = .heating then refuse s .state
    else
      match s.link.freeJob with
      | none => refuse s .busy
      | some j => (s.beginLearn c j tag, .accepted j)

/-- WASH_DONE (R138). The count is tested first (log 27). -/
def serveWashDone (s : State) (_tag : Byte) (body : List Byte) : State × Answer :=
  let cameras := listItems body
  match firstBad ((0, outside (field1 body 0) 1 14) :: cameras.zipIdx.map fun p => (p.2 + 1, (camOf p.1).isNone)) with
  | some f => refuse s (.badField f)
  | none => (((cameras.filterMap camOf).eraseDups).foldl (fun s c => s.wash c) s, .ok [])

/-- SOIL_QUERY (R144). -/
def serveSoilQuery (s : State) (_tag : Byte) (body : List Byte) : State × Answer :=
  match camOf (field1 body 0) with
  | none => refuse s (.badField 0)
  | some c => (s, .ok (s.soilQuery c))

/-! ## Clips and export (spec/08, spec/09) -/

/-- The entry of the trigger map at a place of a TRIGGER_MAP_SET body. -/
def bodyTrigger (body : List Byte) (k : Nat) : TriggerSetting :=
  { clip := (flagOf (field1 body (3 * k))).getD false, pre := field1 body (3 * k + 1), post := field1 body (3 * k + 2) }

/-- TRIGGER_MAP_SET (R147). -/
def serveTriggerMapSet (s : State) (_tag : Byte) (body : List Byte) : State × Answer :=
  match firstBad ((List.range 9).map fun f =>
      (f, if f % 3 = 0 then (flagOf (field1 body f)).isNone else decide (8 < field1 body f))) with
  | some f => refuse s (.badField f)
  | none =>
    let map : TriggerMap :=
      { obstruction := bodyTrigger body 0, doorFault := bodyTrigger body 1, soiled := bodyTrigger body 2 }
    (s.setClips { s.clips with map := map }, .ok [])

/-- The tests of CLIP_TAKE's fields (R157 tests 1 to 3, log 27). -/
def clipTakeFault (body : List Byte) : Option Nat :=
  let cameras := listItems body
  firstBad
    ((0, outside (field1 body 0) 1 4)
      :: (cameras.zipIdx.map fun p => (p.2 + 1, (camOf p.1).isNone || (cameras.take p.2).contains p.1))
      ++ [(cameras.length + 1, (takeModeOf (field1 body (cameras.length + 1))).isNone)])

/-- CLIP_TAKE in mode SET_NEWEST: the clip is filled and COMPLETE in the event (R157). -/
def State.takeSetNewest (s : State) (id : ClipId) (cameras : List Cam) : State × Answer :=
  let s := s.setClip id (some (s.takenClip .setNewest (cameras.map fun c => ⟨c, some .missing⟩) false none))
  let s := (s.takeNewest id cameras).completeClip id .taken
  (s, .ok (match s.clip id with
    | none => []
    | some k => k.summary id))

/-- CLIP_TAKE in mode SET_NEXT, accepted with a job (R157). -/
def State.takeSetNext (s : State) (id : ClipId) (cameras : List Cam) (j : JobId) (tag : Byte) : State × Answer :=
  let s := s.openJob j .clipTake id.val tag
  let running := fun c => (s.cam c).state == .running
  let list := cameras.map fun c => ClipCamera.mk c (some (if running c then .waiting else .missing))
  let s := s.setClip id (some (s.takenClip .setNext list (!cameras.all running) (some j)))
  (s.testSetNext id, .accepted j)

/-- CLIP_TAKE (R157). -/
def serveClipTake (s : State) (tag : Byte) (body : List Byte) : State × Answer :=
  let cameras := (listItems body).filterMap camOf
  match clipTakeFault body, takeModeOf (field1 body (field1 body 0 + 1)) with
  | some f, _ => refuse s (.badField f)
  | none, mode =>
    match s.clips.freeClip with
    | none => refuse s .noRoom
    | some id =>
      if mode = some .setNext then
        match s.link.freeJob with
        | none => refuse s .busy
        | some j => s.takeSetNext id cameras j tag
      else s.takeSetNewest id cameras

/-- CLIP_RELEASE (R158). -/
def serveClipRelease (s : State) (_tag : Byte) (body : List Byte) : State × Answer :=
  match clipOf (field1 body 0) with
  | none => refuse s (.badField 0)
  | some id =>
    match s.clip id with
    | none => refuse s .notFound
    | some k => (s.releaseClip id k, .ok [])

/-- CLIP_QUERY (R160). -/
def serveClipQuery (s : State) (_tag : Byte) (body : List Byte) : State × Answer :=
  match clipOf (field1 body 0) with
  | none => refuse s (.badField 0)
  | some id => (s, .ok (s.clipQuery id))

/-- The tests of EXPORT's values in body order (R164 tests 1 and 2). -/
def exportFault (body : List Byte) : Option Nat :=
  let scale := field1 body 3
  firstBad
    [(0, decide (7 < field1 body 0)), (1, decide (15 < field1 body 1)), (2, outside (field1 body 2) 1 16),
     (3, scale != 1 && scale != 2 && scale != 4), (4, (contentOf (field1 body 4)).isNone)]

/-- EXPORT (R164). -/
def serveExport (s : State) (tag : Byte) (body : List Byte) : State × Answer :=
  match clipOf (field1 body 0), exportFault body with
  | none, _ => refuse s (.badField 0)
  | some _, some f => refuse s (.badField f)
  | some id, none =>
    if s.exporter.job.isSome then refuse s .busy
    else
      match s.clip id with
      | none => refuse s .state
      | some k =>
        if k.state = .collecting then refuse s .state
        else if k.frames.length < field1 body 1 + field1 body 2 then refuse s (.badField 2)
        else
          match s.link.freeJob with
          | none => refuse s .busy
          | some j =>
            (s.beginExport
              { phase := .reading, clip := id, job := j, firstFrame := field1 body 1, frameCount := field1 body 2,
                scale := field1 body 3, content := (contentOf (field1 body 4)).getD .luma,
                nextFrame := some (field1 body 1), nextOffset := 0, nextSequence := 0, blocksSent := 0,
                stall := none } tag, .accepted j)

/-- EXPORT_ABORT (R170). -/
def serveExportAbort (s : State) (_tag : Byte) (_body : List Byte) : State × Answer :=
  match s.exporter.job with
  | none => refuse s .state
  | some r => if r.phase = .ending then refuse s .state else (s.abortExport r, .ok [byteOf r.job.val])

/-! ## The owning block of each kind -/

/-- Hands a request to its owning block (R178 step 3). -/
def serve (kind : RequestKind) (s : State) (tag : Byte) (body : List Byte) : State × Answer :=
  match kind with
  | .partInfo => servePartInfo s tag body
  | .linkQuery => serveLinkQuery s tag body
  | .reportMask => serveReportMask s tag body
  | .timeSet => serveTimeSet s tag body
  | .reset => serveReset s tag body
  | .slotQuery => serveSlotQuery s tag body
  | .holdLimitSet => serveHoldLimitSet s tag body
  | .cameraSetup => serveCameraSetup s tag body
  | .cameraStart => serveCameraStart s tag body
  | .cameraStop => serveCameraStop s tag body
  | .cameraQuery => serveCameraQuery s tag body
  | .cameraCommand => serveCameraCommand s tag body
  | .doorMap => serveDoorMap s tag body
  | .endMap => serveEndMap s tag body
  | .doorTable => serveDoorTable s tag body
  | .doorChange => serveDoorChange s tag body
  | .doorFreshnessSet => serveDoorFreshnessSet s tag body
  | .cabSet => serveCabSet s tag body
  | .doorQuery => serveDoorQuery s tag body
  | .screenSetup => serveScreenSetup s tag body
  | .layoutWrite => serveLayoutWrite s tag body
  | .layoutSelect => serveLayoutSelect s tag body
  | .layoutForce => serveLayoutForce s tag body
  | .screenQuery => serveScreenQuery s tag body
  | .layoutQuery => serveLayoutQuery s tag body
  | .soilSetup => serveSoilSetup s tag body
  | .soilTune => serveSoilTune s tag body
  | .soilLearn => serveSoilLearn s tag body
  | .washDone => serveWashDone s tag body
  | .soilQuery => serveSoilQuery s tag body
  | .triggerMapSet => serveTriggerMapSet s tag body
  | .clipTake => serveClipTake s tag body
  | .clipRelease => serveClipRelease s tag body
  | .clipQuery => serveClipQuery s tag body
  | .exportClip => serveExport s tag body
  | .exportAbort => serveExportAbort s tag body

end Sys2Proof.Machine
end

