-- ==== Sys2Proof/Machine/Link.lean ====
section
/-! DEFINITION. The link controller's events (spec/10): the receiver, the request buffers, decoding, the arbiter, the frame on
TX and the resets. -/

namespace Sys2Proof.Machine

/-! ## Reception faults (R176) -/

/-- The total of a fault kind rises by 1, saturating. -/
def FaultTotals.bump (t : FaultTotals) : LinkFaultKind → FaultTotals
  | .format => { t with format := saturate 65535 t.format }
  | .crc => { t with crc := saturate 65535 t.crc }
  | .length => { t with length := saturate 65535 t.length }
  | .oversize => { t with oversize := saturate 65535 t.oversize }
  | .gap => { t with gap := saturate 65535 t.gap }
  | .overrun => { t with overrun := saturate 65535 t.overrun }

/-- A reception fault; `bytes` are the decoded bytes of the discarded frame (R176). -/
def LinkController.receptionFault (l : LinkController) (kind : LinkFaultKind) (bytes : List Byte) : LinkController :=
  let totals := l.faults.bump kind
  { l with faults := totals }.raise .linkFault (.linkFault kind bytes[1]? l.timeBase totals)

/-! ## The request buffers (R176, R177) -/

/-- A complete request is stored at the tail, or lost with OVERRUN (R177). -/
def LinkController.store (l : LinkController) (r : Request) : LinkController :=
  if l.buffers.length < 2 then { l with buffers := l.buffers ++ [r] }
  else l.receptionFault .overrun [r.kind, r.tag]

/-- A decoded frame of at least 6 bytes, split at its fields (R174). -/
def requestOf (bytes : List Byte) : Option Request :=
  match bytes with
  | kind :: tag :: _ :: _ :: rest => some { kind := kind, tag := tag, body := rest.take (rest.length - 2) }
  | _ => none

/-- A frame ends at a delimiter and is checked (R176). -/
def LinkController.frameEnds (l : LinkController) (bytes : List Byte) : LinkController :=
  let n := bytes.length
  match requestOf bytes with
  | none => l.receptionFault .format bytes
  | some r =>
    if n < 6 then l.receptionFault .format bytes
    else if (crc16 (bytes.take (n - 2))).toNat ≠ field2 bytes (n - 2) then l.receptionFault .crc bytes
    else if field2 bytes 2 ≠ n - 6 then l.receptionFault .length bytes
    else l.store r

/-! ## The receiver (R175) -/

/-- The receiver in HUNT. -/
def Receiver.hunt : Receiver := { state := .hunt, bytes := [], gap := none }

/-- The receiver in COLLECT with no bytes. -/
def Receiver.opened : Receiver := { state := .collect, bytes := [], gap := none }

/-- The largest decoded frame: content and CRC (R174). -/
def largestFrame : Nat := 1046

/-- A decoded byte is appended; past 1,046 bytes the frame is OVERSIZE (R175). -/
def LinkController.append (l : LinkController) (b : Byte) (gap : Timer) : LinkController :=
  let bytes := l.receiver.bytes ++ [b]
  if largestFrame < bytes.length then { l with receiver := Receiver.hunt }.receptionFault .oversize bytes
  else { l with receiver := { state := .collect, bytes := bytes, gap := gap } }

/-- A character ends on RX; `gap` is the gap timer as it is loaded, 2 ms (R175). -/
def LinkController.character (l : LinkController) (b : Byte) (stopHigh : Bool) (gap : Timer) : LinkController :=
  let r := l.receiver
  match r.state with
  | .hunt => if stopHigh = true ∧ b = 0x5A#8 then { l with receiver := Receiver.opened } else l
  | .collect =>
    if stopHigh = false then
      if r.bytes.isEmpty then l else { l with receiver := Receiver.hunt }.receptionFault .format r.bytes
    else if b = 0x5A#8 then
      if r.bytes.isEmpty then l else { l with receiver := Receiver.opened }.frameEnds r.bytes
    else if b = 0x5B#8 then { l with receiver := { r with state := .escaped, gap := gap } }
    else l.append b gap
  | .escaped =>
    if stopHigh = false then { l with receiver := Receiver.hunt }.receptionFault .format r.bytes
    else if b = 0x5A#8 then { l with receiver := Receiver.opened }.receptionFault .format r.bytes
    else l.append (b ^^^ 0x20#8) gap

/-- RX_CHARACTER (R173, R175). -/
def State.rxCharacter (s : State) (b : Byte) (stopHigh : Bool) : State :=
  s.setLink (s.link.character b stopHigh (s.loaded 2))

/-- GAP_TIMER_EXPIRY (R175). -/
def State.gapExpired (s : State) : State :=
  if s.due s.link.receiver.gap then
    s.setLink ({ s.link with receiver := Receiver.hunt }.receptionFault .gap s.link.receiver.bytes)
  else s

/-- A whole request reaches the buffers as its frame's end would bring it; a body no frame can carry is OVERSIZE
(R174 to R176, log 1, log 2). -/
def State.requestArrives (s : State) (r : Request) : State :=
  s.setLink (if 1040 < r.body.length then s.link.receptionFault .oversize [r.kind, r.tag] else s.link.store r)

/-! ## Decoding (R177, R178) -/

/-- The kind of a reply: the request kind plus 80h, or 80h for an unknown kind (R178). -/
def replyKind (kind : Byte) (answer : Answer) : Byte := if answer = .unknownKind then 0x80#8 else kind + 0x80#8

/-- Places a reply in the reply slot (R178). -/
def State.place (s : State) (r : Request) (answer : Answer) (ofReset : Bool) : State :=
  s.setLink { s.link with
    reply := some { kind := replyKind r.kind answer, tag := r.tag, body := answer.bytes, ofReset := ofReset } }

/-- A decoding: kind, body length, then the owning block; the reply is placed (R178). -/
def State.decode (s : State) (r : Request) : State :=
  match kindOfCode r.kind with
  | none => s.place r .unknownKind false
  | some kind =>
    if legalLength kind r.body then
      let (s, answer) := serve kind s r.tag r.body
      s.place r answer (kind == .reset)
    else s.place r .badLength false

/-- The decoder takes the head request when the reply slot is empty and no RESET waits (R177). -/
def State.decodeIfDue (s : State) : State :=
  if s.link.reply.isNone && !s.link.resetAsked then
    match s.link.buffers with
    | [] => s
    | r :: rest => (s.setLink { s.link with buffers := rest }).decode r
  else s

/-! ## The outbound arbiter (R183 to R185) -/

/-- Whether a class is masked (R183). -/
def LinkController.isMasked (l : LinkController) (cls : Nat) : Bool := l.masked.getLsbD cls

/-- The next sendable report: the lowest class, then the lowest source (R183). -/
def LinkController.nextReport (l : LinkController) : Option ReportId :=
  ReportId.all.find? fun i => (l.report i).pending && !l.isMasked i.cls

/-- The arbiter starts a frame when the transmitter is idle and RDY is high: the reply, else the next report, else a DATA
block (R182, R185). -/
def State.sendIfDue (s : State) : State :=
  let l := s.link
  if l.tx.isNone && s.pins.ready then
    match l.reply with
    | some r => s.setLink { l with reply := none, tx := some ⟨.reply r.ofReset, r.kind, r.tag, r.body⟩ }
    | none =>
      match l.nextReport with
      | some i =>
        s.setLink { l.setReport i (l.report i).cleared with
          tx := some ⟨.report i, reportKind i, 0, reportBody i (l.report i)⟩ }
      | none =>
        match s.exporter.job, s.exporter.offered with
        | some r, some b =>
          (s.setLink { l with tx := some ⟨.data, 0x60#8, 0, dataBody r.clip b⟩ }).setExporter (s.exporter.takeOffered b)
        | _, _ => s
  else s

/-- What the decoder and the arbiter do at the end of an event: a decoding, a frame begun, and the decoding that the emptied
reply slot allows in the same event (R177, R185, log 3). -/
def State.settle (s : State) : State := s.decodeIfDue.sendIfDue.decodeIfDue

/-! ## The frame on TX (R174) -/

/-- The decoded frame: content and CRC (R174). -/
def frameContent (kind tag : Byte) (body : List Byte) : List Byte :=
  let head := kind :: tag :: bytes2 body.length ++ body
  head ++ bytes2 (crc16 head).toNat

/-- Escaping inside a frame (R174). -/
def escapeBytes : List Byte → List Byte
  | [] => []
  | b :: rest =>
    if b = 0x5A#8 then 0x5B#8 :: 0x7A#8 :: escapeBytes rest
    else if b = 0x5B#8 then 0x5B#8 :: 0x7B#8 :: escapeBytes rest
    else b :: escapeBytes rest

/-- A link frame as it stands on RX or TX (R174). -/
def wireFrame (kind tag : Byte) (body : List Byte) : List Byte :=
  0x5A#8 :: escapeBytes (frameContent kind tag body) ++ [0x5A#8]

/-- The bytes on TX of the frame in transmission (R174, log 31). -/
def TxFrame.wire (f : TxFrame) : List Byte := wireFrame f.kind f.tag f.body

/-! ## Characters (R173) -/

/-- The levels of a character's bits on RX or TX in the order they are sent: the start bit, the eight data bits with the least
significant first, the stop bit; no parity bit (R173). -/
def characterBits (b : Byte) : List Bool := false :: (List.range 8).map b.getLsbD ++ [true]

/-- The byte and the level of the stop bit that the ten bits of a character carry, as RX_CHARACTER gives them to the receiver;
`none` where the line does not begin with a start bit, or gives no ten bits (R173). -/
def readCharacter (levels : List Bool) : Option (Byte × Bool) :=
  match levels with
  | [false, d0, d1, d2, d3, d4, d5, d6, d7, stop] => some (byteOf (setBits [d0, d1, d2, d3, d4, d5, d6, d7]), stop)
  | _ => none

/-- The levels of the bits of the frame in transmission, in the order they are sent (R173, R174). -/
def TxFrame.bits (f : TxFrame) : List Bool := f.wire.flatMap characterBits

/-- The level of TX: high while nothing is sent, between characters, and while the part is held in reset; else that of the
bit of the frame in transmission that is on the line (R173, R188). Which bit that is at a moment, if any, is no part of the
state (log 31). -/
def State.txLevel (s : State) (bit : Option Nat) : Bool :=
  match s.pins.resetLow, s.link.tx, bit with
  | false, some f, some n => f.bits.getD n true
  | _, _, _ => true

/-- The bits a line carries in a second at a link rate (R173). -/
def LinkRate.baud : LinkRate → Nat
  | .mbaud1_5 => 1500000
  | .mbaud3 => 3000000
  | .mbaud6 => 6000000
  | .mbaud12 => 12000000

/-! ## Resets (R188, R189) -/

/-- The link rate of the straps (R173). -/
def rateOf (p : Straps) : LinkRate :=
  match p.rate1, p.rate0 with
  | false, false => .mbaud1_5
  | false, true => .mbaud3
  | true, false => .mbaud6
  | true, true => .mbaud12

/-- The start record after a reset: not pending before a POWER_ON, else as it stood, and raised (R181, R189). -/
def raisedStart (before : ReportEntry) (cause : ResetCause) (rate : LinkRate) : ReportEntry :=
  (if cause = .powerOn then ReportEntry.reset else before).raised (.start cause Config.revision rate)

/-- Every block at its values after reset, with the start record raised; the waiting commands, the pins and the pixel bytes
stay (R1, R188, R189, log 12). -/
def State.atReset (s : State) (cause : ResetCause) (rate : LinkRate) : State :=
  let fresh := LinkController.reset rate
  { State.reset with
    pending := s.pending, pins := s.pins, pixels := s.pixels,
    link := fresh.setReport .start (raisedStart (s.link.report .start) cause rate) }

/-- A reset, with the first output frame start of each screen at time base 0 (R83, R188, log 8). -/
def State.makeReset (s : State) (cause : ResetCause) (rate : LinkRate) : State :=
  ((s.atReset cause rate).startOutputFrame .a true).startOutputFrame .b true

/-! ## Pins and boundaries (R184, R185, R188) -/

/-- The ready line takes a level (R173, R185). -/
def State.setReady (s : State) (level : Bool) : State := s.setPins { s.pins with ready := level }

/-- RESET_N takes a level (R188). -/
def State.setResetLow (s : State) (low : Bool) : State := s.setPins { s.pins with resetLow := low }

/-- The job entry whose JOB_DONE report has left the part becomes FREE (R180). -/
def LinkController.freeSent (l : LinkController) (i : ReportId) : LinkController :=
  match i with
  | .jobDone j =>
    match l.jobs[j] with
    | .doneUnsent _ => { l with jobs := l.jobs.set j.val .free j.isLt }
    | _ => l
  | _ => l

/-- The last byte of the frame in transmission has left the part (R168, R180, R184, R188). -/
def State.frameBoundary (s : State) (straps : Straps) : State :=
  match s.link.tx with
  | none => s
  | some f =>
    let idle := s.setLink { s.link with tx := none }
    match f.what with
    | .reply true => idle.makeReset .resetRequest (rateOf straps)
    | .reply false => idle
    | .report i => idle.setLink (idle.link.freeSent i)
    | .data => idle.transmissionEnds

/-- A millisecond passes (R186, log 4). -/
def State.tick (s : State) : State :=
  (s.setElapsed (s.elapsed + 1)).setLink { s.link with timeBase := s.link.timeBase + 1 }

end Sys2Proof.Machine
end

