-- ==== Sys2Proof/Machine/SystemCommands.lean ====
section
/-! DEFINITION. The commands of supplies, reset, time, RX, RDY and frame boundaries (spec/10). -/

namespace Sys2Proof.Machine

/-- A command's effect, unless RESET_N holds the part in reset (R188, log 9). -/
def State.whenRunning (s next : State) : Host.Outcome State Fault Refusal :=
  .next (if s.pins.resetLow then s else next)

/-- A command's effect, after which the decoder and the arbiter act (R177, R185), unless RESET_N holds the part in
reset. -/
def State.event (s next : State) : Host.Outcome State Fault Refusal := s.whenRunning next.settle

/-- POWER_ON (R188). -/
def execPowerOn (straps : Straps) (s : State) : Host.Outcome State Fault Refusal :=
  let t := s.makeReset .powerOn (rateOf straps)
  .next (if s.pins.resetLow then t else t.settle)

/-- RESET_LINE_ASSERT: the part is held in reset and TX is high (R173, R188). -/
def execResetLineAssert (s : State) : Host.Outcome State Fault Refusal :=
  .next ((s.setResetLow true).setLink { s.link with tx := none })

/-- RESET_LINE: RESET_N is released after being held low (R188). -/
def execResetLine (straps : Straps) (s : State) : Host.Outcome State Fault Refusal :=
  .next (if s.pins.resetLow then ((s.setResetLow false).makeReset .resetLine (rateOf straps)).settle else s)

/-- TIME_BASE_TICK (R186). -/
def execTimeBaseTick (s : State) : Host.Outcome State Fault Refusal := s.whenRunning s.tick

/-- RX_CHARACTER (R175). -/
def execRxCharacter (byte : Byte) (stopHigh : Bool) (s : State) : Host.Outcome State Fault Refusal :=
  s.event (s.rxCharacter byte stopHigh)

/-- GAP_TIMER_EXPIRY (R175). -/
def execGapTimerExpiry (s : State) : Host.Outcome State Fault Refusal := s.event s.gapExpired

/-- RDY_RISE: a decision point of the arbiter (R184, R185). -/
def execRdyRise (s : State) : Host.Outcome State Fault Refusal :=
  let t := s.setReady true
  .next (if s.pins.resetLow then t else t.settle)

/-- RDY_FALL: a frame in transmission is not stopped (R185). -/
def execRdyFall (s : State) : Host.Outcome State Fault Refusal := .next (s.setReady false)

/-- FRAME_BOUNDARY (R184). -/
def execFrameBoundary (straps : Straps) (s : State) : Host.Outcome State Fault Refusal :=
  s.event (s.frameBoundary straps)

end Sys2Proof.Machine
end

