-- ==== Sys2Proof/Machine/LaneCommands.lean ====
section
/-! DEFINITION. The commands of the camera lanes (spec/02, spec/03). -/

namespace Sys2Proof.Machine

/-- FRAME_START (R37). -/
def execFrameStart (lane : Cam) (packet : List Byte) (s : State) : Host.Outcome State Fault Refusal :=
  s.event (s.frameStart lane packet)

/-- LINE_PACKET (R38). -/
def execLinePacket (lane : Cam) (packet : List Byte) (s : State) : Host.Outcome State Fault Refusal :=
  if s.pins.resetLow then .next s
  else
    match s.linePacket lane packet with
    | .next t => .next t.settle
    | .fault f => .fault f
    | .refused r => .refused r

/-- FRAME_END (R39). -/
def execFrameEnd (lane : Cam) (packet : List Byte) (s : State) : Host.Outcome State Fault Refusal :=
  s.event (s.frameEnd lane packet)

/-- CAMERA_RESPONSE (R49). -/
def execCameraResponse (lane : Cam) (packet : List Byte) (s : State) : Host.Outcome State Fault Refusal :=
  s.event (s.cameraResponse lane packet)

/-- COMMAND_LAST_BYTE_SENT (R48, R50). -/
def execCommandLastByteSent (camera : Cam) (s : State) : Host.Outcome State Fault Refusal :=
  s.whenRunning (s.commandLastByteSent camera)

end Sys2Proof.Machine
end

