-- ==== Sys2Proof/Machine/RequestCommands.lean ====
section
/-! DEFINITION. The request commands: a whole request arrives, is stored, and is decoded in the event when the decoder may
take it (R177, R178, log 1). What each kind does is `serve`. -/

namespace Sys2Proof.Machine

/-- A request of a code, a tag and a body arrives (R174, R177). -/
def State.request (s : State) (kind tag : Byte) (body : List Byte) : Host.Outcome State Fault Refusal :=
  s.event (s.requestArrives { kind := kind, tag := tag, body := body })

/-- UNKNOWN_KIND_REQUEST (R178). -/
def execUnknownKindRequest (kind tag : Byte) (body : List Byte) (s : State) : Host.Outcome State Fault Refusal :=
  s.request kind tag body

/-- PART_INFO (R187). -/
def execPartInfo (tag : Byte) (body : List Byte) (s : State) : Host.Outcome State Fault Refusal :=
  s.request (kindCode .partInfo) tag body

/-- LINK_QUERY (R187). -/
def execLinkQuery (tag : Byte) (body : List Byte) (s : State) : Host.Outcome State Fault Refusal :=
  s.request (kindCode .linkQuery) tag body

/-- REPORT_MASK (R183). -/
def execReportMask (tag : Byte) (body : List Byte) (s : State) : Host.Outcome State Fault Refusal :=
  s.request (kindCode .reportMask) tag body

/-- TIME_SET (R186). -/
def execTimeSet (tag : Byte) (body : List Byte) (s : State) : Host.Outcome State Fault Refusal :=
  s.request (kindCode .timeSet) tag body

/-- RESET (R188). -/
def execReset (tag : Byte) (body : List Byte) (s : State) : Host.Outcome State Fault Refusal :=
  s.request (kindCode .reset) tag body

/-- SLOT_QUERY (R22). -/
def execSlotQuery (tag : Byte) (body : List Byte) (s : State) : Host.Outcome State Fault Refusal :=
  s.request (kindCode .slotQuery) tag body

/-- HOLD_LIMIT_SET (R18). -/
def execHoldLimitSet (tag : Byte) (body : List Byte) (s : State) : Host.Outcome State Fault Refusal :=
  s.request (kindCode .holdLimitSet) tag body

/-- CAMERA_SETUP (R25). -/
def execCameraSetup (tag : Byte) (body : List Byte) (s : State) : Host.Outcome State Fault Refusal :=
  s.request (kindCode .cameraSetup) tag body

/-- CAMERA_START (R27). -/
def execCameraStart (tag : Byte) (body : List Byte) (s : State) : Host.Outcome State Fault Refusal :=
  s.request (kindCode .cameraStart) tag body

/-- CAMERA_STOP (R33). -/
def execCameraStop (tag : Byte) (body : List Byte) (s : State) : Host.Outcome State Fault Refusal :=
  s.request (kindCode .cameraStop) tag body

/-- CAMERA_QUERY (R26). -/
def execCameraQuery (tag : Byte) (body : List Byte) (s : State) : Host.Outcome State Fault Refusal :=
  s.request (kindCode .cameraQuery) tag body

/-- CAMERA_COMMAND (R56). -/
def execCameraCommand (tag : Byte) (body : List Byte) (s : State) : Host.Outcome State Fault Refusal :=
  s.request (kindCode .cameraCommand) tag body

/-- DOOR_MAP (R62). -/
def execDoorMap (tag : Byte) (body : List Byte) (s : State) : Host.Outcome State Fault Refusal :=
  s.request (kindCode .doorMap) tag body

/-- END_MAP (R63). -/
def execEndMap (tag : Byte) (body : List Byte) (s : State) : Host.Outcome State Fault Refusal :=
  s.request (kindCode .endMap) tag body

/-- DOOR_TABLE (R65). -/
def execDoorTable (tag : Byte) (body : List Byte) (s : State) : Host.Outcome State Fault Refusal :=
  s.request (kindCode .doorTable) tag body

/-- DOOR_CHANGE (R66). -/
def execDoorChange (tag : Byte) (body : List Byte) (s : State) : Host.Outcome State Fault Refusal :=
  s.request (kindCode .doorChange) tag body

/-- DOOR_FRESHNESS_SET (R68). -/
def execDoorFreshnessSet (tag : Byte) (body : List Byte) (s : State) : Host.Outcome State Fault Refusal :=
  s.request (kindCode .doorFreshnessSet) tag body

/-- CAB_SET (R71). -/
def execCabSet (tag : Byte) (body : List Byte) (s : State) : Host.Outcome State Fault Refusal :=
  s.request (kindCode .cabSet) tag body

/-- DOOR_QUERY (R78). -/
def execDoorQuery (tag : Byte) (body : List Byte) (s : State) : Host.Outcome State Fault Refusal :=
  s.request (kindCode .doorQuery) tag body

/-- SCREEN_SETUP (R81). -/
def execScreenSetup (tag : Byte) (body : List Byte) (s : State) : Host.Outcome State Fault Refusal :=
  s.request (kindCode .screenSetup) tag body

/-- LAYOUT_WRITE (R87). -/
def execLayoutWrite (tag : Byte) (body : List Byte) (s : State) : Host.Outcome State Fault Refusal :=
  s.request (kindCode .layoutWrite) tag body

/-- LAYOUT_SELECT (R90). -/
def execLayoutSelect (tag : Byte) (body : List Byte) (s : State) : Host.Outcome State Fault Refusal :=
  s.request (kindCode .layoutSelect) tag body

/-- LAYOUT_FORCE (R91). -/
def execLayoutForce (tag : Byte) (body : List Byte) (s : State) : Host.Outcome State Fault Refusal :=
  s.request (kindCode .layoutForce) tag body

/-- SCREEN_QUERY (R102). -/
def execScreenQuery (tag : Byte) (body : List Byte) (s : State) : Host.Outcome State Fault Refusal :=
  s.request (kindCode .screenQuery) tag body

/-- LAYOUT_QUERY (R102). -/
def execLayoutQuery (tag : Byte) (body : List Byte) (s : State) : Host.Outcome State Fault Refusal :=
  s.request (kindCode .layoutQuery) tag body

/-- SOIL_SETUP (R122). -/
def execSoilSetup (tag : Byte) (body : List Byte) (s : State) : Host.Outcome State Fault Refusal :=
  s.request (kindCode .soilSetup) tag body

/-- SOIL_TUNE (R123). -/
def execSoilTune (tag : Byte) (body : List Byte) (s : State) : Host.Outcome State Fault Refusal :=
  s.request (kindCode .soilTune) tag body

/-- SOIL_LEARN (R140). -/
def execSoilLearn (tag : Byte) (body : List Byte) (s : State) : Host.Outcome State Fault Refusal :=
  s.request (kindCode .soilLearn) tag body

/-- WASH_DONE (R138). -/
def execWashDone (tag : Byte) (body : List Byte) (s : State) : Host.Outcome State Fault Refusal :=
  s.request (kindCode .washDone) tag body

/-- SOIL_QUERY (R144). -/
def execSoilQuery (tag : Byte) (body : List Byte) (s : State) : Host.Outcome State Fault Refusal :=
  s.request (kindCode .soilQuery) tag body

/-- TRIGGER_MAP_SET (R147). -/
def execTriggerMapSet (tag : Byte) (body : List Byte) (s : State) : Host.Outcome State Fault Refusal :=
  s.request (kindCode .triggerMapSet) tag body

/-- CLIP_TAKE (R157). -/
def execClipTake (tag : Byte) (body : List Byte) (s : State) : Host.Outcome State Fault Refusal :=
  s.request (kindCode .clipTake) tag body

/-- CLIP_RELEASE (R158). -/
def execClipRelease (tag : Byte) (body : List Byte) (s : State) : Host.Outcome State Fault Refusal :=
  s.request (kindCode .clipRelease) tag body

/-- CLIP_QUERY (R160). -/
def execClipQuery (tag : Byte) (body : List Byte) (s : State) : Host.Outcome State Fault Refusal :=
  s.request (kindCode .clipQuery) tag body

/-- EXPORT (R164). -/
def execExportClip (tag : Byte) (body : List Byte) (s : State) : Host.Outcome State Fault Refusal :=
  s.request (kindCode .exportClip) tag body

/-- EXPORT_ABORT (R170). -/
def execExportAbort (tag : Byte) (body : List Byte) (s : State) : Host.Outcome State Fault Refusal :=
  s.request (kindCode .exportAbort) tag body

end Sys2Proof.Machine
end

