-- ==== Sys2Proof/Machine/TimerCommands.lean ====
section
/-! DEFINITION. The commands of timers and of work that ends inside the part. -/

namespace Sys2Proof.Machine

/-- FRAME_TIMER_EXPIRY (R30). -/
def execFrameTimerExpiry (camera : Cam) (s : State) : Host.Outcome State Fault Refusal := s.event (s.frameTimerExpired camera)

/-- RECOVERY_TIMER_EXPIRY (R31). -/
def execRecoveryTimerExpiry (camera : Cam) (s : State) : Host.Outcome State Fault Refusal := s.event (s.recoveryTimerExpired camera)

/-- RESPONSE_TIMER_EXPIRY (R50). -/
def execResponseTimerExpiry (camera : Cam) (s : State) : Host.Outcome State Fault Refusal := s.event (s.responseTimerExpired camera)

/-- FRESHNESS_TIMER_EXPIRY (R67). -/
def execFreshnessTimerExpiry (s : State) : Host.Outcome State Fault Refusal := s.event s.freshnessExpired

/-- OUTPUT_FRAME_END (R84). -/
def execOutputFrameEnd (screen : ScreenId) (s : State) : Host.Outcome State Fault Refusal := s.event (s.outputFrameEnds screen)

/-- HOLD_OVER_TIMER_EXPIRY (R116). -/
def execHoldOverTimerExpiry (screen : ScreenId) (s : State) : Host.Outcome State Fault Refusal := s.event (s.holdOverExpired screen)

/-- IDLE_RECHECK_TIMER_EXPIRY (R124). -/
def execIdleRecheckTimerExpiry (s : State) : Host.Outcome State Fault Refusal := s.event s.recheckExpired

/-- EXAMINATION_END (R130). -/
def execExaminationEnd (s : State) : Host.Outcome State Fault Refusal := s.event s.endExamination

/-- FILL_END (R167). -/
def execFillEnd (s : State) : Host.Outcome State Fault Refusal := s.event s.fillEnds

/-- STALL_TIMER_EXPIRY (R169). -/
def execStallTimerExpiry (s : State) : Host.Outcome State Fault Refusal := s.event s.stallExpired

end Sys2Proof.Machine
end

