-- ==== Sys2Proof/Machine/Dispatch.lean ====
section
/-! DEFINITION. The meaning of each command: one arm per constructor of `Instr`. -/

namespace Sys2Proof.Machine

/-- The effect of a command on everything but the queue (spec/opcode_table.json). -/
def exec (i : Instr) (s : State) : Host.Outcome State Fault Refusal :=
  match i with
  | .powerOn straps => Sys2Proof.Machine.execPowerOn straps s
  | .resetLineAssert => Sys2Proof.Machine.execResetLineAssert s
  | .resetLine straps => Sys2Proof.Machine.execResetLine straps s
  | .timeBaseTick => Sys2Proof.Machine.execTimeBaseTick s
  | .rxCharacter byte stopHigh => Sys2Proof.Machine.execRxCharacter byte stopHigh s
  | .gapTimerExpiry => Sys2Proof.Machine.execGapTimerExpiry s
  | .unknownKindRequest kind tag body => Sys2Proof.Machine.execUnknownKindRequest kind tag body s
  | .partInfo tag body => Sys2Proof.Machine.execPartInfo tag body s
  | .linkQuery tag body => Sys2Proof.Machine.execLinkQuery tag body s
  | .reportMask tag body => Sys2Proof.Machine.execReportMask tag body s
  | .timeSet tag body => Sys2Proof.Machine.execTimeSet tag body s
  | .reset tag body => Sys2Proof.Machine.execReset tag body s
  | .slotQuery tag body => Sys2Proof.Machine.execSlotQuery tag body s
  | .holdLimitSet tag body => Sys2Proof.Machine.execHoldLimitSet tag body s
  | .cameraSetup tag body => Sys2Proof.Machine.execCameraSetup tag body s
  | .cameraStart tag body => Sys2Proof.Machine.execCameraStart tag body s
  | .cameraStop tag body => Sys2Proof.Machine.execCameraStop tag body s
  | .cameraQuery tag body => Sys2Proof.Machine.execCameraQuery tag body s
  | .cameraCommand tag body => Sys2Proof.Machine.execCameraCommand tag body s
  | .doorMap tag body => Sys2Proof.Machine.execDoorMap tag body s
  | .endMap tag body => Sys2Proof.Machine.execEndMap tag body s
  | .doorTable tag body => Sys2Proof.Machine.execDoorTable tag body s
  | .doorChange tag body => Sys2Proof.Machine.execDoorChange tag body s
  | .doorFreshnessSet tag body => Sys2Proof.Machine.execDoorFreshnessSet tag body s
  | .cabSet tag body => Sys2Proof.Machine.execCabSet tag body s
  | .doorQuery tag body => Sys2Proof.Machine.execDoorQuery tag body s
  | .screenSetup tag body => Sys2Proof.Machine.execScreenSetup tag body s
  | .layoutWrite tag body => Sys2Proof.Machine.execLayoutWrite tag body s
  | .layoutSelect tag body => Sys2Proof.Machine.execLayoutSelect tag body s
  | .layoutForce tag body => Sys2Proof.Machine.execLayoutForce tag body s
  | .screenQuery tag body => Sys2Proof.Machine.execScreenQuery tag body s
  | .layoutQuery tag body => Sys2Proof.Machine.execLayoutQuery tag body s
  | .soilSetup tag body => Sys2Proof.Machine.execSoilSetup tag body s
  | .soilTune tag body => Sys2Proof.Machine.execSoilTune tag body s
  | .soilLearn tag body => Sys2Proof.Machine.execSoilLearn tag body s
  | .washDone tag body => Sys2Proof.Machine.execWashDone tag body s
  | .soilQuery tag body => Sys2Proof.Machine.execSoilQuery tag body s
  | .triggerMapSet tag body => Sys2Proof.Machine.execTriggerMapSet tag body s
  | .clipTake tag body => Sys2Proof.Machine.execClipTake tag body s
  | .clipRelease tag body => Sys2Proof.Machine.execClipRelease tag body s
  | .clipQuery tag body => Sys2Proof.Machine.execClipQuery tag body s
  | .exportClip tag body => Sys2Proof.Machine.execExportClip tag body s
  | .exportAbort tag body => Sys2Proof.Machine.execExportAbort tag body s
  | .rdyRise => Sys2Proof.Machine.execRdyRise s
  | .rdyFall => Sys2Proof.Machine.execRdyFall s
  | .frameBoundary straps => Sys2Proof.Machine.execFrameBoundary straps s
  | .frameStart lane packet => Sys2Proof.Machine.execFrameStart lane packet s
  | .linePacket lane packet => Sys2Proof.Machine.execLinePacket lane packet s
  | .frameEnd lane packet => Sys2Proof.Machine.execFrameEnd lane packet s
  | .frameTimerExpiry camera => Sys2Proof.Machine.execFrameTimerExpiry camera s
  | .recoveryTimerExpiry camera => Sys2Proof.Machine.execRecoveryTimerExpiry camera s
  | .cameraResponse lane packet => Sys2Proof.Machine.execCameraResponse lane packet s
  | .responseTimerExpiry camera => Sys2Proof.Machine.execResponseTimerExpiry camera s
  | .freshnessTimerExpiry => Sys2Proof.Machine.execFreshnessTimerExpiry s
  | .outputFrameEnd screen => Sys2Proof.Machine.execOutputFrameEnd screen s
  | .holdOverTimerExpiry screen => Sys2Proof.Machine.execHoldOverTimerExpiry screen s
  | .idleRecheckTimerExpiry => Sys2Proof.Machine.execIdleRecheckTimerExpiry s
  | .examinationEnd => Sys2Proof.Machine.execExaminationEnd s
  | .fillEnd => Sys2Proof.Machine.execFillEnd s
  | .stallTimerExpiry => Sys2Proof.Machine.execStallTimerExpiry s
  | .commandLastByteSent camera => Sys2Proof.Machine.execCommandLastByteSent camera s

end Sys2Proof.Machine
end

