-- ==== Sys2Proof/Safety.lean ====
section
/-! DEFINITION. What every state a run reaches keeps, and the conditions under which a command is taken at once. -/

namespace Sys2Proof.Machine

/-! ## Invariants -/

/-- The frame store's bytes are in canonical form (R1, log 12). -/
def PixelsCanonical (s : State) : Prop := Memory.wf s.pixels = true

/-- The hold count never exceeds the hold limit, which is at most 64 (R17). -/
def HoldWithin (m : SlotManager) : Prop := m.holdCount ≤ m.holdLimit ∧ m.holdLimit ≤ 64

/-- The free pool and the deficit queue are never both non-empty (R4). -/
def PoolOrDeficit (m : SlotManager) : Prop := m.freePool = [] ∨ m.deficit = []

/-- The lists that give slots their places: the free pool, and the BLANK list, the FILLING slot and the READY list of each
camera's ring (R2, R5). -/
inductive SlotList where
  | free
  | blank (camera : Cam)
  | filling (camera : Cam)
  | ready (camera : Cam)
  deriving DecidableEq, Repr

/-- The list a slot of a place stands in; a slot in a clip or retiring stands in none (R1, R2). -/
def Place.list : Place → Option SlotList
  | .free => some .free
  | .blank c => some (.blank c)
  | .filling c _ => some (.filling c)
  | .ready c _ _ => some (.ready c)
  | _ => none

/-- The slots of a list (R3, R5). -/
def SlotManager.members (m : SlotManager) : SlotList → List SlotNo
  | .free => m.freePool
  | .blank c => ((m.ring c).map (·.blank)).getD []
  | .filling c => ((m.ring c).bind (·.filling)).toList
  | .ready c => ((m.ring c).map (·.ready)).getD []

/-- A slot of a place counts towards the hold count: it is in a clip, or READY with a claim (R17). -/
def Place.held : Place → Bool
  | .clip _ _ _ => true
  | .ready _ _ (some _) => true
  | _ => false

/-- The number of slots in clips and of claimed slots in rings. -/
def SlotManager.heldCount (m : SlotManager) : Nat := (List.finRange 160).countP fun i => (m.slot i).place.held

/-- The number of slots in clips (R22). -/
def SlotManager.clipCount (m : SlotManager) : Nat :=
  (List.finRange 160).countP fun i => match (m.slot i).place with | .clip _ _ _ => true | _ => false

/-- The pins a slot may carry in a place: none in the free pool, BLANK or FILLING (R4, R5, R10), at least one while
retiring (R11). -/
def SlotRecord.pinsFit (r : SlotRecord) : Prop :=
  match r.place with
  | .free => r.holders = Holders.none
  | .blank _ => r.holders = Holders.none
  | .filling _ _ => r.holders = Holders.none
  | .retiring _ _ => r.holders.count ≠ 0
  | _ => True

/-- The accounts of the slot manager agree: every slot stands once in the list its record names and in no other (R2, R3, R5),
its pins fit its place (R10, R11), a claimed slot of a ring is its newest READY slot (R14), only cameras with a ring have
deficit entries (R6), and the hold count is the number of slots in clips and of claims in rings (R17). -/
structure SlotsAccounted (m : SlotManager) : Prop where
  placed   : ∀ i l, (m.slot i).place.list = some l ↔ i ∈ m.members l
  distinct : ∀ l, (m.members l).Nodup
  pins     : ∀ i, (m.slot i).pinsFit
  claimed  : ∀ i c f k, (m.slot i).place = .ready c f (some k) → m.newest c = some i
  deficit  : ∀ c ∈ m.deficit, m.ring c ≠ none
  held     : m.holdCount = m.heldCount

/-- A camera with a ring is in BRINGUP, SEARCHING, RUNNING or LOST, and its ring size plus its entries in the deficit queue is the
depth of its setup (R6, R20, R27, R33, R35). -/
def RingsFit (s : State) : Prop :=
  ∀ c : Cam, s.slots.ring c ≠ none →
    ((s.cam c).state = .bringUp ∨ (s.cam c).state = .searching ∨ (s.cam c).state = .running ∨ (s.cam c).state = .lost) ∧
    s.slots.ringSize c + s.slots.deficitOf c = (s.cam c).setup.depth

/-- A camera's control queue holds at most 3 entries (R51). -/
def ControlBounded (s : State) : Prop := ∀ c : Cam, (s.ctl c).queue.length ≤ 3

/-- A split list holds at most 6 entries (R104). -/
def SplitBounded (s : State) : Prop := ∀ i : ScreenId, (s.split i).entries.length ≤ 6

/-- The priority queue has no duplicates (R126). -/
def QueueDistinct (s : State) : Prop := s.soil.queue.Nodup

/-- At most 2 complete requests wait (R177). -/
def BuffersBounded (s : State) : Prop := s.link.buffers.length ≤ 2

/-- The values of a camera setup lie within the ranges of R24 that R25 tests. -/
def Setup.InRange (c : Setup) : Prop := setupFault c = none

/-- Every camera's setup lies within its ranges (R24, R25). -/
def SetupsInRange (s : State) : Prop := ∀ c : Cam, (s.cam c).setup.InRange

/-! ## Settings -/

/-- The settings that single commands write. -/
inductive Part where
  | doorMap | endMap | doorTable | freshness | cab | attention | layouts | triggerMap | tuning | holdLimit | screenSetups | cameraSetups | masks | timeBase | resetAsked
  deriving DecidableEq, Repr

/-- Two states agree in a setting. -/
def Part.same (r s : State) : Part → Prop
  | .doorMap => s.doors.map = r.doors.map
  | .endMap => s.doors.endA = r.doors.endA ∧ s.doors.endB = r.doors.endB
  | .doorTable => s.doors.table = r.doors.table
  | .freshness => s.doors.fresh = r.doors.fresh ∧ s.doors.period = r.doors.period ∧ s.doors.timer = r.doors.timer
      ∧ s.doors.lastTable = r.doors.lastTable
  | .cab => s.doors.cab = r.doors.cab
  | .attention => s.doors.attention = r.doors.attention
  | .layouts => s.layouts = r.layouts
  | .triggerMap => s.clips.map = r.clips.map
  | .tuning => s.soil.tuning = r.soil.tuning
  | .holdLimit => s.slots.holdLimit = r.slots.holdLimit
  | .screenSetups => ∀ i, (s.screen i).setup = (r.screen i).setup ∧ (s.screen i).requested = (r.screen i).requested
  | .cameraSetups => ∀ c, (s.cam c).setup = (r.cam c).setup
  | .masks => s.link.masked = r.link.masked
  | .timeBase => s.link.timeBase = r.link.timeBase
  | .resetAsked => s.link.resetAsked = r.link.resetAsked

/-- The settings a request of a kind may write. -/
def requestWrites : RequestKind → Part → Bool
  | .reportMask, .masks => true
  | .timeSet, .timeBase => true
  | .reset, .resetAsked => true
  | .holdLimitSet, .holdLimit => true
  | .cameraSetup, .cameraSetups => true
  | .doorMap, .doorMap => true
  | .doorMap, .attention => true
  | .endMap, .endMap => true
  | .doorTable, .doorTable => true
  | .doorTable, .freshness => true
  | .doorTable, .attention => true
  | .doorChange, .doorTable => true
  | .doorChange, .attention => true
  | .doorFreshnessSet, .freshness => true
  | .cabSet, .cab => true
  | .cabSet, .attention => true
  | .screenSetup, .screenSetups => true
  | .screenSetup, .attention => true
  | .layoutWrite, .layouts => true
  | .layoutSelect, .screenSetups => true
  | .soilTune, .tuning => true
  | .triggerMapSet, .triggerMap => true
  | _, _ => false

/-- The settings a command may write when no request waits: a reset and a frame boundary, which may make one, any; a character,
which may end a request, any; a request those of its kind. -/
def commandWrites (c : Instr) (p : Part) : Bool :=
  match c with
  | .powerOn _ => true
  | .resetLine _ => true
  | .frameBoundary _ => true
  | .rxCharacter _ _ => true
  | .timeBaseTick => p == .timeBase
  | .freshnessTimerExpiry => p == .freshness || p == .attention
  | .partInfo _ _ => requestWrites .partInfo p
  | .linkQuery _ _ => requestWrites .linkQuery p
  | .reportMask _ _ => requestWrites .reportMask p
  | .timeSet _ _ => requestWrites .timeSet p
  | .reset _ _ => requestWrites .reset p
  | .slotQuery _ _ => requestWrites .slotQuery p
  | .holdLimitSet _ _ => requestWrites .holdLimitSet p
  | .cameraSetup _ _ => requestWrites .cameraSetup p
  | .cameraStart _ _ => requestWrites .cameraStart p
  | .cameraStop _ _ => requestWrites .cameraStop p
  | .cameraQuery _ _ => requestWrites .cameraQuery p
  | .cameraCommand _ _ => requestWrites .cameraCommand p
  | .doorMap _ _ => requestWrites .doorMap p
  | .endMap _ _ => requestWrites .endMap p
  | .doorTable _ _ => requestWrites .doorTable p
  | .doorChange _ _ => requestWrites .doorChange p
  | .doorFreshnessSet _ _ => requestWrites .doorFreshnessSet p
  | .cabSet _ _ => requestWrites .cabSet p
  | .doorQuery _ _ => requestWrites .doorQuery p
  | .screenSetup _ _ => requestWrites .screenSetup p
  | .layoutWrite _ _ => requestWrites .layoutWrite p
  | .layoutSelect _ _ => requestWrites .layoutSelect p
  | .layoutForce _ _ => requestWrites .layoutForce p
  | .screenQuery _ _ => requestWrites .screenQuery p
  | .layoutQuery _ _ => requestWrites .layoutQuery p
  | .soilSetup _ _ => requestWrites .soilSetup p
  | .soilTune _ _ => requestWrites .soilTune p
  | .soilLearn _ _ => requestWrites .soilLearn p
  | .washDone _ _ => requestWrites .washDone p
  | .soilQuery _ _ => requestWrites .soilQuery p
  | .triggerMapSet _ _ => requestWrites .triggerMapSet p
  | .clipTake _ _ => requestWrites .clipTake p
  | .clipRelease _ _ => requestWrites .clipRelease p
  | .clipQuery _ _ => requestWrites .clipQuery p
  | .exportClip _ _ => requestWrites .exportClip p
  | .exportAbort _ _ => requestWrites .exportAbort p
  | _ => false

/-! ## When a request is decoded at its arrival (R177) -/

/-- The part is not held in reset, the reply slot is empty, no RESET waits for its reply, and no request waits. -/
structure State.TakesRequest (s : State) : Prop where
  running : s.pins.resetLow = false
  noReply : s.link.reply = none
  noReset : s.link.resetAsked = false
  noneWaiting : s.link.buffers = []

/-- The state after the reply to a request of a kind and tag has entered the reply slot, and the arbiter has begun to send
it if the transmitter is idle and RDY is high (R178, R185). -/
def State.replied (s : State) (kind : RequestKind) (tag : Byte) (answer : Answer) : State :=
  (s.place { kind := kindCode kind, tag := tag, body := [] } answer (kind == .reset)).sendIfDue

/-- The request row of a kind. -/
def requestOfKind (kind : RequestKind) (tag : Byte) (body : List Byte) : Instr :=
  match kind with
  | .partInfo => .partInfo tag body
  | .linkQuery => .linkQuery tag body
  | .reportMask => .reportMask tag body
  | .timeSet => .timeSet tag body
  | .reset => .reset tag body
  | .slotQuery => .slotQuery tag body
  | .holdLimitSet => .holdLimitSet tag body
  | .cameraSetup => .cameraSetup tag body
  | .cameraStart => .cameraStart tag body
  | .cameraStop => .cameraStop tag body
  | .cameraQuery => .cameraQuery tag body
  | .cameraCommand => .cameraCommand tag body
  | .doorMap => .doorMap tag body
  | .endMap => .endMap tag body
  | .doorTable => .doorTable tag body
  | .doorChange => .doorChange tag body
  | .doorFreshnessSet => .doorFreshnessSet tag body
  | .cabSet => .cabSet tag body
  | .doorQuery => .doorQuery tag body
  | .screenSetup => .screenSetup tag body
  | .layoutWrite => .layoutWrite tag body
  | .layoutSelect => .layoutSelect tag body
  | .layoutForce => .layoutForce tag body
  | .screenQuery => .screenQuery tag body
  | .layoutQuery => .layoutQuery tag body
  | .soilSetup => .soilSetup tag body
  | .soilTune => .soilTune tag body
  | .soilLearn => .soilLearn tag body
  | .washDone => .washDone tag body
  | .soilQuery => .soilQuery tag body
  | .triggerMapSet => .triggerMapSet tag body
  | .clipTake => .clipTake tag body
  | .clipRelease => .clipRelease tag body
  | .clipQuery => .clipQuery tag body
  | .exportClip => .exportClip tag body
  | .exportAbort => .exportAbort tag body

/-! ## When an event leaves the decoder nothing to do -/

/-- The part is not held in reset and no request waits. What an event does to the blocks is then followed by the arbiter's
decision alone (R184, R185, log 3). -/
structure State.Unasked (s : State) : Prop where
  running : s.pins.resetLow = false
  noneWaiting : s.link.buffers = []

/-! ## After a reset (R188, R189) -/

/-- The start record a reset with a cause and a link rate leaves, from the start record before it (R181, R182, R189). -/
def startAfter (before : ReportEntry) (cause : ResetCause) (rate : LinkRate) : ReportEntry :=
  { pending := true,
    count := if cause ≠ .powerOn ∧ before.pending = true then (if before.count < 255 then before.count + 1 else before.count)
             else 1,
    content := some (.start cause Config.revision rate) }

/-- A state right after a reset of an earlier one, with the first output frame start of each screen taken and, where RDY is
high and the part is not held, START begun on TX (R83, R185, R188, R189; log 8). -/
structure State.AfterReset (s t : State) (cause : ResetCause) (rate : LinkRate) (pins : Pins) : Prop where
  pending  : t.pending = s.pending
  pixels   : t.pixels = s.pixels
  pinsAre  : t.pins = pins
  elapsed  : t.elapsed = 0
  slots    : t.slots = State.reset.slots
  cameras  : t.cameras = State.reset.cameras
  controls : t.controls = State.reset.controls
  doors    : t.doors = State.reset.doors
  layouts  : t.layouts = State.reset.layouts
  soil     : t.soil = State.reset.soil
  clips    : t.clips = State.reset.clips
  exporter : t.exporter = State.reset.exporter
  split    : ∀ i, t.split i = State.reset.split i
  screen   : ∀ i, (t.screen i).setup = (State.reset.screen i).setup ∧ (t.screen i).requested = none ∧
    (t.screen i).forced = none ∧ (t.screen i).view = (State.reset.screen i).view ∧ (t.screen i).pinned = [] ∧
    (t.screen i).frameCount = 1 ∧ (t.screen i).frameStart = 0
  link     : t.link.rate = rate ∧ t.link.receiver = State.reset.link.receiver ∧ t.link.buffers = [] ∧
    t.link.reply = none ∧ t.link.resetAsked = false ∧ (∀ j : JobId, t.link.jobs[j] = .free) ∧ t.link.masked = 0 ∧
    t.link.faults = State.reset.link.faults ∧ t.link.timeBase = 0
  reports  : ∀ i : ReportId, i ≠ .start → t.link.report i = ReportEntry.reset
  startWaits : pins.ready = false ∨ pins.resetLow = true →
    t.link.tx = none ∧ t.link.report .start = startAfter (s.link.report .start) cause rate
  startLeaves : pins.ready = true → pins.resetLow = false →
    t.link.tx = some ⟨.report .start, 0x40#8, 0, reportBody .start (startAfter (s.link.report .start) cause rate)⟩

end Sys2Proof.Machine
end

