-- ==== Sys2Proof/WellFormed.lean ====
section
/-! DEFINITION. The well-formed commands: those whose operands a link or a lane can carry. -/

namespace Sys2Proof

/-- A body a link frame can carry: 0–1,040 bytes (R174). -/
def legalBody (body : List Byte) : Bool := decide (body.length ≤ 1040)

/-- A request is well-formed when a link frame can carry its body; UNKNOWN_KIND_REQUEST moreover when section 11.3 does not
list its kind (R178). Every other command is well-formed: its operands' types hold what the row allows. -/
def Instr.wellFormed : Instr → Bool
  | .unknownKindRequest kind _ body => legalBody body && (Machine.kindOfCode kind).isNone
  | .partInfo _ body => legalBody body
  | .linkQuery _ body => legalBody body
  | .reportMask _ body => legalBody body
  | .timeSet _ body => legalBody body
  | .reset _ body => legalBody body
  | .slotQuery _ body => legalBody body
  | .holdLimitSet _ body => legalBody body
  | .cameraSetup _ body => legalBody body
  | .cameraStart _ body => legalBody body
  | .cameraStop _ body => legalBody body
  | .cameraQuery _ body => legalBody body
  | .cameraCommand _ body => legalBody body
  | .doorMap _ body => legalBody body
  | .endMap _ body => legalBody body
  | .doorTable _ body => legalBody body
  | .doorChange _ body => legalBody body
  | .doorFreshnessSet _ body => legalBody body
  | .cabSet _ body => legalBody body
  | .doorQuery _ body => legalBody body
  | .screenSetup _ body => legalBody body
  | .layoutWrite _ body => legalBody body
  | .layoutSelect _ body => legalBody body
  | .layoutForce _ body => legalBody body
  | .screenQuery _ body => legalBody body
  | .layoutQuery _ body => legalBody body
  | .soilSetup _ body => legalBody body
  | .soilTune _ body => legalBody body
  | .soilLearn _ body => legalBody body
  | .washDone _ body => legalBody body
  | .soilQuery _ body => legalBody body
  | .triggerMapSet _ body => legalBody body
  | .clipTake _ body => legalBody body
  | .clipRelease _ body => legalBody body
  | .clipQuery _ body => legalBody body
  | .exportClip _ body => legalBody body
  | .exportAbort _ body => legalBody body
  | _ => true

end Sys2Proof
end

