-- ==== Sys2Proof/Certificates/Slice0/Obligations.lean ====
section
/-! DEFINITION. The statements handed to the provers. Each says what a command, a shared operation or a step does, over every
state, by a rule of spec/. -/

open Sys2Proof Sys2Proof.Machine

/-! ## Steps, resets, pins and time (spec/10) -/

/-- A step takes the command at the front of the queue and runs it with the queue's rest; on an empty queue the part idles,
which is the model's choice (log 5). -/
def Obligations.StepTakesFront : Prop :=
  (∀ (c : Instr) (rest : List Instr) (s : State), s.pending = c :: rest → step s = exec c (s.setPending rest)) ∧
  (∀ s : State, s.pending = [] → step s = .next s)

/-- Camera records, control records, the frame store's accounts, doors, cab and attention after reset (R1, R3, R5, R6, R11,
R17, R24, R47, R61, R63, R64, R67, R71, R75). Screens, splits and layouts after reset, but for the output frame count, which
the first output frame starts raise (R80, R86, R104; log 7); soiling, clips and export (R121, R123, R124, R146, R148, R153,
R162, R163); the link controller after a POWER_ON reset (R175 to R177, R179, R181, R183, R186, R188, R189). -/
def Obligations.ResetState : Prop :=
  (∀ c : Cam,
     State.reset.cam c =
       { setup := { width := 640, height := 480, rate := 25, depth := 3, frameTimeout := 200, recoveryInterval := 2000 },
         state := .off, receive := .waitStart, nextLine := 0, degraded := false, starved := false, damagedRun := 0,
         goodRun := 0, skipRun := 0, sequence := 0, lastPublished := none, lastNumber := none, lastStart := none,
         lastDamage := none, lastResult := none, publishedTotal := 0, damagedTotal := 0, skippedTotal := 0,
         recoveryPending := false, frameTimer := none, recoveryTimer := none, startJob := none, identity := none,
         heaterPresent := 0, largest := none, generation := 0 } ∧
     (State.reset.ctl c).queue = [] ∧ (State.reset.ctl c).inFlight = none ∧ (State.reset.ctl c).attempt = .first ∧
     (State.reset.ctl c).responseTimer = none) ∧
  ((∀ i : SlotNo, (State.reset.slots.slot i).place = .free ∧ (State.reset.slots.slot i).holders.count = 0) ∧
   State.reset.slots.freePool = List.finRange 160 ∧ (∀ c : Cam, State.reset.slots.ring c = none) ∧
   State.reset.slots.deficit = [] ∧ State.reset.slots.retiringCount = 0 ∧ State.reset.slots.holdCount = 0 ∧
   State.reset.slots.holdLimit = 32) ∧
  ((∀ d : Door, State.reset.doors.map[d] =
     { side := if d.val < 6 then .left else .right, rank := if d.val < 6 then d.val else d.val - 6, camera := none,
       alternate := none }) ∧
   (∀ d : Door, State.reset.doors.table[d] = { state := .locked, lastChange := 0 }) ∧
   State.reset.doors.endA = none ∧ State.reset.doors.endB = none ∧ State.reset.doors.fresh = false ∧
   State.reset.doors.period = 1000 ∧ State.reset.doors.timer = none ∧ State.reset.doors.lastTable = none ∧
   State.reset.doors.cab = .none ∧ ∀ c : Cam, State.reset.doors.attention[c] = none) ∧
  ((∀ i : ScreenId, (State.reset.screen i).setup =
       { enable := true, width := 1280, height := 800, rate := 30, holdOver := 3000, freezeLimit := 300, fallback := none,
         showReleased := false } ∧
     (State.reset.screen i).requested = none ∧ (State.reset.screen i).forced = none ∧
     (State.reset.screen i).view = { mode := .unconfigured, layout := none, pattern := none } ∧
     (State.reset.screen i).tiles = [] ∧ (State.reset.screen i).pinned = [] ∧ (State.reset.screen i).frameCount = 0 ∧
     State.reset.split i = { entries := [], pattern := none, outside := [], holdOver := none }) ∧
   ∀ l : LayoutNo, State.reset.layouts[l] = []) ∧
  ((∀ c : Cam, (State.reset.soilOf c).watch = false ∧ (State.reset.soilOf c).heaterAllowed = false ∧
     (State.reset.soilOf c).state = .unwatched ∧ (State.reset.soilOf c).baseline = none ∧
     (State.reset.soilOf c).window.examinations = 0 ∧ (State.reset.soilOf c).learned.examinations = 0 ∧
     (State.reset.soilOf c).learnJob = none ∧ (State.reset.soilOf c).suspectCount = 0 ∧
     (State.reset.soilOf c).cleanCount = 0 ∧ (State.reset.soilOf c).trialCount = 0 ∧
     (State.reset.soilOf c).heaterSpent = false ∧ (State.reset.soilOf c).heaterOffOwed = false ∧
     (State.reset.soilOf c).wasSoiled = false ∧ (State.reset.soilOf c).lastExamined = none ∧
     (State.reset.soilOf c).generationSeen = none ∧ (State.reset.soilOf c).lastScore = none ∧
     (State.reset.soilOf c).lastJudgeable = none ∧ (State.reset.soilOf c).lastHeater = none) ∧
   State.reset.soil.tuning = { window := 4, learn := 8, ratio := 8, zones := 10, confirm := 3, cleanRun := 5, trial := 6 } ∧
   State.reset.soil.engine = none ∧ State.reset.soil.recheck = some 10 ∧ State.reset.soil.rotation = 13 ∧
   State.reset.soil.queue = [] ∧
   State.reset.clips.map = { obstruction := ⟨false, 0, 0⟩, doorFault := ⟨false, 0, 0⟩, soiled := ⟨false, 0, 0⟩ } ∧
   (∀ k : ClipId, State.reset.clip k = none) ∧ State.reset.clips.missed = 0 ∧
   State.reset.exporter = { job := none, half0 := .empty, half1 := .empty }) ∧
  (State.reset.link.receiver.state = .hunt ∧ State.reset.link.receiver.bytes = [] ∧ State.reset.link.buffers = [] ∧
   State.reset.link.reply = none ∧ State.reset.link.resetAsked = false ∧
   (∀ j : JobId, State.reset.link.jobs[j] = .free) ∧ State.reset.link.masked = 0 ∧
   State.reset.link.faults = ⟨0, 0, 0, 0, 0, 0⟩ ∧ State.reset.link.timeBase = 0 ∧ State.reset.link.tx = none ∧
   State.reset.link.report .start =
     { pending := true, count := 1, content := some (.start .powerOn Config.revision State.reset.link.rate) } ∧
   ∀ i : ReportId, i ≠ .start → State.reset.link.report i = { pending := false, count := 0, content := none })

/-- POWER_ON with RESET_N released, RESET_LINE after RESET_N was low, and the boundary that ends the reply to a RESET request
each reset every block (R188, R189). The first output frame of each screen starts in the event of the reset, so its frame count
is 1 after it, which is the model's reading of R83 (log 8); POWER_ON while RESET_N is low resets every block and leaves the part
held, which is its reading of R188 (log 9). -/
def Obligations.ResetsRestore : Prop :=
  ∀ (s : State) (x : Straps),
    (∃ t, exec (.powerOn x) s = .next t ∧ State.AfterReset s t .powerOn (rateOf x) s.pins) ∧
    (s.pins.resetLow = true → ∃ t, exec (.resetLine x) s = .next t ∧
      State.AfterReset s t .resetLine (rateOf x) { s.pins with resetLow := false }) ∧
    (s.pins.resetLow = false → ∀ f, s.link.tx = some f → f.what = .reply true →
      ∃ t, exec (.frameBoundary x) s = .next t ∧ State.AfterReset s t .resetRequest (rateOf x) s.pins)

/-- The straps give the link rate (R173). RESET_N falling holds the part with TX high, and every other value stays as it was,
which is the model's reading (R188; log 9); RDY falling changes the level alone (R185); a millisecond raises the time base by 1,
wrapping (R186), and the model's count of milliseconds with it, and nothing else, since the timers run on that count (log 4).
While RESET_N is low no command but the supplies and the pins changes anything (R188; log 9). -/
def Obligations.PinsClockAndHold : Prop :=
  (rateOf { rate1 := false, rate0 := false } = .mbaud1_5 ∧ rateOf { rate1 := false, rate0 := true } = .mbaud3 ∧
   rateOf { rate1 := true, rate0 := false } = .mbaud6 ∧ rateOf { rate1 := true, rate0 := true } = .mbaud12) ∧
  (∀ s : State,
     exec .resetLineAssert s
       = .next ((s.setPins { s.pins with resetLow := true }).setLink { s.link with tx := none }) ∧
     exec .rdyFall s = .next (s.setPins { s.pins with ready := false }) ∧
     (s.pins.resetLow = false → exec .timeBaseTick s
       = .next ((s.setElapsed (s.elapsed + 1)).setLink { s.link with timeBase := s.link.timeBase + 1 }))) ∧
  ∀ (c : Instr) (s : State), s.pins.resetLow = true → (∀ x, c ≠ .powerOn x) → c ≠ .resetLineAssert →
    (∀ x, c ≠ .resetLine x) → c ≠ .rdyRise → c ≠ .rdyFall → exec c s = .next s

/-! ## The link: reception (spec/10) -/

/-- The table of R175, while no request waits; the arbiter acts after each character (R185). A delimiter after bytes ends the frame: it is checked as
R176 says, the receiver begins a new one, and a whole request is taken as the row of its kind takes it (R177).
GAP_TIMER_EXPIRY is a GAP fault when the gap timer's time has elapsed, and nothing otherwise; that it changes nothing before its
time is the model's choice (log 4). -/
def Obligations.ReceiverTable : Prop :=
  (∀ (s : State) (b : Byte) (stop : Bool), s.Unasked →
     (s.link.receiver.state = .hunt → ¬(stop = true ∧ b = 0x5A#8) → exec (.rxCharacter b stop) s = .next s.sendIfDue) ∧
     (s.link.receiver.state = .hunt → stop = true → b = 0x5A#8 →
       exec (.rxCharacter b stop) s = .next (s.setLink { s.link with receiver := ⟨.collect, [], none⟩ }).sendIfDue) ∧
     (s.link.receiver.state = .collect → s.link.receiver.bytes = [] → stop = false ∨ b = 0x5A#8 →
       exec (.rxCharacter b stop) s = .next s.sendIfDue) ∧
     (s.link.receiver.state = .collect → stop = true → b = 0x5B#8 → exec (.rxCharacter b stop) s
       = .next (s.setLink { s.link with receiver := ⟨.escaped, s.link.receiver.bytes, some (s.elapsed + 2)⟩ }).sendIfDue) ∧
     (s.link.receiver.state = .collect → stop = true → b ≠ 0x5A#8 → b ≠ 0x5B#8 → s.link.receiver.bytes.length < 1046 →
       exec (.rxCharacter b stop) s = .next (s.setLink
         { s.link with receiver := ⟨.collect, s.link.receiver.bytes ++ [b], some (s.elapsed + 2)⟩ }).sendIfDue) ∧
     (s.link.receiver.state = .escaped → stop = true → b ≠ 0x5A#8 → s.link.receiver.bytes.length < 1046 →
       exec (.rxCharacter b stop) s = .next (s.setLink
         { s.link with receiver := ⟨.collect, s.link.receiver.bytes ++ [b ^^^ 0x20#8], some (s.elapsed + 2)⟩ }).sendIfDue) ∧
     ((s.link.receiver.state = .collect ∧ s.link.receiver.bytes ≠ []) ∨ s.link.receiver.state = .escaped → stop = false →
       exec (.rxCharacter b stop) s = .next (s.setLink
         ({ s.link with receiver := ⟨.hunt, [], none⟩ }.receptionFault .format s.link.receiver.bytes)).sendIfDue) ∧
     (s.link.receiver.state = .escaped → stop = true → b = 0x5A#8 →
       exec (.rxCharacter b stop) s = .next (s.setLink
         ({ s.link with receiver := ⟨.collect, [], none⟩ }.receptionFault .format s.link.receiver.bytes)).sendIfDue) ∧
     (s.link.receiver.state = .collect → stop = true → b ≠ 0x5A#8 → b ≠ 0x5B#8 → 1046 ≤ s.link.receiver.bytes.length →
       exec (.rxCharacter b stop) s = .next (s.setLink
         ({ s.link with receiver := ⟨.hunt, [], none⟩ }.receptionFault .oversize (s.link.receiver.bytes ++ [b]))).sendIfDue) ∧
     (s.link.receiver.state = .escaped → stop = true → b ≠ 0x5A#8 → 1046 ≤ s.link.receiver.bytes.length →
       exec (.rxCharacter b stop) s = .next (s.setLink
         ({ s.link with receiver := ⟨.hunt, [], none⟩ }.receptionFault .oversize
           (s.link.receiver.bytes ++ [b ^^^ 0x20#8]))).sendIfDue) ∧
     (s.link.receiver.state = .collect → s.link.receiver.bytes ≠ [] → stop = true → b = 0x5A#8 →
       let checked := { s.link with receiver := ⟨.collect, [], none⟩ }.frameEnds s.link.receiver.bytes
       checked.buffers = [] ∨ s.link.resetAsked = true ∨
         (s.link.reply.isSome = true ∧ (s.link.tx.isSome = true ∨ s.pins.ready = false)) →
       exec (.rxCharacter b stop) s = .next (s.setLink checked).sendIfDue)) ∧
  (∀ (s : State) (kind tag : Byte) (body : List Byte), s.pins.resetLow = false → body.length ≤ 1040 →
     s.link.receiver.state = .collect →
     let head := kind :: tag :: (bytes2 body.length ++ body)
     s.link.receiver.bytes = head ++ bytes2 (crc16 head).toNat →
     let opened := s.setLink { s.link with receiver := ⟨.collect, [], none⟩ }
     (∀ k, kind = kindCode k → exec (.rxCharacter 0x5A#8 true) s = exec (requestOfKind k tag body) opened) ∧
     (kindOfCode kind = none → exec (.rxCharacter 0x5A#8 true) s = exec (.unknownKindRequest kind tag body) opened)) ∧
  (∀ s : State, s.Unasked →
     ((∃ d, s.link.receiver.gap = some d ∧ d ≤ s.elapsed) → exec .gapTimerExpiry s = .next (s.setLink
       ({ s.link with receiver := ⟨.hunt, [], none⟩ }.receptionFault .gap s.link.receiver.bytes)).sendIfDue) ∧
     ((∀ d, s.link.receiver.gap = some d → s.elapsed < d) → exec .gapTimerExpiry s = .next s.sendIfDue))

/-- The four checks of a decoded frame, in order; a reception fault raises the total of its kind, saturating at 65535, and the
LINK_FAULT entry with the tag, the time and the totals, the other totals unchanged (R176). -/
def Obligations.ReceptionFaults : Prop :=
  (∀ (l : LinkController) (bytes : List Byte),
     (bytes.length < 6 → l.frameEnds bytes = l.receptionFault .format bytes) ∧
     (6 ≤ bytes.length → (crc16 (bytes.take (bytes.length - 2))).toNat ≠ field2 bytes (bytes.length - 2) →
       l.frameEnds bytes = l.receptionFault .crc bytes) ∧
     (6 ≤ bytes.length → (crc16 (bytes.take (bytes.length - 2))).toNat = field2 bytes (bytes.length - 2) →
       field2 bytes 2 ≠ bytes.length - 6 → l.frameEnds bytes = l.receptionFault .length bytes) ∧
     (6 ≤ bytes.length → (crc16 (bytes.take (bytes.length - 2))).toNat = field2 bytes (bytes.length - 2) →
       field2 bytes 2 = bytes.length - 6 → 2 ≤ l.buffers.length → l.frameEnds bytes = l.receptionFault .overrun bytes) ∧
     (6 ≤ bytes.length → (crc16 (bytes.take (bytes.length - 2))).toNat = field2 bytes (bytes.length - 2) →
       field2 bytes 2 = bytes.length - 6 → l.buffers.length < 2 → l.frameEnds bytes = { l with buffers := l.buffers ++
         [{ kind := bytes.getD 0 0, tag := bytes.getD 1 0, body := (bytes.drop 4).take (bytes.length - 6) }] })) ∧
  (∀ (l : LinkController) (bytes : List Byte),
     let up := fun n : Nat => if n < 65535 then n + 1 else n
     let after := fun (kind : LinkFaultKind) (t : FaultTotals) =>
       { l with faults := t }.raise .linkFault (.linkFault kind bytes[1]? l.timeBase t)
     l.receptionFault .format bytes = after .format { l.faults with format := up l.faults.format } ∧
     l.receptionFault .crc bytes = after .crc { l.faults with crc := up l.faults.crc } ∧
     l.receptionFault .length bytes = after .length { l.faults with length := up l.faults.length } ∧
     l.receptionFault .oversize bytes = after .oversize { l.faults with oversize := up l.faults.oversize } ∧
     l.receptionFault .gap bytes = after .gap { l.faults with gap := up l.faults.gap } ∧
     l.receptionFault .overrun bytes = after .overrun { l.faults with overrun := up l.faults.overrun })

/-- The ten bits of a character: a low start bit, eight data bits with the least significant first, a stop bit, no parity; a
received character is the byte of its data bits with the level of its stop bit. TX is high while nothing is sent, between characters
and while the part is held in reset, and else carries the bits of the frame in transmission, character after character (R173, R188;
which of them is on the line at a moment is timing, log 31). Every message a link frame can carry, put on the wire and received character by character from HUNT, or from COLLECT with
no bytes, comes to the buffers as it was sent, whatever the moments of its characters (R174 to R177). -/
def Obligations.WireRoundTrip : Prop :=
  (∀ b : Byte, characterBits b = [false, b.getLsbD 0, b.getLsbD 1, b.getLsbD 2, b.getLsbD 3, b.getLsbD 4, b.getLsbD 5, b.getLsbD 6,
    b.getLsbD 7, true]) ∧
  (∀ (b : Byte) (stop : Bool), readCharacter [false, b.getLsbD 0, b.getLsbD 1, b.getLsbD 2, b.getLsbD 3, b.getLsbD 4, b.getLsbD 5,
    b.getLsbD 6, b.getLsbD 7, stop] = some (b, stop)) ∧
  (∀ levels : List Bool, (levels.length ≠ 10 ∨ levels.head? = some true) → readCharacter levels = none) ∧
  (∀ s : State, s.txLevel none = true ∧ ∀ n,
    (s.pins.resetLow = true ∨ s.link.tx = none → s.txLevel (some n) = true) ∧
    ∀ f before b after k, s.pins.resetLow = false → s.link.tx = some f →
      wireFrame f.kind f.tag f.body = before ++ b :: after → k < 10 → n = 10 * before.length + k →
      some (s.txLevel (some n)) = (characterBits b)[k]?) ∧
  (LinkRate.mbaud1_5.baud = 1500000 ∧ LinkRate.mbaud3.baud = 3000000 ∧ LinkRate.mbaud6.baud = 6000000 ∧
    LinkRate.mbaud12.baud = 12000000) ∧
  ∀ (l : LinkController) (kind tag : Byte) (body : List Byte) (gaps : List Timer),
    body.length ≤ 1040 → l.buffers.length < 2 →
    l.receiver.state = .hunt ∨ (l.receiver.state = .collect ∧ l.receiver.bytes = []) →
    gaps.length = (wireFrame kind tag body).length →
    ((wireFrame kind tag body).zip gaps).foldl (fun l p => l.character p.1 true p.2) l
      = { l with receiver := ⟨.collect, [], none⟩, buffers := l.buffers ++ [{ kind := kind, tag := tag, body := body }] }

/-- While the reply slot is occupied or a RESET request waits, and no frame can begin, a request that arrives is stored at the
tail, or lost with OVERRUN when both buffers are full (R177). The reply of a request enters the reply slot, and goes to the
transmitter at once if it is idle and RDY is high (R178, R185). A request of a kind that is not listed is answered UNKNOWN_KIND
with reply kind 80h, and one of a listed kind with an illegal body length BAD_LENGTH; neither changes any other state (R178,
R193). The kinds with their codes and fixed lengths are those of section 11.3; a body with a list is legal only when it ends with
the last item that its count and label counts call for (R193). -/
def Obligations.RequestsAndReplies : Prop :=
  ((∀ (s : State) (k : RequestKind) (tag : Byte) (body : List Byte), s.pins.resetLow = false → body.length ≤ 1040 →
      s.link.reply.isSome = true ∨ s.link.resetAsked = true → s.link.tx.isSome = true ∨ s.pins.ready = false →
      (s.link.buffers.length < 2 → exec (requestOfKind k tag body) s = .next (s.setLink
        { s.link with buffers := s.link.buffers ++ [{ kind := kindCode k, tag := tag, body := body }] })) ∧
      (2 ≤ s.link.buffers.length → exec (requestOfKind k tag body) s = .next (s.setLink
        (s.link.receptionFault .overrun [kindCode k, tag])))) ∧
   (∀ (s : State) (k : RequestKind) (tag : Byte) (a : Answer), s.link.reply = none → a ≠ .unknownKind →
      (s.link.tx.isSome = true ∨ s.pins.ready = false → s.replied k tag a = s.setLink { s.link with
        reply := some { kind := kindCode k + 0x80#8, tag := tag, body := a.bytes, ofReset := k == .reset } }) ∧
      (s.link.tx = none → s.pins.ready = true → s.replied k tag a = s.setLink { s.link with
        tx := some { what := .reply (k == .reset), kind := kindCode k + 0x80#8, tag := tag, body := a.bytes } }))) ∧
  (∀ (s : State) (tag : Byte) (body : List Byte), s.TakesRequest → body.length ≤ 1040 →
     (∀ kind : Byte, kindOfCode kind = none → exec (.unknownKindRequest kind tag body) s = .next
       (s.setLink { s.link with reply := some { kind := 0x80#8, tag := tag, body := [0x02#8], ofReset := false } }).sendIfDue) ∧
     (∀ k : RequestKind, legalLength k body = false → exec (requestOfKind k tag body) s = .next
       (s.setLink { s.link with
         reply := some { kind := kindCode k + 0x80#8, tag := tag, body := [0x03#8], ofReset := false } }).sendIfDue)) ∧
  (∀ (k : RequestKind) (code : Byte), kindOfCode code = some k ↔ kindCode k = code) ∧
  (∀ (k : RequestKind) (code : Byte) (length : Nat),
     (k, code, length) ∈ ([
       (.partInfo, 0x01, 0), (.linkQuery, 0x02, 0), (.timeSet, 0x04, 4), (.reset, 0x05, 0), (.slotQuery, 0x08, 1),
       (.holdLimitSet, 0x09, 1), (.cameraSetup, 0x10, 11), (.cameraStart, 0x11, 1), (.cameraStop, 0x12, 1),
       (.cameraQuery, 0x13, 1), (.cameraCommand, 0x14, 3), (.doorMap, 0x18, 48), (.endMap, 0x19, 2)] ++ [
       (.doorTable, 0x1A, 12), (.doorChange, 0x1B, 2), (.doorFreshnessSet, 0x1C, 2), (.cabSet, 0x1D, 1),
       (.doorQuery, 0x1E, 0), (.screenSetup, 0x20, 13), (.layoutSelect, 0x22, 2), (.layoutForce, 0x23, 2),
       (.screenQuery, 0x24, 1), (.layoutQuery, 0x25, 1), (.soilSetup, 0x28, 3), (.soilTune, 0x29, 7)] ++ [
       (.soilLearn, 0x2A, 1), (.soilQuery, 0x2C, 1), (.triggerMapSet, 0x30, 9), (.clipRelease, 0x32, 1),
       (.clipQuery, 0x33, 1), (.exportClip, 0x34, 5), (.exportAbort, 0x35, 0)] : List (RequestKind × Byte × Nat)) →
     kindCode k = code ∧ ∀ body : List Byte, legalLength k body = true ↔ body.length = length) ∧
  kindCode .reportMask = 0x03#8 ∧ kindCode .layoutWrite = 0x21#8 ∧ kindCode .washDone = 0x2B#8 ∧ kindCode .clipTake = 0x31#8 ∧
  ∀ body : List Byte,
    (∀ k, k = .reportMask ∨ k = .washDone →
      (legalLength k body = true ↔ ∃ count items, body = count :: items ∧ items.length = count.toNat)) ∧
    (legalLength .clipTake body = true ↔ ∃ count rest, body = count :: rest ∧ rest.length = count.toNat + 1) ∧
    (legalLength .layoutWrite body = true ↔ ∃ (layout : Byte) (tiles : List (List Byte × List Byte)), tiles.length < 256 ∧
      (∀ t ∈ tiles, t.1.length = 10 ∧ t.2.length < 256) ∧
      body = layout :: byteOf tiles.length :: tiles.flatMap fun t => t.1 ++ byteOf t.2.length :: t.2)

/-! ## The link: replies, reports and jobs (spec/10) -/

/-- A raise makes an entry pending with one more change and overwrites its content whole; a withdrawal clears it, and one of
an entry that is not pending changes nothing; the entry the arbiter chooses is copied into the frame and cleared in the same
event (R182). -/
def Obligations.RaiseAndWithdraw : Prop :=
  (∀ (l : LinkController) (i j : ReportId) (x : ReportContent),
    let once := if (l.report i).count < 255 then (l.report i).count + 1 else (l.report i).count
    (l.raise i x).report i = ReportEntry.mk true (if (l.report i).pending then once else 1) (some x) ∧
    (j ≠ i → (l.raise i x).report j = l.report j ∧ (l.withdraw i).report j = l.report j) ∧
    ((l.report i).pending = true → ((l.withdraw i).report i).pending = false ∧ ((l.withdraw i).report i).count = 0) ∧
    ((l.report i).pending = false → l.withdraw i = l)) ∧
  ∀ (s : State) (i : ReportId) (x : ReportContent), s.link.tx = none → s.pins.ready = true → s.link.reply = none →
    s.link.nextReport = some i → (s.link.report i).content = some x →
    s.sendIfDue.link.tx = some ⟨.report i, byteOf (0x40 + i.cls), 0,
      byteOf i.source :: byteOf (s.link.report i).count :: x.bytes⟩ ∧
    (s.sendIfDue.link.report i).pending = false ∧ (s.sendIfDue.link.report i).count = 0

/-- The next report chosen is pending and not masked, of the lowest class and within it the lowest source; none is chosen only
when none is sendable (R183). What the arbiter does at a decision point: nothing while a frame is sent or RDY is low; else it takes
the reply, else the next sendable report, else the FULL half of lower block sequence as a DATA message, which becomes SENDING and
takes the engine from WAITING to READING with the stall timer stopped, else nothing (R168, R182, R185). RDY_RISE while no request can
be decoded is such a point (R184); so is the end of every event, as the statements of the events say, a report that becomes sendable
and a block offered at FILL_END among them (R184; log 3). When the reply leaves the reply slot, the head of the waiting requests is
decoded in the same event, as it would be at its arrival (R177, R185; log 3). -/
def Obligations.Arbiter : Prop :=
  (∀ l : LinkController,
     (∀ i, l.nextReport = some i → (l.report i).pending = true ∧ l.masked.getLsbD i.cls = false ∧
       ∀ j : ReportId, (l.report j).pending = true → l.masked.getLsbD j.cls = false →
         i.cls < j.cls ∨ (i.cls = j.cls ∧ i.source ≤ j.source)) ∧
     (l.nextReport = none → ∀ j : ReportId, (l.report j).pending = false ∨ l.masked.getLsbD j.cls = true)) ∧
  (∀ s : State, s.pins.resetLow = false → s.link.buffers = [] ∨ s.link.resetAsked = true →
     exec .rdyRise s = .next (s.setPins { s.pins with ready := true }).sendIfDue) ∧
  (∀ s : State,
     (s.link.tx.isSome = true ∨ s.pins.ready = false → s.sendIfDue = s) ∧
     (s.link.tx = none → s.pins.ready = true →
       (∀ r, s.link.reply = some r → s.sendIfDue = s.setLink
         { s.link with reply := none, tx := some ⟨.reply r.ofReset, r.kind, r.tag, r.body⟩ }) ∧
       (∀ i, s.link.reply = none → s.link.nextReport = some i → s.sendIfDue = s.setLink
         { s.link.setReport i { s.link.report i with pending := false, count := 0 } with
           tx := some ⟨.report i, byteOf (0x40 + i.cls), 0, reportBody i (s.link.report i)⟩ }) ∧
       (∀ r b, s.link.reply = none → s.link.nextReport = none → s.exporter.job = some r →
         let started := s.setLink { s.link with tx := some ⟨.data, 0x60#8, 0, dataBody r.clip b⟩ }
         let taking := if r.phase = .waiting then { r with phase := .reading, stall := none } else r
         (s.exporter.half0 = .full b → (∀ x, s.exporter.half1 = .full x → b.sequence < x.sequence) →
           s.sendIfDue = started.setExporter ⟨some taking, .sending b, s.exporter.half1⟩) ∧
         (s.exporter.half1 = .full b → (∀ x, s.exporter.half0 = .full x → b.sequence < x.sequence) →
           s.sendIfDue = started.setExporter ⟨some taking, s.exporter.half0, .sending b⟩)) ∧
       (s.link.reply = none → s.link.nextReport = none →
         s.exporter.job = none ∨ (∀ b, s.exporter.half0 ≠ .full b ∧ s.exporter.half1 ≠ .full b) → s.sendIfDue = s))) ∧
  (∀ (s : State) (r : Reply) (q : Request) (rest : List Request), s.pins.resetLow = false → s.link.tx = none →
     s.link.reply = some r → s.link.resetAsked = false → s.link.buffers = q :: rest →
     exec .rdyRise s = .next (((s.setPins { s.pins with ready := true }).setLink
       { s.link with reply := none, tx := some ⟨.reply r.ofReset, r.kind, r.tag, r.body⟩, buffers := rest }).decode q)) ∧
  ∀ (s : State) (k : RequestKind) (tag : Byte) (body : List Byte), s.TakesRequest → body.length ≤ 1040 →
    s.link.tx.isSome = true ∨ s.pins.ready = false →
    exec (requestOfKind k tag body) s = .next (s.decode ⟨kindCode k, tag, body⟩)

/-- A job takes the FREE entry of lowest id; its end makes the entry DONE_UNSENT and raises JOB_DONE; a job that is not RUNNING
is not ended (R179, R180). -/
def Obligations.JobTable : Prop :=
  (∀ (l : LinkController) (j : JobId), l.freeJob = some j →
    l.jobs[j] = .free ∧ (∀ k : JobId, k < j → l.jobs[k] ≠ .free) ∧
    ∀ info, (l.openJob j info).jobs[j] = .running info) ∧
  (∀ l : LinkController, l.freeJob = none → ∀ j : JobId, l.jobs[j] ≠ .free) ∧
  (∀ (l : LinkController) (j : JobId) (info : JobInfo) (x : JobResult) (d : List Byte), l.jobs[j] = .running info →
    (l.endJob j x d).jobs[j] = .doneUnsent info ∧
    ((l.endJob j x d).report (.jobDone j)).pending = true ∧
    ((l.endJob j x d).report (.jobDone j)).content = some (.jobDone j info x d l.timeBase)) ∧
  ∀ (l : LinkController) (j : JobId) (x : JobResult) (d : List Byte), (∀ info, l.jobs[j] ≠ .running info) →
    l.endJob j x d = l

/-- FRAME_BOUNDARY while RDY is low and no request waits, or those that wait stand behind an occupied reply slot or a RESET: the
transmitter becomes idle; the end of a JOB_DONE report frees its
job entry; the end of a DATA message is the export engine's transmission end (R168, R180, R184, R185). A boundary with nothing in
transmission is the model's own case (log 32): it changes nothing. While RDY is high the next frame begins in the same event, and
a waiting request is decoded when the reply slot empties: what follows is what RDY_RISE gives, the transmitter being idle
(R177, R185). -/
def Obligations.FrameBoundary : Prop :=
  (∀ (s : State) (x : Straps), s.pins.resetLow = false → s.pins.ready = false →
     s.link.buffers = [] ∨ s.link.reply.isSome = true ∨ s.link.resetAsked = true →
     (s.link.tx = none → exec (.frameBoundary x) s = .next s) ∧
     (∀ f, s.link.tx = some f → f.what = .reply false →
       exec (.frameBoundary x) s = .next (s.setLink { s.link with tx := none })) ∧
     (∀ f j info, s.link.tx = some f → f.what = .report (.jobDone j) → s.link.jobs[j] = .doneUnsent info →
       exec (.frameBoundary x) s = .next (s.setLink
         { s.link with tx := none, jobs := s.link.jobs.set j.val .free j.isLt })) ∧
     (∀ f i, s.link.tx = some f → f.what = .report i → (∀ j, i ≠ .jobDone j) →
       exec (.frameBoundary x) s = .next (s.setLink { s.link with tx := none })) ∧
     (∀ f, s.link.tx = some f → f.what = .data →
       exec (.frameBoundary x) s = .next (s.setLink { s.link with tx := none }).transmissionEnds)) ∧
  ∀ (s : State) (x : Straps) (f : TxFrame), s.pins.resetLow = false → s.pins.ready = true → s.link.tx = some f →
    let idle := s.setLink { s.link with tx := none }
    (f.what = .reply false → exec (.frameBoundary x) s = exec .rdyRise idle) ∧
    (∀ j info, f.what = .report (.jobDone j) → s.link.jobs[j] = .doneUnsent info → exec (.frameBoundary x) s = exec .rdyRise
      (s.setLink { s.link with tx := none, jobs := s.link.jobs.set j.val .free j.isLt })) ∧
    (∀ i, f.what = .report i → (∀ j, i ≠ .jobDone j) → exec (.frameBoundary x) s = exec .rdyRise idle) ∧
    (f.what = .data → exec (.frameBoundary x) s = exec .rdyRise idle.transmissionEnds)

/-- The queries answer from the state as it stands and change nothing but the link's reply (R22, R26, R78, R102, R144, R160,
R187); PART_INFO names the family, the part number, the revision, the link rate and the seven counts (R187). The bytes of the
replies: the counts of SLOT_QUERY, for every camera and whole, and the number of the slot it names; the settings, the start generation, the ring
size and the deficit entries of CAMERA_QUERY; the pending flags and counts of the reports, masks, fault totals, waiting requests
and time base of LINK_QUERY; the door map and the end map of DOOR_QUERY; the requested and forced layouts of SCREEN_QUERY; LAYOUT_QUERY
whole, its tile list and the sets of screens that hold the layout as requested, forced and fallback; the watch and the tuning of
SOIL_QUERY, and the id, the trigger map and the hold count of CLIP_QUERY (section 11.4; the layout of some is log 19). -/
def Obligations.QueriesChangeNothing : Prop :=
  (∀ (s : State) (tag n : Byte), s.TakesRequest →
     exec (.linkQuery tag []) s = .next (s.replied .linkQuery tag (.ok s.link.linkQuery)) ∧
     exec (.doorQuery tag []) s = .next (s.replied .doorQuery tag (.ok s.doorQuery)) ∧
     (∀ i : SlotNo, n.toNat = i.val →
       exec (.slotQuery tag [n]) s = .next (s.replied .slotQuery tag (.ok (s.slotQuery (some i))))) ∧
     (n = 0xFF#8 → exec (.slotQuery tag [n]) s = .next (s.replied .slotQuery tag (.ok (s.slotQuery none)))) ∧
     (160 ≤ n.toNat → n ≠ 0xFF#8 → exec (.slotQuery tag [n]) s = .next (s.replied .slotQuery tag (.badField 0))) ∧
     (∀ c : Cam, n.toNat = c.val →
       exec (.cameraQuery tag [n]) s = .next (s.replied .cameraQuery tag (.ok (s.cameraQuery c))) ∧
       exec (.soilQuery tag [n]) s = .next (s.replied .soilQuery tag (.ok (s.soilQuery c)))) ∧
     (13 < n.toNat → exec (.cameraQuery tag [n]) s = .next (s.replied .cameraQuery tag (.badField 0)) ∧
       exec (.soilQuery tag [n]) s = .next (s.replied .soilQuery tag (.badField 0))) ∧
     (n = 0#8 → exec (.screenQuery tag [n]) s = .next (s.replied .screenQuery tag (.ok (s.screenQuery .a)))) ∧
     (n = 1#8 → exec (.screenQuery tag [n]) s = .next (s.replied .screenQuery tag (.ok (s.screenQuery .b)))) ∧
     (1 < n.toNat → exec (.screenQuery tag [n]) s = .next (s.replied .screenQuery tag (.badField 0))) ∧
     (∀ l : LayoutNo, n.toNat = l.val →
       exec (.layoutQuery tag [n]) s = .next (s.replied .layoutQuery tag (.ok (s.layoutQuery l)))) ∧
     (15 < n.toNat → exec (.layoutQuery tag [n]) s = .next (s.replied .layoutQuery tag (.badField 0))) ∧
     (∀ k : ClipId, n.toNat = k.val →
       exec (.clipQuery tag [n]) s = .next (s.replied .clipQuery tag (.ok (s.clipQuery k)))) ∧
     (7 < n.toNat → exec (.clipQuery tag [n]) s = .next (s.replied .clipQuery tag (.badField 0)))) ∧
  (∀ s : State,
     let counts := [byteOf s.slots.freePool.length] ++
       ((List.finRange 14).flatMap fun c : Cam =>
         [byteOf (s.slots.ring c).isSome.toNat, byteOf (s.cam c).setup.depth, byteOf (s.slots.ringSize c),
          byteOf (s.slots.deficit.count c)]) ++
       [byteOf s.slots.retiringCount, byteOf s.slots.holdCount, byteOf s.slots.holdLimit]
     s.slotQuery none = counts ∧
     (∀ i : SlotNo, ∃ more, s.slotQuery (some i) = counts ++ byteOf i.val :: more) ∧
     (∀ c r, s.slots.ring c = some r →
       s.slots.ringSize c = r.ready.length + r.blank.length + (if r.filling = none then 0 else 1)) ∧
     ∀ c, s.slots.ring c = none → s.slots.ringSize c = 0) ∧
  (∀ (s : State) (c : Cam), ∃ middle,
     let r := s.cam c
     s.cameraQuery c = bytes2 r.setup.width ++ bytes2 r.setup.height ++ [byteOf r.setup.rate, byteOf r.setup.depth] ++
       bytes2 r.setup.frameTimeout ++ bytes2 r.setup.recoveryInterval ++ middle ++ bytes2 r.generation.toNat ++
       [byteOf (s.slots.ringSize c), byteOf (s.slots.deficit.count c)]) ∧
  (∀ l : LinkController, ∃ jobs, l.linkQuery = jobs ++
     (l.reports.toList.flatMap fun e => [byteOf e.pending.toNat, byteOf e.count]) ++ [l.masked] ++
     bytes2 l.faults.format ++ bytes2 l.faults.crc ++ bytes2 l.faults.length ++ bytes2 l.faults.oversize ++
     bytes2 l.faults.gap ++ bytes2 l.faults.overrun ++ [byteOf l.buffers.length] ++ bytes4 l.timeBase.toNat) ∧
  (∀ s : State,
     let camera := fun c : Option Cam => (match c with | none => 0xFF#8 | some c => byteOf c.val)
     let layout := fun l : Option LayoutNo => (match l with | none => 0xFF#8 | some l => byteOf l.val)
     (∃ table, s.doorQuery = (s.doors.map.toList.flatMap fun r =>
         [match r.side with | .left => 0x00#8 | .right => 0x01#8, byteOf r.rank, camera r.camera, camera r.alternate]) ++
       [camera s.doors.endA, camera s.doors.endB] ++ table) ∧
     (∀ i, ∃ setup more, setup.length = 12 ∧
       s.screenQuery i = setup ++ layout (s.screen i).requested :: layout (s.screen i).forced :: more) ∧
     (∀ l : LayoutNo,
       let source := fun x : TileSource => (match x with
         | .camera c => byteOf c.val | .front => 0x40#8 | .rear => 0x41#8 | .blank => 0x42#8)
       let tile := fun t : TileRecord => bytes2 t.rect.x ++ bytes2 t.rect.y ++ bytes2 t.rect.w ++ bytes2 t.rect.h ++
         [source t.source, camera t.alternate, byteOf t.label.length] ++ t.label
       let screens := fun held : ScreenRecord → Option LayoutNo =>
         byteOf ((if held (s.screen .a) = some l then 1 else 0) + (if held (s.screen .b) = some l then 2 else 0))
       s.layoutQuery l = byteOf s.layouts[l].length :: (s.layouts[l].flatMap tile ++
         [screens (·.requested), screens (·.forced), screens (·.setup.fallback)])) ∧
     (∀ c : Cam, ∃ middle engine, s.soilQuery c = byteOf (s.soilOf c).watch.toNat :: (middle ++
       [byteOf s.soil.tuning.window, byteOf s.soil.tuning.learn, byteOf s.soil.tuning.ratio, byteOf s.soil.tuning.zones,
        byteOf s.soil.tuning.confirm, byteOf s.soil.tuning.cleanRun, byteOf s.soil.tuning.trial] ++ engine) ∧
       engine.length = 7) ∧
     ∀ k : ClipId, ∃ middle, (s.clip k = none → middle = [0x00#8]) ∧
       let entry := fun e : TriggerSetting => [byteOf e.clip.toNat, byteOf e.pre, byteOf e.post]
       s.clipQuery k = byteOf k.val :: (middle ++ entry s.clips.map.obstruction ++ entry s.clips.map.doorFault ++
         entry s.clips.map.soiled ++ bytes2 s.clips.missed ++ [byteOf s.slots.holdCount, byteOf s.slots.holdLimit])) ∧
  (∀ (s : State) (tag : Byte), s.TakesRequest →
     exec (.partInfo tag []) s = .next (s.replied .partInfo tag (.ok
       ([0x4C, 0x61, 0x62, 0x72, 0x69, 0x6F, 0x05, 0x8E, Config.revision,
         match s.link.rate with | .mbaud1_5 => 0 | .mbaud3 => 1 | .mbaud6 => 2 | .mbaud12 => 3,
         14, 2, 0, 160, 12, 8, 8, 16]))))

/-- REPORT_MASK (R183; that the first refused field is named is log 27), TIME_SET and RESET (R186, R188). A list of classes is carried with its count. -/
def Obligations.LinkSettings : Prop :=
  ∀ (s : State) (tag : Byte), s.TakesRequest →
    (∀ classes : List Byte, classes.length ≤ 6 → (∀ b ∈ classes, b.toNat ∈ [1, 2, 3, 4, 6, 7]) →
      ∃ m : Byte, (∀ n, n < 8 → (m.getLsbD n = true ↔ byteOf n ∈ classes)) ∧
        exec (.reportMask tag (byteOf classes.length :: classes)) s
          = .next ((s.setLink { s.link with masked := m }).replied .reportMask tag (.ok []))) ∧
    (∀ classes : List Byte, 6 < classes.length → classes.length < 256 →
      exec (.reportMask tag (byteOf classes.length :: classes)) s
        = .next (s.replied .reportMask tag (.badField 0))) ∧
    (∀ (classes rest : List Byte) (b : Byte), classes.length + 1 + rest.length ≤ 6 →
      (∀ x ∈ classes, x.toNat ∈ [1, 2, 3, 4, 6, 7]) → b.toNat ∉ [1, 2, 3, 4, 6, 7] →
      exec (.reportMask tag (byteOf (classes.length + 1 + rest.length) :: (classes ++ b :: rest))) s
        = .next (s.replied .reportMask tag (.badField (classes.length + 1)))) ∧
    (∀ b3 b2 b1 b0 : Byte, exec (.timeSet tag [b3, b2, b1, b0]) s = .next
      ((s.setLink { s.link with timeBase := b3 ++ b2 ++ b1 ++ b0 }).replied .timeSet tag
        (.ok (bytes4 s.link.timeBase.toNat)))) ∧
    exec (.reset tag []) s
      = .next ((s.setLink { s.link with resetAsked := true }).replied .reset tag (.ok []))

/-! ## The frame store and the slot manager (spec/01) -/

/-- A discard makes the FILLING slot BLANK at the tail of the BLANK list; without a FILLING slot or a ring it changes nothing
(R8). A take, after the discard of a FILLING slot, chooses the earliest-joined BLANK slot, else the oldest READY slot that is not
the newest and carries no pin and no claim, else none; a camera without a ring gets none (R9). -/
def Obligations.DiscardAndTake : Prop :=
  (∀ (m : SlotManager) (c : Cam),
     (m.ring c = none → m.discard c = m) ∧
     (∀ r, m.ring c = some r → r.filling = none → m.discard c = m) ∧
     ∀ r i, m.ring c = some r → r.filling = some i →
       m.discard c = (m.setSlot i ⟨.blank c, ⟨false, false, false⟩⟩).setRing c
         (some { ready := r.ready, blank := r.blank ++ [i], filling := none })) ∧
  (∀ (m : SlotManager) (c : Cam) (f : FrameFields),
     let n := m.discard c
     let busy := fun i : SlotNo => 0 < (n.slot i).holders.count ∨ n.claimOf i ≠ none
     let filled := fun (i : SlotNo) (ready blank : List SlotNo) =>
       (n.setSlot i ⟨.filling c f, ⟨false, false, false⟩⟩).setRing c (some { ready := ready, blank := blank, filling := some i })
     (m.ring c = none → m.take c f = (m, none)) ∧
     (∀ r i rest, n.ring c = some r → r.blank = i :: rest → m.take c f = (filled i r.ready rest, some i)) ∧
     (∀ r older i newer, n.ring c = some r → r.blank = [] → r.ready = older ++ i :: newer → newer ≠ [] →
       (∀ j ∈ older, busy j) → ¬ busy i → m.take c f = (filled i (older ++ newer) [], some i)) ∧
     (∀ r, n.ring c = some r → r.blank = [] → (∀ j ∈ r.ready.dropLast, busy j) → m.take c f = (n, none)))

/-- A pin goes to the newest READY slot and adds the reader to its holders; an unpin removes it, is ignored where the reader
holds no pin, and returns a retiring slot whose count reaches 0; a pin count is at most 3 (R10, R12). -/
def Obligations.Pins : Prop :=
  (∀ (m : SlotManager) (c : Cam) (x : Reader),
    (m.ring c = none → m.pinNewest c x = (m, none)) ∧
    (∀ r, m.ring c = some r → r.ready = [] → m.pinNewest c x = (m, none)) ∧
    ∀ r older i, m.ring c = some r → r.ready = older ++ [i] →
      m.pinNewest c x = (m.setSlot i ⟨(m.slot i).place, (m.slot i).holders.set x true⟩, some i)) ∧
  (∀ (m : SlotManager) (i : SlotNo) (x : Reader),
    let removed := m.setSlot i ⟨(m.slot i).place, (m.slot i).holders.set x false⟩
    ((m.slot i).holders.has x = false → m.unpin i x = m) ∧
    ((m.slot i).holders.has x = true → (∀ c f, (m.slot i).place ≠ .retiring c f) → m.unpin i x = removed) ∧
    ∀ c f, (m.slot i).holders.has x = true → (m.slot i).place = .retiring c f →
      m.unpin i x = if (m.slot i).holders.count = 1 then removed.giveBack i else removed) ∧
  ∀ (h : Holders) (x y : Reader) (v : Bool),
    (h.set x v).has y = (if y = x then v else h.has y) ∧ h.count ≤ 3 ∧
    (h.has x = false → (h.set x true).count = h.count + 1) ∧ (h.has x = true → (h.set x true) = h)

/-- A slot that returns joins the tail of the BLANK list of the ring at the head of the deficit queue, or of the free pool (R4). A
ring is established from the head of the free pool, or answered NO_SLOTS (R7). -/
def Obligations.ReturnsAndRings : Prop :=
  (∀ (m : SlotManager) (i : SlotNo),
    (m.deficit = [] → m.giveBack i = { m.setSlot i SlotRecord.reset with freePool := m.freePool ++ [i] }) ∧
    ∀ c rest r, m.deficit = c :: rest → m.ring c = some r → m.giveBack i =
      ({ m with deficit := rest }.setSlot i ⟨.blank c, ⟨false, false, false⟩⟩).setRing c
        (some { r with blank := r.blank ++ [i] })) ∧
  (∀ (m : SlotManager) (c : Cam) (i : SlotNo) (r : Ring), m.ring c = some r → m.joinBlank c i =
    (m.setSlot i ⟨.blank c, ⟨false, false, false⟩⟩).setRing c (some { r with blank := r.blank ++ [i] })) ∧
  ∀ (m : SlotManager) (c : Cam) (depth : Nat),
    (∀ r, m.ring c = some r → m.establish c depth = some m) ∧
    (m.ring c = none → m.freePool.length < depth → m.establish c depth = none) ∧
    (m.ring c = none → depth ≤ m.freePool.length → ∃ n, m.establish c depth = some n ∧
      n.freePool = m.freePool.drop depth ∧
      n.ring c = some { ready := [], blank := m.freePool.take depth, filling := none } ∧
      (∀ c', c' ≠ c → n.ring c' = m.ring c') ∧ n.deficit = m.deficit ∧
      (∀ i ∈ m.freePool.take depth, n.slot i = ⟨.blank c, ⟨false, false, false⟩⟩) ∧
      ∀ i, i ∉ m.freePool.take depth → n.slot i = m.slot i)

/-- The tests of a claim and what a granted one does (R13, R14, R15): the newest READY slot stays in the ring; any other moves
into the clip, and the ring receives the head of the free pool or a deficit entry. A publication makes the FILLING slot the
newest READY slot, and moves the newest slot before it into its clip when that carries a claim; its notice carries the camera, the
slot, its capture sequence and camera frame number, and the moved slot with its camera, capture sequence and clip (R15, R16). -/
def Obligations.ClaimsAndPublications : Prop :=
  (∀ (m : SlotManager) (k : ClipId) (c : Cam) (i : SlotNo) (q : Word32),
     ((∀ f old, (m.slot i).place = .ready c f old → f.sequence ≠ q) → m.claim k c i q = (m, .gone)) ∧
     ∀ f, f.sequence = q →
       (∀ other, (m.slot i).place = .ready c f (some other) → m.claim k c i q = (m, .claimed)) ∧
       ((m.slot i).place = .ready c f none → m.holdLimit ≤ m.holdCount → m.claim k c i q = (m, .hold)) ∧
       ((m.slot i).place = .ready c f none → m.holdCount < m.holdLimit → ∀ r, m.ring c = some r →
         let counted := { m with holdCount := m.holdCount + 1 }
         let moved := (counted.setPlace i (.clip c f k)).setRing c (some { r with ready := r.ready.erase i })
         (r.ready.getLast? = some i → m.claim k c i q = (counted.setPlace i (.ready c f (some k)), .grantedInRing)) ∧
         (r.ready.getLast? ≠ some i → m.freePool = [] →
           m.claim k c i q = ({ moved with deficit := m.deficit ++ [c] }, .grantedMoved)) ∧
         ∀ j rest, r.ready.getLast? ≠ some i → m.freePool = j :: rest →
           m.claim k c i q = ({ moved with freePool := rest }.joinBlank c j, .grantedMoved))) ∧
  (∀ (m : SlotManager) (c : Cam),
     (m.ring c = none → m.publish c = (m, none)) ∧
     (∀ r, m.ring c = some r → r.filling = none → m.publish c = (m, none)) ∧
     ∀ r i f, m.ring c = some r → r.filling = some i → (m.slot i).place = .filling c f →
       let n := (m.setPlace i (.ready c f none)).setRing c
         (some { ready := r.ready ++ [i], blank := r.blank, filling := none })
       (r.ready = [] → m.publish c = (n, some ⟨c, i, f.sequence, f.number, none⟩)) ∧
       (∀ old, r.ready.getLast? = some old → n.claimOf old = none →
         m.publish c = (n, some ⟨c, i, f.sequence, f.number, none⟩)) ∧
       ∀ old d g k, r.ready.getLast? = some old → (n.slot old).place = .ready d g (some k) →
         let moved := (n.setPlace old (.clip d g k)).setRing c
           (some { ready := (r.ready ++ [i]).erase old, blank := r.blank, filling := none })
         let notice := some ⟨c, i, f.sequence, f.number, some ⟨old, d, g.sequence, k⟩⟩
         (m.freePool = [] → m.publish c = ({ moved with deficit := m.deficit ++ [c] }, notice)) ∧
         ∀ j rest, m.freePool = j :: rest → m.publish c = ({ moved with freePool := rest }.joinBlank c j, notice))

/-- A released clip's slots: one in the clip returns, or retires while pinned; one still claimed in its ring loses its claim
and stays; each lowers the hold count; any other entry is passed over (R11, R19; that a claimed slot stays in its ring, against a
row of the table of R161, is log 40). A dissolution ends the ring and the camera's deficit entries; a claimed newest slot moves
into its clip with its pins, and the clip unit is told; the FILLING slot, the BLANK slots and the READY slots without a pin return,
in that order, to the rings in deficit and then to the tail of the free pool; a READY slot with a pin retires (R20). It is said of
the accounts that every step keeps (StepKeepsInvariants). -/
def Obligations.ReleaseAndDissolve : Prop :=
  (∀ (m : SlotManager) (k : ClipId) (i : SlotNo),
    let fewer := { m with holdCount := m.holdCount - 1 }
    (∀ c f, (m.slot i).place = .clip c f k → (m.slot i).holders.count = 0 →
      m.release k [i] = fewer.giveBack i) ∧
    (∀ c f, (m.slot i).place = .clip c f k → (m.slot i).holders.count ≠ 0 →
      m.release k [i] = fewer.setPlace i (.retiring c f)) ∧
    (∀ c f, (m.slot i).place = .ready c f (some k) → m.release k [i] = fewer.setPlace i (.ready c f none)) ∧
    ((∀ c f, (m.slot i).place ≠ .clip c f k ∧ (m.slot i).place ≠ .ready c f (some k)) → m.release k [i] = m) ∧
    ∀ rest, m.release k (i :: rest) = (m.release k [i]).release k rest) ∧
  ∀ (m : SlotManager) (c : Cam),
    (m.ring c = none → m.dissolve c = (m, none)) ∧ ((m.dissolve c).1.ring c = none) ∧
    (m.ring c ≠ none → (m.dissolve c).1.deficitOf c = 0) ∧ (m.dissolve c).1.holdCount = m.holdCount ∧
    ∀ r, SlotsAccounted m → m.ring c = some r →
      let t := (m.dissolve c).1
      let claimed := fun i : SlotNo => r.ready.getLast? = some i ∧ m.claimOf i ≠ none
      let returned := r.filling.toList ++ r.blank ++
        r.ready.filter fun i => decide ((m.slot i).holders.count = 0 ∧ ¬ claimed i)
      let owed := m.deficit.filter fun d => decide (d ≠ c)
      (∀ i f k, r.ready.getLast? = some i → (m.slot i).place = .ready c f (some k) →
        (m.dissolve c).2 = some ⟨i, c, f.sequence, k⟩ ∧ t.slot i = ⟨.clip c f k, (m.slot i).holders⟩) ∧
      ((∀ i, ¬ claimed i) → (m.dissolve c).2 = none) ∧
      (∀ i ∈ r.ready, ¬ claimed i → (m.slot i).holders.count ≠ 0 → ∀ f, (m.slot i).place = .ready c f none →
        t.slot i = ⟨.retiring c f, (m.slot i).holders⟩) ∧
      t.freePool = m.freePool ++ returned.drop owed.length ∧ t.deficit = owed.drop returned.length ∧
      (∀ d, d ≠ c → t.ring d = (m.ring d).map fun x =>
        { x with blank := x.blank ++ ((owed.zip returned).filter fun p => decide (p.1 = d)).map (·.2) }) ∧
      (∀ d i, (d, i) ∈ owed.zip returned → t.slot i = ⟨.blank d, ⟨false, false, false⟩⟩) ∧
      (∀ i ∈ returned.drop owed.length, t.slot i = ⟨.free, ⟨false, false, false⟩⟩) ∧
      ∀ i, i ∉ r.filling.toList ++ r.blank ++ r.ready → t.slot i = m.slot i

/-- HOLD_LIMIT_SET (R18): the three rows of its table; claims after it are tested against the new limit. -/
def Obligations.HoldLimitSet : Prop :=
  (∀ (s : State) (tag n : Byte), s.TakesRequest →
    (64 < n.toNat → exec (.holdLimitSet tag [n]) s = .next (s.replied .holdLimitSet tag (.badField 0))) ∧
    (n.toNat ≤ 64 → n.toNat < s.slots.holdCount →
      exec (.holdLimitSet tag [n]) s = .next (s.replied .holdLimitSet tag .state)) ∧
    (n.toNat ≤ 64 → s.slots.holdCount ≤ n.toNat → exec (.holdLimitSet tag [n]) s = .next
      ((s.setSlots { s.slots with holdLimit := n.toNat }).replied .holdLimitSet tag (.ok [])))) ∧
  ∀ (m : SlotManager) (k : ClipId) (c : Cam) (i : SlotNo) (q : Word32), m.holdLimit ≤ m.holdCount →
    (m.claim k c i q).1 = m ∧ (m.claim k c i q).2 ≠ .grantedInRing ∧ (m.claim k c i q).2 ≠ .grantedMoved

/-! ## Camera ports: requests (spec/02, spec/03) -/

/-- CAMERA_SETUP: the tests of R25 in their order, then the six setup fields. -/
def Obligations.CameraSetup : Prop :=
  ∀ (s : State) (tag : Byte) (body : List Byte), s.TakesRequest → body.length = 11 →
    let width := field2 body 1
    let height := field2 body 3
    let rate := field1 body 5
    let depth := field1 body 6
    let timeout := field2 body 7
    let interval := field2 body 9
    let answered := fun (t : State) (a : Answer) => exec (.cameraSetup tag body) s = .next (t.replied .cameraSetup tag a)
    (13 < field1 body 0 → answered s (.badField 0)) ∧
    ∀ c : Cam, field1 body 0 = c.val →
      if ¬(320 ≤ width ∧ width ≤ 1280 ∧ width % 32 = 0) then answered s (.badField 1)
      else if ¬(200 ≤ height ∧ height ≤ 800 ∧ height % 8 = 0) then answered s (.badField 2)
      else if ¬(10 ≤ rate ∧ rate ≤ 30) then answered s (.badField 3)
      else if ¬(2 ≤ depth ∧ depth ≤ 8) then answered s (.badField 4)
      else if ¬(50 ≤ timeout ∧ timeout ≤ 2000) then answered s (.badField 5)
      else if ¬(interval = 0 ∨ (500 ≤ interval ∧ interval ≤ 60000)) then answered s (.badField 6)
      else if timeout * rate < 1000 then answered s (.badField 5)
      else if (s.cam c).state = .off ∨ (s.cam c).state = .failed then
        answered (s.setCam c { s.cam c with setup := ⟨width, height, rate, depth, timeout, interval⟩ }) (.ok [])
      else answered s .state

/-- CAMERA_START: the tests of R27 in their order, and what an accepted one does: the ring established, the job opened, the
bring-up queued, the camera record, and CAMERA_STATE with cause HEALTH for a flag that is cleared (R41, R42; that these come first is
log 30) and with cause START. -/
def Obligations.CameraStart : Prop :=
  ∀ (s : State) (tag n : Byte), s.TakesRequest →
    let answered := fun (t : State) (a : Answer) => exec (.cameraStart tag [n]) s = .next (t.replied .cameraStart tag a)
    (13 < n.toNat → answered s (.badField 0)) ∧
    ∀ c : Cam, n.toNat = c.val →
      let r := s.cam c
      let work := EntryWork.bringUp r.setup.width r.setup.height r.setup.rate .identify
      (r.state ≠ .off → r.state ≠ .failed → answered s .state) ∧
      (r.state = .off ∨ r.state = .failed →
        (3 ≤ (s.ctl c).queue.length → answered s .busy) ∧
        ((s.ctl c).queue.length < 3 → s.link.freeJob = none → answered s .busy) ∧
        (∀ j, (s.ctl c).queue.length < 3 → s.link.freeJob = some j → s.slots.establish c r.setup.depth = none →
          answered s .noSlots) ∧
        ∀ j control m, s.link.freeJob = some j → (s.ctl c).enqueue work = some control →
          s.slots.establish c r.setup.depth = some m →
          let after := { r with
            generation := r.generation + 1, degraded := false, starved := false, damagedRun := 0, goodRun := 0,
            skipRun := 0, publishedTotal := 0, damagedTotal := 0, skippedTotal := 0, lastDamage := none,
            lastResult := none, receive := .waitStart, startJob := some j, state := .bringUp }
          let t := (((s.setSlots m).openJob j .cameraStart c.val tag).setCtl c control).setCam c after
          answered (t.raiseCameraAll c (healthCauses r after ++ [.start])) (.accepted j))

/-- CAMERA_STOP (R33): refused above 13, OK without effect in STOPPING, OFF and FAILED; else the record, the dissolution, the
flush, the end of the start job, then the notice and CAMERA_STATE with cause STOP. The entry to FAILED (R35) leaves the control
queue. The entries that the flush removed: a pass-through ends its job ABORTED with its command kind, a heater entry, a bring-up entry
and a stream-off end without a notice (R57, R58). A camera state notice goes to the soiling monitor and to the clip unit, in this
order by the model's choice (R43; log 22). -/
def Obligations.CameraStop : Prop :=
  (∀ (s : State) (c : Cam) (cause : CameraCause),
    let r := s.cam c
    let failed := { r with
      frameTimer := none, recoveryTimer := none, receive := .waitStart, recoveryPending := false,
      generation := r.generation + 1, state := .failed }
    let dissolved := (s.setSlots (s.slots.dissolve c).1).slotMoved (s.slots.dissolve c).2
    s.failCamera c cause = ((dissolved.setCam c failed).cameraNotice c r.state .failed).raiseCamera c cause) ∧
  (∀ (s : State) (e : QueueEntry) (rest : List QueueEntry),
    let kind := fun p : PassCommand => (match p with | .identify => 0x01#8 | .heater _ => 0x05#8 | .status => 0x06#8)
    s.endRemoved [] = s ∧
    (∀ p j, e.work = .passThrough p j → s.endRemoved (e :: rest) = (s.endJob j .aborted [kind p]).endRemoved rest) ∧
    ((∀ p j, e.work ≠ .passThrough p j) → s.endRemoved (e :: rest) = s.endRemoved rest)) ∧
  (∀ (s : State) (c : Cam) (old now : CaptureState),
    s.cameraNotice c old now = (s.soilNotice c now).clipNotice c old now) ∧
  ∀ (s : State) (tag n : Byte), s.TakesRequest →
    let answered := fun (t : State) (a : Answer) => exec (.cameraStop tag [n]) s = .next (t.replied .cameraStop tag a)
    (13 < n.toNat → answered s (.badField 0)) ∧
    ∀ c : Cam, n.toNat = c.val →
      let r := s.cam c
      ((r.state = .stopping ∨ r.state = .off ∨ r.state = .failed) → answered s (.ok [])) ∧
      (r.state = .bringUp ∨ r.state = .searching ∨ r.state = .running ∨ r.state = .lost →
        let stopped := { r with
          frameTimer := none, recoveryTimer := none, receive := .waitStart, generation := r.generation + 1,
          startJob := none, recoveryPending := false, state := .stopping }
        let dissolved := (s.setSlots (s.slots.dissolve c).1).slotMoved (s.slots.dissolve c).2
        let flushed := (dissolved.setCtl c (s.ctl c).flush.1).endRemoved (s.ctl c).flush.2
        let ended := flushed.endJob? r.startJob .aborted []
        answered (((ended.setCam c stopped).cameraNotice c r.state .stopping).raiseCamera c .stop) (.ok []))

/-- CAMERA_COMMAND: the tests of R56 in their order, and the pass-through an accepted one admits. -/
def Obligations.CameraCommand : Prop :=
  ∀ (s : State) (tag n kind setting : Byte), s.TakesRequest →
    let answered := fun (t : State) (a : Answer) =>
      exec (.cameraCommand tag [n, kind, setting]) s = .next (t.replied .cameraCommand tag a)
    (13 < n.toNat → answered s (.badField 0)) ∧
    ∀ c : Cam, n.toNat = c.val →
      (kind ≠ 1#8 → kind ≠ 5#8 → kind ≠ 6#8 → answered s (.badField 1)) ∧
      (kind = 5#8 → setting ≠ 0#8 → setting ≠ 1#8 → answered s (.badField 2)) ∧
      ∀ p : PassCommand,
        (kind = 1#8 ∧ p = .identify) ∨ (kind = 6#8 ∧ p = .status) ∨ (kind = 5#8 ∧ setting = 0#8 ∧ p = .heater false) ∨
          (kind = 5#8 ∧ setting = 1#8 ∧ p = .heater true) →
        let passes := ∃ e ∈ (s.ctl c).queue, ∃ q j, e.work = .passThrough q j
        ((s.cam c).state = .stopping → answered s .state) ∧
        ((s.cam c).state ≠ .stopping → kind = 5#8 → (s.soilOf c).watch = true → answered s .state) ∧
        ((s.cam c).state ≠ .stopping → kind ≠ 5#8 ∨ (s.soilOf c).watch = false →
          (passes → answered s .busy) ∧
          (¬ passes → 3 ≤ (s.ctl c).queue.length → answered s .busy) ∧
          (¬ passes → s.link.freeJob = none → answered s .busy) ∧
          ∀ j control, ¬ passes → s.link.freeJob = some j → (s.ctl c).enqueue (.passThrough p j) = some control →
            answered ((s.openJob j .cameraCommand c.val tag).setCtl c control) (.accepted j))

/-- The control queue: a command is sent while the path is IDLE (R48), an entry is admitted while fewer than 3 stand in it
(R51), a heater request replaces the entry that has not started, or is admitted, or answered FULL (R54), and the flush (R58). The count of commands whose last byte has not left the part, which rises by 1 at each sending, is the
model's own (log 16). -/
def Obligations.ControlQueue : Prop :=
  (∀ (r : ControlRecord) (w : EntryWork),
    (3 ≤ r.queue.length → r.enqueue w = none) ∧
    (r.queue = [] → r.inFlight = none → r.enqueue w = some
      { queue := [⟨w, true, false⟩], inFlight := some w.command, attempt := .first, responseTimer := none,
        unsent := r.unsent + 1 }) ∧
    (r.queue.length < 3 → r.inFlight ≠ none → r.enqueue w = some { r with queue := r.queue ++ [⟨w, false, false⟩] })) ∧
  (∀ (r : ControlRecord) (ahead behind : List QueueEntry) (on old flushed : Bool),
    (∀ e ∈ ahead ++ behind, e.started = false → ∀ o, e.work ≠ .heater o) →
    r.queue = ahead ++ ⟨.heater old, false, flushed⟩ :: behind →
    r.heaterRequest on = some { r with queue := ahead ++ ⟨.heater on, false, flushed⟩ :: behind }) ∧
  (∀ (r : ControlRecord) (on : Bool), (∀ e ∈ r.queue, e.started = false → ∀ o, e.work ≠ .heater o) →
    r.heaterRequest on = r.enqueue (.heater on)) ∧
  ∀ (r : ControlRecord) (e : QueueEntry) (rest : List QueueEntry),
    (r.queue = [] → r.inFlight = none → r.flush =
      ({ queue := [⟨.streamOff, true, false⟩], inFlight := some .streamOff, attempt := .first, responseTimer := none,
         unsent := r.unsent + 1 }, [])) ∧
    (r.queue = e :: rest → e.started = true → r.inFlight ≠ none → r.flush =
      ({ r with queue := [{ e with flushed := true }, ⟨.streamOff, false, false⟩] }, rest)) ∧
    (r.queue = e :: rest → e.started = false → r.inFlight = none → r.flush =
      ({ queue := [⟨.streamOff, true, false⟩], inFlight := some .streamOff, attempt := .first, responseTimer := none,
         unsent := r.unsent + 1 }, rest ++ [e]))

/-! ## Camera ports: frames and timers (spec/02) -/

/-- The health counts and flags: damaged (R40, R41), good (R39, R41), skipped and given a slot (R37, R42); each change of a flag
raises CAMERA_STATE with cause HEALTH, and a change of both raises it twice. A raise of CAMERA_STATE overwrites its content with the
record as it stands (R44); the raises of one event come in the order of their causes (log 30). -/
def Obligations.HealthCounts : Prop :=
  (∀ (s : State) (c : Cam) (cause : CameraCause) (causes : List CameraCause),
    let r := s.cam c
    s.raiseCamera c cause = s.raise (.cameraState c) (.cameraState
      { camera := c, state := r.state, degraded := r.degraded, starved := r.starved, cause := cause, lastResult := r.lastResult,
        lastDamage := r.lastDamage, generation := r.generation, lastPublished := r.lastPublished,
        damagedTotal := r.damagedTotal, skippedTotal := r.skippedTotal }) ∧
    s.raiseCameraAll c [] = s ∧ s.raiseCameraAll c (cause :: causes) = (s.raiseCamera c cause).raiseCameraAll c causes) ∧
  ∀ (r : CameraRecord) (c : Cam) (e : Nat) (k : DamageKind) (q : Word32),
    let up := fun n : Nat => if n < 255 then n + 1 else n
    (r.damagedTotal ≠ 0xFFFFFFFF#32 → r.damaged c e k = { r with
      receive := .waitStart, lastDamage := some k, damagedTotal := r.damagedTotal + 1, damagedRun := up r.damagedRun,
      goodRun := 0, degraded := r.degraded || decide (8 ≤ up r.damagedRun) }) ∧
    (r.publishedTotal ≠ 0xFFFFFFFF#32 → r.good c e q = { r with
      receive := .waitStart, lastPublished := some q, publishedTotal := r.publishedTotal + 1, goodRun := up r.goodRun,
      damagedRun := 0, degraded := r.degraded && decide (up r.goodRun < 4) }) ∧
    (r.skippedTotal ≠ 0xFFFFFFFF#32 → r.skipped c e = { r with
      receive := .waitStart, skippedTotal := r.skippedTotal + 1, skipRun := up r.skipRun,
      starved := r.starved || decide (3 ≤ up r.skipRun) }) ∧
    r.slotGiven = { r with receive := .receiving, nextLine := 0, skipRun := 0, starved := false } ∧
    ∀ b : CameraRecord,
      (b.degraded = r.degraded → b.starved = r.starved → healthCauses r b = []) ∧
      (b.degraded ≠ r.degraded → b.starved = r.starved → healthCauses r b = [.health]) ∧
      (b.degraded = r.degraded → b.starved ≠ r.starved → healthCauses r b = [.health]) ∧
      (b.degraded ≠ r.degraded → b.starved ≠ r.starved → healthCauses r b = [.health, .health])

/-- FRAME_START: what is ignored (R23), and what a frame-start taken in SEARCHING, RUNNING or LOST does: the timer and the
state (R29), the frame being received damaged TRUNCATED, then GEOMETRY, a slot taken, or a skipped frame (R37). -/
def Obligations.FrameStart : Prop :=
  ∀ (s : State) (c : Cam) (n1 n0 w1 w0 h1 h0 check : Byte), s.Unasked →
    let old := (s.cam c).state
    let packet := [n1, n0, w1, w0, h1, h0, check]
    let good := check = crc8 [0x01#8, n1, n0, w1, w0, h1, h0]
    let taken := old = .searching ∨ old = .running ∨ old = .lost
    (¬ taken ∨ ¬ good → exec (.frameStart c packet) s = .next s.sendIfDue) ∧
    (∀ other : List Byte, other.length ≠ 7 → exec (.frameStart c other) s = .next s.sendIfDue) ∧
    (taken → good →
      let r := s.cam c
      let seen := { r with
        frameTimer := some (s.elapsed + r.setup.frameTimeout), lastStart := some s.now, lastNumber := some (n1 ++ n0),
        state := .running, recoveryTimer := if old = .lost then none else r.recoveryTimer }
      let cut := if r.receive = .receiving then seen.damaged c s.elapsed .truncated else seen
      let slots := if r.receive = .receiving then s.slots.discard c else s.slots
      let before := (if old = .running then [] else [CameraCause.frameStart]) ++ healthCauses seen cut
      (nat2 w1 w0 ≠ r.setup.width ∨ nat2 h1 h0 ≠ r.setup.height →
        let damaged := cut.damaged c s.elapsed .geometry
        exec (.frameStart c packet) s = .next
          (((s.setSlots slots).setCam c damaged).raiseCameraAll c (before ++ healthCauses cut damaged)).sendIfDue) ∧
      (nat2 w1 w0 = r.setup.width → nat2 h1 h0 = r.setup.height →
        let asked := { cut with sequence := cut.sequence + 1 }
        let frame := FrameFields.mk (r.sequence + 1) (n1 ++ n0) s.now ⟨r.setup.width, r.setup.height⟩
        (∀ m i, slots.take c frame = (m, some i) → exec (.frameStart c packet) s = .next
          (((s.setSlots m).setCam c asked.slotGiven).raiseCameraAll c (before ++ healthCauses asked asked.slotGiven)).sendIfDue) ∧
        ∀ m, slots.take c frame = (m, none) → exec (.frameStart c packet) s = .next
          (((s.setSlots m).setCam c (asked.skipped c s.elapsed)).raiseCameraAll c
            (before ++ healthCauses asked (asked.skipped c s.elapsed))).sendIfDue))

/-- LINE_PACKET: what is ignored (R23, R38), the three damages in their order, and a good line written at its place in the
FILLING slot, where it then stands, with every other byte of the frame store unchanged. The place of a line in its slot is the
model's choice (log 12), as is ORDER for a line beyond the last (log 14). -/
def Obligations.LinePacket : Prop :=
  ∀ (s : State) (c : Cam) (n1 n0 k1 k0 : Byte) (pixels : List Byte), s.Unasked → (s.cam c).setup.InRange →
    let r := s.cam c
    let run := exec (.linePacket c (n1 :: n0 :: (pixels ++ [k1, k0]))) s
    let taken := (r.state = .searching ∨ r.state = .running ∨ r.state = .lost) ∧ r.receive = .receiving
    let good := nat2 k1 k0 = (crc16 (n1 :: n0 :: pixels)).toNat
    let damage := fun k : DamageKind =>
      ((s.setSlots (s.slots.discard c)).setCam c (r.damaged c s.elapsed k)).raiseCameraAll c
        (healthCauses r (r.damaged c s.elapsed k))
    (¬ taken → run = .next s.sendIfDue) ∧
    (taken → ¬ good → run = .next (damage .crc).sendIfDue) ∧
    (taken → good → pixels.length ≠ 2 * r.setup.width → run = .next (damage .length).sendIfDue) ∧
    (taken → good → pixels.length = 2 * r.setup.width → nat2 n1 n0 ≠ r.nextLine ∨ r.setup.height ≤ nat2 n1 n0 →
      run = .next (damage .order).sendIfDue) ∧
    (taken → good → pixels.length = 2 * r.setup.width → nat2 n1 n0 = r.nextLine → nat2 n1 n0 < r.setup.height →
      ∀ ring i, s.slots.ring c = some ring → ring.filling = some i →
        let start := slotAddress i (nat2 n1 n0 * (2 * r.setup.width))
        ∃ m, run = .next ((s.setPixels m).setCam c { r with nextLine := r.nextLine + 1 }).sendIfDue ∧
          (∀ a, a < start ∨ start + pixels.length ≤ a → Memory.read m a = Memory.read s.pixels a) ∧
          ∀ k, k < pixels.length → Memory.read m (start + k) = pixels.getD k 0)

/-- FRAME_END: what is ignored (R23, R39), the frame damaged COUNT, and the good frame published, with the clip unit told. -/
def Obligations.FrameEnd : Prop :=
  ∀ (s : State) (c : Cam) (n1 n0 check : Byte), s.Unasked →
    let r := s.cam c
    let run := exec (.frameEnd c [n1, n0, check]) s
    let taken := (r.state = .searching ∨ r.state = .running ∨ r.state = .lost) ∧ r.receive = .receiving
    let good := check = crc8 [0x03#8, n1, n0]
    let whole := nat2 n1 n0 = r.setup.height ∧ r.nextLine = r.setup.height
    let damaged := r.damaged c s.elapsed .count
    (¬ taken ∨ ¬ good → run = .next s.sendIfDue) ∧
    (∀ other : List Byte, other.length ≠ 3 → exec (.frameEnd c other) s = .next s.sendIfDue) ∧
    (taken → good → ¬ whole → run = .next
      (((s.setSlots (s.slots.discard c)).setCam c damaged).raiseCameraAll c (healthCauses r damaged)).sendIfDue) ∧
    (taken → good → whole →
      let published := r.good c s.elapsed r.sequence
      (∀ m, s.slots.publish c = (m, none) → run = .next
        (((s.setSlots m).setCam c published).raiseCameraAll c (healthCauses r published)).sendIfDue) ∧
      ∀ m n, s.slots.publish c = (m, some n) → run = .next
        ((((s.setSlots m).publicationNotice n).setCam c published).raiseCameraAll c (healthCauses r published)).sendIfDue)

/-- FRAME_TIMER_EXPIRY moves a camera from SEARCHING or RUNNING to LOST (R30); RECOVERY_TIMER_EXPIRY queues a bring-up, or
loads the timer again (R31); an expiry that is not due changes nothing (log 4). -/
def Obligations.CameraTimers : Prop :=
  ∀ (s : State) (c : Cam), s.Unasked →
    let r := s.cam c
    (r.state ≠ .searching → r.state ≠ .running → exec (.frameTimerExpiry c) s = .next s.sendIfDue) ∧
    ((∀ d, r.frameTimer = some d → s.elapsed < d) → exec (.frameTimerExpiry c) s = .next s.sendIfDue) ∧
    (∀ d, r.frameTimer = some d → d ≤ s.elapsed → r.state = .searching ∨ r.state = .running →
      let cut := if r.receive = .receiving then r.damaged c s.elapsed .timeout else r
      let slots := if r.receive = .receiving then s.slots.discard c else s.slots
      let lost := { cut with
        state := .lost, frameTimer := none,
        recoveryTimer := if r.setup.recoveryInterval = 0 then none else some (s.elapsed + r.setup.recoveryInterval) }
      exec (.frameTimerExpiry c) s = .next ((((s.setSlots slots).setCam c lost).cameraNotice c r.state .lost).raiseCameraAll c
        (healthCauses r cut ++ [.frameTimeout])).sendIfDue) ∧
    (r.state ≠ .lost → exec (.recoveryTimerExpiry c) s = .next s.sendIfDue) ∧
    ((∀ d, r.recoveryTimer = some d → s.elapsed < d) → exec (.recoveryTimerExpiry c) s = .next s.sendIfDue) ∧
    ∀ d, r.recoveryTimer = some d → d ≤ s.elapsed → r.state = .lost →
      (r.recoveryPending = true ∨ 3 ≤ (s.ctl c).queue.length → exec (.recoveryTimerExpiry c) s = .next
        (s.setCam c { r with recoveryTimer := some (s.elapsed + r.setup.recoveryInterval) }).sendIfDue) ∧
      ∀ control, r.recoveryPending = false →
        (s.ctl c).enqueue (.bringUp r.setup.width r.setup.height r.setup.rate .identify) = some control →
        exec (.recoveryTimerExpiry c) s = .next
          ((s.setCtl c control).setCam c { r with recoveryPending := true, recoveryTimer := none }).sendIfDue

/-- CAMERA_RESPONSE (R49, R50): ignored while IDLE; the check of a response; a failed first attempt is sent again, a failed
second ends CAMERA_TIMEOUT; RESPONSE_TIMER_EXPIRY fails the attempt when it is due (R50). The ending is handed to the current
entry, and the next command is sent in the same event: while the path is IDLE and an entry stands at the head, the command of its step
goes into flight as attempt 1 and the entry is started (R48). COMMAND_LAST_BYTE_SENT loads the response timer of the command in
flight with 20 ms when no other command is left to send (R48, R50); counting the commands that are still being sent is the
model's choice (log 16), as is that an expiry before its time (log 4) and a last byte with nothing being sent (log 32) change
nothing. -/
def Obligations.CameraResponse : Prop :=
  ((∀ (s : State) (c : Cam) (packet : List Byte), s.Unasked →
     let q := s.ctl c
     let again := s.setCtl c { q with attempt := .second, responseTimer := none, unsent := q.unsent + 1 }
     let idle := s.setCtl c { q with inFlight := none, attempt := .first, responseTimer := none }
     (q.inFlight = none → exec (.cameraResponse c packet) s = .next s.sendIfDue ∧ exec (.responseTimerExpiry c) s = .next s.sendIfDue) ∧
     ((∀ d, q.responseTimer = some d → s.elapsed < d) → exec (.responseTimerExpiry c) s = .next s.sendIfDue) ∧
     (∀ k, q.inFlight = some k → checkResponse k packet = none → q.attempt = .first →
       exec (.cameraResponse c packet) s = .next again.sendIfDue) ∧
     (∀ k d, q.inFlight = some k → q.responseTimer = some d → d ≤ s.elapsed → q.attempt = .first →
       exec (.responseTimerExpiry c) s = .next again.sendIfDue) ∧
     ∀ k e rest, q.inFlight = some k → q.queue = e :: rest →
       (∀ x, checkResponse k packet = some x →
         exec (.cameraResponse c packet) s = .next ((idle.endEntry c e x).pumpControl c).sendIfDue) ∧
       (q.attempt = .second → checkResponse k packet = none → exec (.cameraResponse c packet) s
         = .next ((idle.endEntry c e (.failed .cameraTimeout)).pumpControl c).sendIfDue) ∧
       ∀ d, q.attempt = .second → q.responseTimer = some d → d ≤ s.elapsed → exec (.responseTimerExpiry c) s
         = .next ((idle.endEntry c e (.failed .cameraTimeout)).pumpControl c).sendIfDue) ∧
   ∀ (k : LaneCommand) (echo result check : Byte) (payload : List Byte),
     let packet := echo :: result :: (payload ++ [check])
     let good := check = crc8 (0x04#8 :: echo :: result :: payload) ∧ echo = k.code
     (¬ good → checkResponse k packet = none) ∧
     (good → result = 0#8 → payload.length = k.payloadLength → checkResponse k packet = some (.done payload)) ∧
     (good → result = 0#8 → payload.length ≠ k.payloadLength → checkResponse k packet = none) ∧
     (good → result = 1#8 → payload = [] → checkResponse k packet = some (.failed .cameraRefused)) ∧
     (good → result = 1#8 → payload ≠ [] → checkResponse k packet = none) ∧
     k.payloadLength = (match k with
       | .identify => 11
       | .status => 3
       | _ => 0)) ∧
  (∀ (s : State) (c : Cam),
     let q := s.ctl c
     let command := fun w : EntryWork => (match w with
       | .bringUp _ _ _ .identify => LaneCommand.identify
       | .bringUp w h f .configure => .configure w h f
       | .bringUp _ _ _ .streamOn => .streamOn
       | .streamOff => .streamOff
       | .heater on => .heater on
       | .passThrough .identify _ => .identify
       | .passThrough .status _ => .status
       | .passThrough (.heater on) _ => .heater on)
     (∀ e rest, q.inFlight = none → q.queue = e :: rest → s.pumpControl c = s.setCtl c
       { queue := { e with started := true } :: rest, inFlight := some (command e.work), attempt := .first,
         responseTimer := none, unsent := q.unsent + 1 }) ∧
     (q.inFlight ≠ none ∨ q.queue = [] → s.pumpControl c = s)) ∧
  (∀ (s : State) (c : Cam), s.pins.resetLow = false →
     let q := s.ctl c
     (q.unsent = 0 → exec (.commandLastByteSent c) s = .next s) ∧
     (∀ k, q.unsent = 1 → q.inFlight = some k → exec (.commandLastByteSent c) s
       = .next (s.setCtl c { q with unsent := 0, responseTimer := some (s.elapsed + 20) })) ∧
     (q.unsent = 1 → q.inFlight = none → exec (.commandLastByteSent c) s = .next (s.setCtl c { q with unsent := 0 })) ∧
     ∀ n, q.unsent = n + 2 → exec (.commandLastByteSent c) s = .next (s.setCtl c { q with unsent := n + 1 }))

/-- What the current entry does with an ending, the path being IDLE: the steps of a bring-up (R52), the ends of a bring-up
(R28, R32), of a stream-off (R34, R53), of a heater entry (R55), of a pass-through (R57), and of a flushed entry (R59). R28
makes the start job none at DONE; that it becomes none at a failed bring-up too is log 24. The 11 bytes of an IDENTIFY payload, each field high byte first, are written into the camera record as its identity,
heater present and largest geometry (R24), and are the result data of the start (R28). -/
def Obligations.EntryEnds : Prop :=
  (∀ (r : CameraRecord) (m1 m0 s3 s2 s1 s0 heater w1 w0 h1 h0 : Byte),
    r.identified [m1, m0, s3, s2, s1, s0, heater, w1, w0, h1, h0] = { r with
      identity := some ⟨m1 ++ m0, s3 ++ s2 ++ s1 ++ s0⟩, heaterPresent := heater, largest := some ⟨w1 ++ w0, h1 ++ h0⟩ } ∧
    (r.identified [m1, m0, s3, s2, s1, s0, heater, w1, w0, h1, h0]).startData
      = [m1, m0, s3, s2, s1, s0, heater, w1, w0, h1, h0]) ∧
  (∀ (r : CameraRecord) (x : Identity) (g : Largest), r.identity = some x → r.largest = some g →
    r.startData = bytes2 x.model.toNat ++ bytes4 x.serial.toNat ++ [r.heaterPresent] ++ bytes2 g.width.toNat
      ++ bytes2 g.height.toNat) ∧
  FailCode.cameraTimeout.jobResult = .cameraTimeout ∧ FailCode.cameraRefused.jobResult = .cameraRefused ∧
  ∀ (s : State) (c : Cam) (e : QueueEntry) (rest : List QueueEntry) (w h f : Nat) (code : FailCode) (payload : List Byte),
    (s.ctl c).queue = e :: rest →
    let r := s.cam c
    let popped := s.setCtl c { s.ctl c with queue := rest }
    let stepped := fun (t : State) (b : BringUpStep) =>
      t.setCtl c { s.ctl c with queue := { e with work := .bringUp w h f b } :: rest }
    let searching := fun (t : State) (a : CameraRecord) => t.setCam c
      { a with state := .searching, frameTimer := some (s.elapsed + r.setup.frameTimeout), recoveryTimer := none }
    (e.flushed = true → (∀ p j, e.work ≠ .passThrough p j) → s.endEntry c e (.done payload) = popped ∧
      s.endEntry c e (.failed code) = popped) ∧
    (∀ p j, e.work = .passThrough p j →
      s.endEntry c e (.failed .cameraTimeout) = popped.endJob j .cameraTimeout [p.command.code] ∧
      s.endEntry c e (.failed .cameraRefused) = popped.endJob j .cameraRefused [p.command.code] ∧
      ((∀ on, p ≠ .heater on) → s.endEntry c e (.done payload) = popped.endJob j .ok payload) ∧
      ∀ on, p = .heater on → s.endEntry c e (.done payload) = popped.endJob j .ok [byteOf on.toNat]) ∧
    (e.flushed = false → e.work = .bringUp w h f .identify → s.endEntry c e (.done payload)
      = stepped (s.setCam c (r.identified payload)) .configure) ∧
    (e.flushed = false → e.work = .bringUp w h f .configure → s.endEntry c e (.done payload) = stepped s .streamOn) ∧
    (e.flushed = false → e.work = .bringUp w h f .streamOn → r.state = .bringUp → s.endEntry c e (.done payload)
      = (((searching popped { r with startJob := none }).raiseCamera c .bringUpOk).endJob? r.startJob .ok r.startData)) ∧
    (e.flushed = false → e.work = .bringUp w h f .streamOn → r.state = .lost → s.endEntry c e (.done payload)
      = (searching popped { r with recoveryPending := false }).raiseCamera c .recoveryOk) ∧
    (e.flushed = false → e.work = .bringUp w h f .streamOn → r.state = .running → s.endEntry c e (.done payload)
      = popped.setCam c { r with recoveryPending := false }) ∧
    (∀ b, e.flushed = false → e.work = .bringUp w h f b → r.state = .bringUp → s.endEntry c e (.failed code)
      = ((popped.setCam c { r with startJob := none, lastResult := some code }).failCamera c .bringUpFail).endJob?
          r.startJob code.jobResult []) ∧
    (∀ b, e.flushed = false → e.work = .bringUp w h f b → r.state = .lost → s.endEntry c e (.failed code)
      = (popped.setCam c { r with recoveryPending := false, lastResult := some code }).failCamera c .recoveryFail) ∧
    (∀ b, e.flushed = false → e.work = .bringUp w h f b → r.state = .running → s.endEntry c e (.failed code)
      = (popped.setCam c { r with recoveryPending := false, lastResult := some code, degraded := true, goodRun := 0 }
        ).raiseCameraAll c (if r.degraded then [] else [.health])) ∧
    (e.flushed = false → e.work = .streamOff → r.state = .stopping →
      s.endEntry c e (.done payload) = (popped.setCam c { r with state := .off }).raiseCamera c .stopped ∧
      s.endEntry c e (.failed code)
        = (popped.setCam c { r with state := .off, lastResult := some code }).raiseCamera c .stopped) ∧
    ∀ on, e.flushed = false → e.work = .heater on →
      s.endEntry c e (.done payload) = popped.heaterResult c on .done ∧
      s.endEntry c e (.failed .cameraTimeout) = popped.heaterResult c on .cameraTimeout ∧
      s.endEntry c e (.failed .cameraRefused) = popped.heaterResult c on .cameraRefused

/-! ## Doors, cab and attention (spec/04) -/

/-- END_MAP and the reset of the end map (R63; that a is named when both are refused is log 27). DOOR_MAP (R62): the tests in
door order, field by field; the twelve records replaced; while FRESH the recompute with the map notice after it, while STALE
nothing more. -/
def Obligations.DoorAndEndMaps : Prop :=
  State.reset.doors.endA = none ∧ State.reset.doors.endB = none ∧
  (∀ (s : State) (tag a b : Byte), s.TakesRequest →
     let answered := fun (t : State) (x : Answer) => exec (.endMap tag [a, b]) s = .next (t.replied .endMap tag x)
     let legal := fun n : Byte => n.toNat ≤ 13 ∨ n = 0xFF#8
     let named := fun (n : Byte) (x : Option Cam) => (n = 0xFF#8 ∧ x = none) ∨ ∃ c : Cam, n.toNat = c.val ∧ x = some c
     (¬ legal a → answered s (.badField 0)) ∧ (legal a → ¬ legal b → answered s (.badField 1)) ∧
     ∀ x y, named a x → named b y → answered (s.setDoors { s.doors with endA := x, endB := y }) (.ok [])) ∧
  ∀ (s : State) (tag : Byte) (body : List Byte), s.TakesRequest → body.length = 48 →
    let answered := fun (t : State) (x : Answer) => exec (.doorMap tag body) s = .next (t.replied .doorMap tag x)
    let camera := fun (n : Nat) (x : Option Cam) => (n = 255 ∧ x = none) ∨ ∃ c : Cam, n = c.val ∧ x = some c
    let holds := fun (d : Door) (x : DoorMapRecord) =>
      field1 body (4 * d.val) = (match x.side with | .left => 0 | .right => 1) ∧ field1 body (4 * d.val + 1) = x.rank ∧
      camera (field1 body (4 * d.val + 2)) x.camera ∧ camera (field1 body (4 * d.val + 3)) x.alternate ∧
      x.rank ≤ 5 ∧ (x.alternate ≠ none → x.camera ≠ none ∧ x.alternate ≠ x.camera)
    (∀ d : Door, (∀ e : Door, e < d → ∃ x, holds e x) →
      let side := field1 body (4 * d.val)
      let rank := field1 body (4 * d.val + 1)
      let first := field1 body (4 * d.val + 2)
      let second := field1 body (4 * d.val + 3)
      let legal := fun n : Nat => n ≤ 13 ∨ n = 255
      (1 < side → answered s (.badField (4 * d.val))) ∧
      (side ≤ 1 → 5 < rank → answered s (.badField (4 * d.val + 1))) ∧
      (side ≤ 1 → rank ≤ 5 → ¬ legal first → answered s (.badField (4 * d.val + 2))) ∧
      (side ≤ 1 → rank ≤ 5 → legal first → ¬ legal second ∨ (second ≠ 255 ∧ (second = first ∨ first = 255)) →
        answered s (.badField (4 * d.val + 3)))) ∧
    ∀ map : Vector DoorMapRecord 12, (∀ d : Door, holds d map[d]) →
      let t := s.setDoors { s.doors with map := map }
      (s.doors.fresh = true → answered (t.recomputeAttention [.newMap]) (.ok [])) ∧
      (s.doors.fresh = false → answered t (.ok []))

/-- DOOR_TABLE (R65, R69, R76): the changed doors with their time, the time of the last table and the timer; attention recomputed
with notices, or with a snapshot and DOOR_STALE with condition FRESH, the time, the time of this table and the period when the table
was STALE (R70); then a trigger for each door that entered OBSTRUCTED
or FAULT, in door order. -/
def Obligations.DoorTable : Prop :=
  ∀ (s : State) (tag : Byte) (body : List Byte), s.TakesRequest → body.length = 12 →
    let answered := fun (t : State) (x : Answer) => exec (.doorTable tag body) s = .next (t.replied .doorTable tag x)
    (∀ d : Door, 5 < field1 body d.val → (∀ e : Door, e < d → field1 body e.val ≤ 5) → answered s (.badField d.val)) ∧
    ∀ states : Door → DoorState,
      (∀ d : Door,
        [DoorState.locked, .released, .open, .closing, .obstructed, .fault][field1 body d.val]? = some (states d)) →
      let old := s.doors
      let table := fun d : Door => if old.table[d].state = states d then old.table[d] else ⟨states d, s.now⟩
      let written := s.setDoors { old with
        table := Vector.ofFn table, lastTable := some s.now, fresh := true,
        timer := if old.period = 0 then old.timer else some (s.elapsed + old.period) }
      let handed := if old.fresh then written.recomputeAttention [] else written.recomputeToSnapshot.raise .doorStale
        (.doorStale true s.now (some s.now) old.period)
      answered ((List.finRange 12).foldl (fun (t : State) (d : Door) =>
        if old.table[d].state = states d then t
        else match states d, old.map[d].camera with
          | .obstructed, some c => t.trigger .obstruction c
          | .fault, some c => t.trigger .doorFault c
          | _, _ => t) handed) (.ok [])

/-- DOOR_CHANGE (R66, R76); FRESHNESS_TIMER_EXPIRY makes a FRESH table STALE when it is due (R67) and changes nothing
otherwise (log 4). -/
def Obligations.DoorChangeAndStaleness : Prop :=
  (∀ (s : State) (tag n m : Byte), s.TakesRequest →
    let answered := fun (t : State) (x : Answer) => exec (.doorChange tag [n, m]) s = .next (t.replied .doorChange tag x)
    (11 < n.toNat → answered s (.badField 0)) ∧
    ∀ d : Door, n.toNat = d.val →
      (5 < m.toNat → answered s (.badField 1)) ∧
      ∀ st, [DoorState.locked, .released, .open, .closing, .obstructed, .fault][m.toNat]? = some st →
        (s.doors.fresh = false → answered s .state) ∧
        (s.doors.fresh = true → s.doors.table[d].state = st → answered s (.ok [])) ∧
        (s.doors.fresh = true → s.doors.table[d].state ≠ st →
          let t := (s.setDoors { s.doors with table := s.doors.table.set d.val ⟨st, s.now⟩ d.isLt }).recomputeAttention []
          (∀ c, st = .obstructed → s.doors.map[d].camera = some c → answered (t.trigger .obstruction c) (.ok [])) ∧
          (∀ c, st = .fault → s.doors.map[d].camera = some c → answered (t.trigger .doorFault c) (.ok [])) ∧
          ((st ≠ .obstructed ∧ st ≠ .fault) ∨ s.doors.map[d].camera = none → answered t (.ok [])))) ∧
  ∀ s : State, s.Unasked →
    (s.doors.fresh = false → exec .freshnessTimerExpiry s = .next s.sendIfDue) ∧
    ((∀ d, s.doors.timer = some d → s.elapsed < d) → exec .freshnessTimerExpiry s = .next s.sendIfDue) ∧
    ∀ d, s.doors.fresh = true → s.doors.timer = some d → d ≤ s.elapsed →
      let t := s.setDoors { s.doors with fresh := false, timer := none, attention := Vector.ofFn fun _ => none }
      let cleared : SplitRecord := { entries := [], pattern := none, outside := [], holdOver := none }
      let report := fun u : State =>
        u.raise .doorStale (.doorStale false s.now s.doors.lastTable s.doors.period)
      (s.doors.cab = .none → exec .freshnessTimerExpiry s = .next (report t).sendIfDue) ∧
      (s.doors.cab = .a → exec .freshnessTimerExpiry s = .next (report (t.setSplit .a cleared)).sendIfDue) ∧
      (s.doors.cab = .b → exec .freshnessTimerExpiry s = .next (report (t.setSplit .b cleared)).sendIfDue)

/-- DOOR_FRESHNESS_SET (R68): what is refused, and the timer by the condition at that moment. -/
def Obligations.DoorFreshnessSet : Prop :=
  ∀ (s : State) (tag high low : Byte), s.TakesRequest →
    let period := nat2 high low
    let answered := fun (t : State) (x : Answer) =>
      exec (.doorFreshnessSet tag [high, low]) s = .next (t.replied .doorFreshnessSet tag x)
    ((1 ≤ period ∧ period ≤ 199) ∨ 10000 < period → answered s (.badField 0)) ∧
    (period = 0 → s.doors.fresh = true → answered (s.setDoors { s.doors with period := 0, timer := none }) (.ok [])) ∧
    (200 ≤ period → period ≤ 10000 → s.doors.fresh = true →
      answered (s.setDoors { s.doors with period := period, timer := some (s.elapsed + period) }) (.ok [])) ∧
    (period = 0 ∨ (200 ≤ period ∧ period ≤ 10000) → s.doors.fresh = false →
      answered (s.setDoors { s.doors with period := period }) (.ok []))

/-- CAB_SET (R71, R85, R117; the active screen is the active cab's, R71): the same cab changes nothing; else the old active screen's split is cleared and its output frame
cut if it is in SPLIT, and while FRESH attention is recomputed with a snapshot for the new active screen. -/
def Obligations.CabSet : Prop :=
  (∀ (d : DoorUnit) (i : ScreenId), d.activeScreen = some i ↔ (d.cab = .a ∧ i = .a) ∨ (d.cab = .b ∧ i = .b)) ∧
  ∀ (s : State) (tag n : Byte), s.TakesRequest →
    let answered := fun (t : State) (x : Answer) => exec (.cabSet tag [n]) s = .next (t.replied .cabSet tag x)
    let cleared : SplitRecord := { entries := [], pattern := none, outside := [], holdOver := none }
    (2 < n.toNat → answered s (.badField 0)) ∧
    ∀ cab : Cab, [Cab.none, .a, .b][n.toNat]? = some cab →
      (s.doors.cab = cab → answered s (.ok [])) ∧
      (s.doors.cab ≠ cab →
        let driven := s.setDoors { s.doors with cab := cab }
        let left := fun i : ScreenId =>
          let t := driven.setSplit i cleared
          if (s.screen i).view.mode = .split then (t.endOutputFrame i).startOutputFrame i true else t
        let ready := fun t : State => if s.doors.fresh then t.recomputeToSnapshot else t
        (s.doors.cab = .none → answered (ready driven) (.ok [])) ∧
        (s.doors.cab = .a → answered (ready (left .a)) (.ok [])) ∧
        (s.doors.cab = .b → answered (ready (left .b)) (.ok [])))

/-- The attention of a door and of a camera (R74); the outcomes of a recompute: departures, then changes, then joins, each in
attention order (R75); attention order (R72). A recompute writes every camera's attention, hands its outcomes, and what follows
them, to the planner of the active screen as one batch, or to none with cab NONE, and queues the joined cameras for examination in
attention order (R75, R126); that one without outcomes gives no batch is log 38. A recompute to a snapshot hands the cameras in
attention, in attention order, in place of the outcomes (R69, R71). -/
def Obligations.CameraAttention : Prop :=
  (∀ released : Bool,
    DoorState.obstructed.attention released = some ⟨.one, .obstructed⟩ ∧
    DoorState.fault.attention released = some ⟨.two, .fault⟩ ∧
    DoorState.closing.attention released = some ⟨.two, .closing⟩ ∧
    DoorState.open.attention released = some ⟨.three, .open⟩ ∧
    DoorState.released.attention released = (if released then some ⟨.four, .released⟩ else none) ∧
    DoorState.locked.attention released = none) ∧
  (∀ (d : DoorUnit) (released : Bool) (c : Cam),
    let given := fun (i : Door) (a : Attention) =>
      d.map[i].camera = some c ∧ d.table[i].state.attention released = some a
    (d.attentionOf released c = none ↔ ∀ i a, ¬ given i a) ∧
    ∀ a, d.attentionOf released c = some a → (∃ i, given i a) ∧ ∀ i b, given i b →
      a.cls.number ≤ b.cls.number ∧ (a.cls = .two → b = ⟨.two, .fault⟩ → a.deciding = .fault)) ∧
  (∀ (d : DoorUnit) (after : Vector (Option Attention) 14),
    (∀ c, DoorNotice.departure c ∈ d.notices after ↔ d.attention[c] ≠ none ∧ after[c] = none) ∧
    (∀ c a, DoorNotice.change c a ∈ d.notices after ↔ after[c] = some a ∧ ∃ b, d.attention[c] = some b ∧ b ≠ a) ∧
    (∀ c a, DoorNotice.join c a ∈ d.notices after ↔ d.attention[c] = none ∧ after[c] = some a) ∧
    ∃ (ds : List Cam) (cs js : List (Cam × Attention)),
      d.notices after = ds.map DoorNotice.departure ++ cs.map (fun p => .change p.1 p.2) ++ js.map (fun p => .join p.1 p.2) ∧
      ds.Sublist d.attentionOrder ∧ (cs.map (·.1)).Sublist d.attentionOrder ∧ (js.map (·.1)).Sublist d.attentionOrder) ∧
  (∀ d : DoorUnit,
     (∀ c : Cam, c ∈ d.attentionOrder) ∧ d.attentionOrder.Pairwise (fun x y => d.orderKey x < d.orderKey y) ∧
     ∀ c : Cam,
       (∀ i : Door, d.map[i].camera = some c → (∀ j : Door, j < i → d.map[j].camera ≠ some c) →
         let rank := if d.cab = .b then 5 - d.map[i].rank else d.map[i].rank
         let left := if d.cab = .b then d.map[i].side = .right else d.map[i].side = .left
         (left → d.orderKey c = (2 * rank + 0) * 14 + c.val) ∧ (¬ left → d.orderKey c = (2 * rank + 1) * 14 + c.val)) ∧
       ((∀ i : Door, d.map[i].camera ≠ some c) → d.orderKey c = 12 * 14 + c.val)) ∧
  ∀ (s : State) (more : List DoorNotice),
    let released := match s.doors.cab with
      | .none => false
      | .a => (s.screen .a).setup.showReleased
      | .b => (s.screen .b).setup.showReleased
    let after : Vector (Option Attention) 14 := Vector.ofFn fun c => s.doors.attentionOf released c
    let notices := s.doors.notices after ++ more
    let written := s.setDoors { s.doors with attention := after }
    let joined := s.doors.attentionOrder.filter fun c => decide (s.doors.attention[c] = none ∧ after[c] ≠ none)
    let listed := s.doors.attentionOrder.filterMap fun c => after[c].map fun a => (c, a)
    let queued := fun t : State => joined.foldl (fun t c => t.queueForExamination c) t
    let snapshot := fun i : ScreenId => written.setSplit i ((written.split i).snapshot written.doors s.now listed)
    (notices = [] → s.recomputeAttention more = written) ∧
    (s.doors.cab = .none → s.recomputeAttention more = queued written ∧ s.recomputeToSnapshot = queued written) ∧
    (s.doors.cab = .a → s.recomputeToSnapshot = queued (snapshot .a) ∧
      (notices ≠ [] → s.recomputeAttention more = queued (written.plannerBatch .a notices))) ∧
    (s.doors.cab = .b → s.recomputeToSnapshot = queued (snapshot .b) ∧
      (notices ≠ [] → s.recomputeAttention more = queued (written.plannerBatch .b notices)))

/-! ## Screens, layouts and splits (spec/05, spec/06) -/

/-- SCREEN_SETUP (R81): the tests in order, the eight fields, and the show-released notice of the active screen (R77); that an
enable or show-released byte other than 00h and 01h is BAD_FIELD is log 36. -/
def Obligations.ScreenSetup : Prop :=
  ∀ (s : State) (tag : Byte) (body : List Byte), s.TakesRequest → body.length = 13 →
    let width := field2 body 2
    let height := field2 body 4
    let rate := field1 body 6
    let holdOver := field2 body 7
    let freezeLimit := field2 body 9
    let answered := fun (t : State) (a : Answer) => exec (.screenSetup tag body) s = .next (t.replied .screenSetup tag a)
    (1 < field1 body 0 → answered s (.badField 0)) ∧
    ∀ i : ScreenId, field1 body 0 = (match i with | .a => 0 | .b => 1) →
      if 1 < field1 body 1 then answered s (.badField 1)
      else if ¬(800 ≤ width ∧ width ≤ 1920 ∧ width % 16 = 0) then answered s (.badField 2)
      else if ¬(480 ≤ height ∧ height ≤ 1200 ∧ height % 8 = 0) then answered s (.badField 3)
      else if ¬(rate = 25 ∨ rate = 30) then answered s (.badField 4)
      else if 20000 < holdOver then answered s (.badField 5)
      else if ¬(100 ≤ freezeLimit ∧ freezeLimit ≤ 5000) then answered s (.badField 6)
      else if ¬(field1 body 11 ≤ 15 ∨ field1 body 11 = 255) then answered s (.badField 7)
      else if 1 < field1 body 12 then answered s (.badField 8)
      else ∀ fallback : Option LayoutNo,
        (field1 body 11 = 255 ∧ fallback = none) ∨ (∃ l : LayoutNo, field1 body 11 = l.val ∧ fallback = some l) →
        (∀ l, fallback = some l → s.layouts[l] = [] → answered s .state) ∧
        ((∀ l, fallback = some l → s.layouts[l] ≠ []) →
          let setup := ScreenSetup.mk (decide (field1 body 1 = 1)) width height rate holdOver freezeLimit fallback
            (decide (field1 body 12 = 1))
          let t := s.setScreen i { s.screen i with setup := setup }
          if s.doors.activeScreen = some i ∧ (s.screen i).setup.showReleased ≠ setup.showReleased ∧ s.doors.fresh = true
          then answered (t.recomputeAttention []) (.ok [])
          else answered t (.ok []))

/-- LAYOUT_WRITE (R87): the tests in order, the first refused field of the first refused tile record, the layout replaced whole;
a body's tile records are read as they were written. The order of the tests of one tile record, and that x + w out of range names x
and y + h names y, is log 37. -/
def Obligations.LayoutWrite : Prop :=
  (∀ (n : Byte) (tiles : List RawTile), tiles.length < 256 →
    (∀ t ∈ tiles, t.x < 65536 ∧ t.y < 65536 ∧ t.w < 65536 ∧ t.h < 65536 ∧ t.source < 256 ∧ t.alternate < 256 ∧
      t.label.length < 256) →
    layoutTiles (n :: byteOf tiles.length :: tiles.flatMap fun t =>
      bytes2 t.x ++ bytes2 t.y ++ bytes2 t.w ++ bytes2 t.h
        ++ [byteOf t.source, byteOf t.alternate, byteOf t.label.length] ++ t.label) = some tiles) ∧
  (∀ t : RawTile,
    t.fault = if t.w < 64 then some 2 else if t.h < 48 then some 3 else if 1920 < t.x + t.w then some 0
      else if 1200 < t.y + t.h then some 1
      else if ¬(t.source ≤ 13 ∨ t.source = 0x40 ∨ t.source = 0x41 ∨ t.source = 0x42) then some 4
      else if t.alternate ≠ 255 ∧ (13 < t.alternate ∨ t.alternate = t.source ∨ t.source = 0x42) then some 5
      else if 12 < t.label.length ∨ (∃ b ∈ t.label, b.toNat < 0x20 ∨ 0x7E < b.toNat) then some 6 else none) ∧
  ∀ (s : State) (tag : Byte) (body : List Byte) (tiles : List RawTile), s.TakesRequest → body.length ≤ 1040 →
    layoutTiles body = some tiles →
    let answered := fun (t : State) (a : Answer) => exec (.layoutWrite tag body) s = .next (t.replied .layoutWrite tag a)
    (15 < field1 body 0 → answered s (.badField 0)) ∧
    ∀ l : LayoutNo, field1 body 0 = l.val →
      let designated := (s.screen .a).setup.fallback = some l ∨ (s.screen .b).setup.fallback = some l
      (12 < tiles.length → answered s (.badField 1)) ∧
      (∀ before t after f, tiles.length ≤ 12 → tiles = before ++ t :: after → (∀ x ∈ before, x.fault = none) →
        t.fault = some f → answered s (.badField (2 + 7 * before.length + f))) ∧
      (tiles = [] → designated → answered s .state) ∧
      (tiles.length ≤ 12 → (∀ t ∈ tiles, t.fault = none) → (tiles ≠ [] ∨ ¬ designated) →
        ∃ records : List TileRecord, records.length = tiles.length ∧
          (∀ (k : Nat) (t : RawTile), tiles[k]? = some t → ∃ x : TileRecord, records[k]? = some x ∧
            x.rect = ⟨t.x, t.y, t.w, t.h⟩ ∧ x.label = t.label ∧
            (∀ c : Cam, x.source = .camera c ↔ t.source = c.val) ∧ (x.source = .front ↔ t.source = 0x40) ∧
            (x.source = .rear ↔ t.source = 0x41) ∧ (x.source = .blank ↔ t.source = 0x42) ∧
            ∀ c : Cam, x.alternate = some c ↔ t.alternate = c.val) ∧
          answered (s.setLayouts (s.layouts.set l.val records l.isLt)) (.ok []))

/-- LAYOUT_SELECT and LAYOUT_FORCE (R90, R91): the layout is set, and shown and held by follow from the view that R88 selects
in the state after the request; the cases of R88 in their order. That the screen is named when both fields are refused is log 27. -/
def Obligations.ViewSelection : Prop :=
  (∀ (s : State) (i : ScreenId),
    let r := s.screen i
    let active := s.doors.activeScreen = some i
    let alive := (s.split i).entries ≠ [] ∨ (s.split i).holdOver ≠ none
    (r.setup.enable = false → s.selectView i = ⟨.off, none, none⟩) ∧
    (r.setup.enable = true →
      (∀ l, active → s.doors.fresh = false → r.setup.fallback = some l → s.selectView i = ⟨.fallback, some l, none⟩) ∧
      (¬ active ∨ s.doors.fresh = true ∨ r.setup.fallback = none →
        (∀ l, r.forced = some l → s.selectView i = ⟨.forced, some l, none⟩) ∧
        (r.forced = none → active → alive → s.selectView i = ⟨.split, none, (s.split i).pattern⟩) ∧
        (r.forced = none → ¬ active ∨ ¬ alive →
          (∀ l, r.requested = some l → s.selectView i = ⟨.base, some l, none⟩) ∧
          (r.requested = none → s.selectView i = ⟨.unconfigured, none, none⟩))))) ∧
  ∀ (s : State) (tag n m : Byte), s.TakesRequest →
    let selected := fun (t : State) (a : Answer) => exec (.layoutSelect tag [n, m]) s = .next (t.replied .layoutSelect tag a)
    let forced := fun (t : State) (a : Answer) => exec (.layoutForce tag [n, m]) s = .next (t.replied .layoutForce tag a)
    let heldBy := fun v : ViewMode => (match v with
      | .off => 0x00#8 | .unconfigured => 0x01#8 | .base => 0x02#8 | .split => 0x03#8 | .forced => 0x04#8
      | .fallback => 0x05#8)
    (1 < n.toNat → selected s (.badField 0) ∧ forced s (.badField 0)) ∧
    ∀ i : ScreenId, n.toNat = (match i with | .a => 0 | .b => 1) →
      (15 < m.toNat → m ≠ 0xFF#8 → selected s (.badField 1) ∧ forced s (.badField 1)) ∧
      ∀ l : Option LayoutNo, (m = 0xFF#8 ∧ l = none) ∨ (∃ x : LayoutNo, m.toNat = x.val ∧ l = some x) →
        let asked := s.setScreen i { s.screen i with requested := l }
        let held := s.setScreen i { s.screen i with forced := l }
        let m1 := (asked.selectView i).mode
        let m2 := (held.selectView i).mode
        ((m1 = .base ∨ m1 = .unconfigured) → selected asked (.ok [0x00, 0xFF])) ∧
        (m1 ≠ .base → m1 ≠ .unconfigured → selected asked (.ok [0x01, heldBy m1])) ∧
        (m2 = .base ∨ m2 = .unconfigured ∨ m2 = .forced → forced held (.ok [0x00, 0xFF])) ∧
        (m2 ≠ .base → m2 ≠ .unconfigured → m2 ≠ .forced → forced held (.ok [0x01, heldBy m2]))

/-- OUTPUT_FRAME_END (R83, R84): the pinned set is unpinned and the next output frame start is taken in the same event: the
count, the view, the resolved tiles, the new pinned set in ascending order, the period, and VIEW with cause FRAME on a difference. The
period goes on in its cycle, and begins anew at a new rate and at a start taken at once (R84, R85), as CAB_SET takes one. The content
of VIEW (R101). HOLD_OVER_TIMER_EXPIRY clears the split (R116, R117). Neither does anything before its time (log 4). -/
def Obligations.OutputFrames : Prop :=
  (∀ (s : State) (i : ScreenId) (anew : Bool),
    let r := s.screen i
    let counted := s.setScreen i { r with frameCount := r.frameCount + 1 }
    let view := counted.selectView i
    let resolved := (counted.resolveTiles i (counted.builtTiles i view)).1
    let tiles := (counted.resolveTiles i (counted.builtTiles i view)).2
    let place := if anew = true ∨ r.setup.rate ≠ r.period.rate then 0 else r.period.place + 1
    let interval := if r.setup.rate = 25 then 40 else if place = 2 then 34 else 33
    let started := resolved.setScreen i { r with
      view := view, tiles := tiles, pinned := pinnedSlots tiles, frameCount := r.frameCount + 1, frameStart := s.now,
      drawn := r.setup, period := ⟨s.elapsed + interval, r.setup.rate, place⟩ }
    (view = r.view → s.startOutputFrame i anew = started) ∧
    (view ≠ r.view → s.startOutputFrame i anew = started.raiseView i .frame)) ∧
  (∀ tiles : List ResolvedTile, (∀ slot, slot ∈ pinnedSlots tiles ↔ ∃ t ∈ tiles, t.slot = some slot) ∧
    (pinnedSlots tiles).Pairwise (fun x y => x < y)) ∧
  (∀ (s : State) (i : ScreenId) (cause : ViewCause),
    let r := s.screen i
    s.endOutputFrame i = (s.setSlots (r.pinned.foldl (fun m slot => m.unpin slot (readerOf i)) s.slots)).setScreen i
      { r with pinned := [] } ∧
    s.raiseView i cause = s.raise (.view i) (.view
      { screen := i, cause := cause, view := r.view, requested := r.requested, forced := r.forced,
        overflow := if r.view.mode = .split then (s.split i).outside.length else 0, time := s.now })) ∧
  (∀ (s : State) (i : ScreenId), s.Unasked →
    (s.elapsed < (s.screen i).period.ends → exec (.outputFrameEnd i) s = .next s.sendIfDue) ∧
    ((s.screen i).period.ends ≤ s.elapsed →
      exec (.outputFrameEnd i) s = .next ((s.endOutputFrame i).startOutputFrame i false).sendIfDue)) ∧
  ∀ (s : State) (i : ScreenId), s.Unasked →
    ((∀ d, (s.split i).holdOver = some d → s.elapsed < d) → exec (.holdOverTimerExpiry i) s = .next s.sendIfDue) ∧
    ∀ d, (s.split i).holdOver = some d → d ≤ s.elapsed → exec (.holdOverTimerExpiry i) s
      = .next (s.setSplit i { entries := [], pattern := none, outside := [], holdOver := none }).sendIfDue

/-- The tiles of a view other than SPLIT, whose tiles SplitTilesAndSnapshots gives (R89); that the overflow of the UNCONFIGURED tile
and of a layout's tiles is 0 is the model's choice (log 39). They are resolved one after the other in list order, each on what the
ones before it left; those that are left out take no place (R93, R96). The camera of FRONT and REAR by the cab and the end map
(R73). A tile is resolved (R93 to R95, R98, R100): clipped, left out when wholly outside the screen; empty with source NONE; its
primary shown unless it is not shown well and its alternate is; the shown camera's newest READY slot pinned, with its capture
time and the SOILED and FROZEN markers, or NO_PICTURE; that a tile without a picture keeps its shown camera and the ALTERNATE marker
is log 20. The picture of a screen output (R97): none in OFF, blank where no tile covers, else that of the last tile that covers the
pixel. The frame of a slot stands within the unclipped rectangle with one of its sides, its proportions kept to less than a pixel and
centred to a pixel; the rest is blank, and so is a tile without a slot, where neither label nor markers cover. An empty label and an
empty row of markers cover nothing. At its stored size a frame shows its stored pixels; where these stand in the slot is log 12. Which way a length is rounded, and which
pixels a label and markers cover, is free (log 29). -/
def Obligations.TileResolution : Prop :=
  (∀ (s : State) (i : ScreenId) (v : View),
    let bare := Markers.mk false false false false false false false false false
    (v.mode = .off → s.builtTiles i v = []) ∧
    (v.mode = .unconfigured → s.builtTiles i v = [BuiltTile.mk ⟨0, 0, (s.screen i).setup.width, (s.screen i).setup.height⟩
      .blank none [] { bare with unconfigured := true } 0]) ∧
    ∀ l, v.mode = .base ∨ v.mode = .forced ∨ v.mode = .fallback → v.layout = some l →
      s.builtTiles i v = s.layouts[l].map fun t => BuiltTile.mk t.rect t.source t.alternate t.label bare 0) ∧
  (∀ (s : State) (i : ScreenId) (t : BuiltTile) (rest : List BuiltTile),
    let first := s.resolveTile i t
    let others := first.1.resolveTiles i rest
    s.resolveTiles i [] = (s, []) ∧ s.resolveTiles i (t :: rest) = (others.1, first.2.toList ++ others.2)) ∧
  (∀ d : DoorUnit,
    (d.cab = .none → d.roleCamera true = none ∧ d.roleCamera false = none) ∧
    (d.cab = .a → d.roleCamera true = d.endA ∧ d.roleCamera false = d.endB) ∧
    (d.cab = .b → d.roleCamera true = d.endB ∧ d.roleCamera false = d.endA)) ∧
  (∀ (s : State) (i : ScreenId) (t : BuiltTile),
    let setup := (s.screen i).setup
    let inside := t.rect.x < setup.width ∧ t.rect.y < setup.height
    let rect : Rect := ⟨t.rect.x, t.rect.y, min t.rect.w (setup.width - t.rect.x), min t.rect.h (setup.height - t.rect.y)⟩
    let well := fun c : Option Cam => ∃ n, c = some n ∧ (s.cam n).state = .running ∧
      ¬((s.soilOf n).state = .soiled ∨ ((s.soilOf n).state = .verify ∧ (s.soilOf n).wasSoiled = true))
    (¬ inside → s.resolveTile i t = (s, none)) ∧
    (inside → t.source = .blank →
      s.resolveTile i t = (s, some ⟨rect, t.rect, t.label, none, false, none, none, t.markers, t.overflow⟩)) ∧
    ∀ primary : Option Cam,
      (∃ n, t.source = .camera n ∧ primary = some n) ∨ (t.source = .front ∧ primary = s.doors.roleCamera true) ∨
        (t.source = .rear ∧ primary = s.doors.roleCamera false) → inside →
      ∀ alternate : Bool, (alternate = true ↔ ¬ well primary ∧ well t.alternate) →
        let shown := if alternate then t.alternate else primary
        let bare := { t.markers with alternate := alternate }
        (∀ m, (shown = none ∨ ∃ c, shown = some c ∧ s.slots.pinNewest c (readerOf i) = (m, none)) →
          s.resolveTile i t = (s, some
            ⟨rect, t.rect, t.label, shown, alternate, none, none, { bare with noPicture := true }, t.overflow⟩)) ∧
        ∀ c m slot f, shown = some c → s.slots.pinNewest c (readerOf i) = (m, some slot) → s.slots.frame slot = some f →
          let soiled := (s.soilOf c).state = .soiled ∨ ((s.soilOf c).state = .verify ∧ (s.soilOf c).wasSoiled = true)
          s.resolveTile i t = (s.setSlots m, some ⟨rect, t.rect, t.label, shown, alternate, some slot, some f.time,
            { bare with soiled := decide soiled, frozen := decide (setup.freezeLimit < (s.now - f.time).toNat) },
            t.overflow⟩)) ∧
  (∀ (s : State) (i : ScreenId),
    ((s.screen i).view.mode = .off → s.outputPicture i = none) ∧
    ((s.screen i).view.mode ≠ .off → ∃ picture, s.outputPicture i = some picture ∧ ∀ x y,
      let covers := fun t : ResolvedTile =>
        t.rect.x ≤ x ∧ x < t.rect.x + t.rect.w ∧ t.rect.y ≤ y ∧ y < t.rect.y + t.rect.h
      ((∀ t ∈ (s.screen i).tiles, ¬ covers t) → picture x y = .blank) ∧
      ∀ before t behind, (s.screen i).tiles = before ++ t :: behind → covers t → (∀ u ∈ behind, ¬ covers u) →
        let row := t.markers.drawn t.overflow
        let across := x - t.rect.x
        let down := y - t.rect.y
        let plain := (row = [] ∨ Config.markersCover (row.map (·.ctorIdx)) (overflowShown row) t.rect.w across down = false) ∧
          (t.label = [] ∨ Config.labelCovers t.label t.rect.w across (t.rect.h - 1 - down) = false)
        picture x y = s.tilePixel (s.drawTile t) x y ∧ (plain → t.slot = none → picture x y = .blank) ∧
        (∀ slot r, plain → (s.drawTile t).picture = some (slot, r) →
          let inside := r.x ≤ x ∧ x < r.x + r.w ∧ r.y ≤ y ∧ y < r.y + r.h
          (¬ inside → picture x y = .blank) ∧ (inside → picture x y = s.framePixel slot r.w r.h (x - r.x) (y - r.y))) ∧
        ∀ slot f, plain → t.slot = some slot → s.slots.frame slot = some f → 0 < t.full.w → 0 < t.full.h →
          f.geometry = ⟨t.full.w, t.full.h⟩ → t.full.x ≤ x → x < t.full.x + t.full.w → t.full.y ≤ y →
          y < t.full.y + t.full.h →
          let pixel := slotAddress slot (((y - t.full.y) * t.full.w + (x - t.full.x)) * 2)
          picture x y = .picture (Memory.read s.pixels pixel) (Memory.read s.pixels (pixel + 1)))) ∧
  ∀ (s : State) (t : ResolvedTile) (slot : SlotNo) (f : FrameFields), t.slot = some slot → s.slots.frame slot = some f →
    0 < f.geometry.width → 0 < f.geometry.height →
    ∃ r, (s.drawTile t).picture = some (slot, r) ∧
      ((r.w = t.full.w ∧ f.geometry.width * r.h < f.geometry.height * t.full.w + f.geometry.width ∧
          f.geometry.height * t.full.w < f.geometry.width * r.h + f.geometry.width) ∨
        (r.h = t.full.h ∧ f.geometry.height * r.w < f.geometry.width * t.full.h + f.geometry.height ∧
          f.geometry.width * t.full.h < f.geometry.height * r.w + f.geometry.height)) ∧
      t.full.x ≤ r.x ∧ r.x + r.w ≤ t.full.x + t.full.w ∧ t.full.y ≤ r.y ∧ r.y + r.h ≤ t.full.y + t.full.h ∧
      (let left := r.x - t.full.x
       let right := t.full.w - r.w - left
       left ≤ right + 1 ∧ right ≤ left + 1) ∧
      let top := r.y - t.full.y
      let bottom := t.full.h - r.h - top
      top ≤ bottom + 1 ∧ bottom ≤ top + 1

/-- A batch of notices at a planner (R107): the notices in their order, the readmissions (R111), a force-end notice when an entry
at class 1 was not at class 1 before (R92, R111), then the hold-over test. A departure makes the camera's entry DEPARTED in its
place, or takes the camera out of the outside set; named in neither, it changes nothing (R109). An attention change is taken by the
entry in its place, or by the camera outside, which is then offered a place as a join; named in neither, it changes nothing (R110).
A map notice re-sorts the list and the outside set with every entry's fields kept (R106). Readmissions take the outside camera of
best class, the first in attention order of equals, while a DEPARTED entry is left, and end with none left or none outside (R111). -/
def Obligations.PlannerBatches : Prop :=
  (∀ (r : SplitRecord) (c : Cam),
     (r.departure c).entries = r.entries.map (fun e => if e.camera = c then { e with attention := none } else e) ∧
     (r.departure c).outside = r.outside.filter (fun o => decide (o.camera ≠ c)) ∧
     (r.departure c).pattern = r.pattern ∧ (r.departure c).holdOver = r.holdOver ∧
     ((∀ e ∈ r.entries, e.camera ≠ c) → (∀ o ∈ r.outside, o.camera ≠ c) → r.departure c = r)) ∧
  (∀ (r : SplitRecord) (d : DoorUnit) (now : Time) (c : Cam) (a : Attention),
     ((∃ e ∈ r.entries, e.camera = c) → r.change d now c a =
       { r with entries := r.entries.map fun e => if e.camera = c then { e with attention := some a } else e }) ∧
     ((∀ e ∈ r.entries, e.camera ≠ c) → (∃ o ∈ r.outside, o.camera = c) → r.change d now c a =
       { r with outside := r.outside.filter fun o => decide (o.camera ≠ c) }.join d now c a) ∧
     ((∀ e ∈ r.entries, e.camera ≠ c) → (∀ o ∈ r.outside, o.camera ≠ c) → r.change d now c a = r)) ∧
  (∀ (r : SplitRecord) (d : DoorUnit),
     (r.remap d).entries.Perm r.entries ∧
     (r.remap d).entries.Pairwise (fun x y => d.orderKey x.camera ≤ d.orderKey y.camera) ∧
     (r.remap d).outside.Perm r.outside ∧
     (r.remap d).outside.Pairwise (fun x y => d.orderKey x.camera ≤ d.orderKey y.camera) ∧
     (r.remap d).pattern = r.pattern ∧ (r.remap d).holdOver = r.holdOver) ∧
  (∀ (r : SplitRecord) (d : DoorUnit) (now : Time) (n : Nat),
     ((∀ e ∈ r.entries, e.attention ≠ none) ∨ r.outside = [] → r.readmit d now n = r) ∧
     (∀ before o behind, (∃ e ∈ r.entries, e.attention = none) → r.outside = before ++ o :: behind →
       (∀ x ∈ before, o.attention.cls.number < x.attention.cls.number) →
       (∀ x ∈ behind, o.attention.cls.number ≤ x.attention.cls.number) →
       r.readmit d now (n + 1) = ({ r with outside := r.outside.filter fun x => decide (x.camera ≠ o.camera) }.join d now
         o.camera o.attention).readmit d now n) ∧
     ((r.readmit d now r.outside.length).outside = [] ∨
       ∀ e ∈ (r.readmit d now r.outside.length).entries, e.attention ≠ none)) ∧
  ∀ (s : State) (i : ScreenId) (notices : List DoorNotice),
    let before := s.split i
    let told := notices.foldl (fun (r : SplitRecord) n => match n with
      | .departure c => r.departure c
      | .change c a => r.change s.doors s.now c a
      | .join c a => r.join s.doors s.now c a
      | .newMap => r.remap s.doors) before
    let after := told.readmit s.doors s.now told.outside.length
    let tested := after.testHoldOver (s.screen i).setup.holdOver s.elapsed
    let urgent := fun (r : SplitRecord) (c : Cam) => ∃ e ∈ r.entries, e.camera = c ∧ ∃ a, e.attention = some a ∧ a.cls = .one
    let risen := ∃ c, urgent after c ∧ ¬ urgent before c
    (¬ risen ∨ (s.screen i).forced = none → s.plannerBatch i notices = s.setSplit i tested) ∧
    (risen → (s.screen i).forced ≠ none → s.plannerBatch i notices =
      (((s.setSplit i after).setScreen i { s.screen i with forced := none }).raiseView i .forceEnded).setSplit i tested)

/-- A join by the four steps of R108: the camera's own entry, a new entry at its place, a full list whose last DEPARTED entry, or
whose last entry of the worst class worse than the joiner's, is replaced, with the displaced camera entering the outside set at its
place, or the joiner entering that set; the pattern grows in the join if it must (R112). In a list that still waits for its map notice
the place is the model's choice (log 25). The rectangles of every place of every
pattern (R112) and the hold-over test (R115). -/
def Obligations.JoinsPatternsHoldOver : Prop :=
  (∀ (r : SplitRecord) (d : DoorUnit) (now : Time) (c : Cam) (a : Attention),
    let entry : SplitEntry := ⟨c, some a, now⟩
    let t := r.join d now c a
    let places := fun p : Option Pattern =>
      (match p with | none => 0 | some .one => 1 | some .two => 2 | some .four => 4 | some .six => 6 : Nat)
    let smallest := fun n : Nat => if n ≤ 1 then Pattern.one else if n ≤ 2 then .two else if n ≤ 4 then .four else .six
    let grown := if places r.pattern < t.entries.length then some (smallest t.entries.length) else r.pattern
    let placed := fun (kept entries : List SplitEntry) => ∃ before behind, kept = before ++ behind ∧
      entries = before ++ entry :: behind ∧ (∀ e ∈ before, d.orderKey e.camera ≤ d.orderKey c) ∧
      ∀ e, behind.head? = some e → d.orderKey c < d.orderKey e.camera
    let outside := fun o : Outside => ∃ before behind, r.outside = before ++ behind ∧ t.outside = before ++ o :: behind ∧
      (∀ x ∈ before, d.orderKey x.camera ≤ d.orderKey o.camera) ∧
      ∀ x, behind.head? = some x → d.orderKey o.camera < d.orderKey x.camera
    ((∃ e ∈ r.entries, e.camera = c) → t = { r with
      entries := r.entries.map fun e => if e.camera = c then { e with attention := some a } else e }) ∧
    ((∀ e ∈ r.entries, e.camera ≠ c) → r.entries.length < 6 →
      placed r.entries t.entries ∧ t.pattern = grown ∧ t.outside = r.outside ∧ t.holdOver = r.holdOver) ∧
    ((∀ e ∈ r.entries, e.camera ≠ c) → 6 ≤ r.entries.length →
      (∀ before old behind, r.entries = before ++ old :: behind →
        let kept := r.entries.filter fun e => decide (e.camera ≠ old.camera)
        (old.attention = none → (∀ e ∈ behind, e.attention ≠ none) →
          placed kept t.entries ∧ t.pattern = grown ∧ t.outside = r.outside ∧ t.holdOver = r.holdOver) ∧
        ∀ b, old.attention = some b → (∀ e ∈ r.entries, e.attention ≠ none) → a.cls.number < b.cls.number →
          (∀ e ∈ before, ∀ x, e.attention = some x → x.cls.number ≤ b.cls.number) →
          (∀ e ∈ behind, ∀ x, e.attention = some x → x.cls.number < b.cls.number) →
          placed kept t.entries ∧ t.pattern = grown ∧ outside ⟨old.camera, b⟩ ∧ t.holdOver = r.holdOver) ∧
      ((∀ e ∈ r.entries, ∃ b, e.attention = some b ∧ b.cls.number ≤ a.cls.number) →
        t.entries = r.entries ∧ t.pattern = r.pattern ∧ t.holdOver = r.holdOver ∧ outside ⟨c, a⟩))) ∧
  (∀ (p : Option Pattern) (n : Nat), n ≤ 6 →
    let places := match p with | none => 0 | some .one => 1 | some .two => 2 | some .four => 4 | some .six => 6
    (n ≤ places → grownPattern p n = p) ∧
    (places < n → grownPattern p n = some (if n ≤ 1 then .one else if n ≤ 2 then .two else if n ≤ 4 then .four else .six))) ∧
  (∀ w h : Nat,
    Pattern.rect .one w h 0 = ⟨0, 0, w, h⟩ ∧
    Pattern.rect .two w h 0 = ⟨0, 0, w / 2, h⟩ ∧ Pattern.rect .two w h 1 = ⟨w / 2, 0, w / 2, h⟩ ∧
    Pattern.rect .four w h 0 = ⟨0, 0, w / 2, h / 2⟩ ∧ Pattern.rect .four w h 1 = ⟨w / 2, 0, w / 2, h / 2⟩ ∧
    Pattern.rect .four w h 2 = ⟨0, h / 2, w / 2, h / 2⟩ ∧ Pattern.rect .four w h 3 = ⟨w / 2, h / 2, w / 2, h / 2⟩ ∧
    Pattern.rect .six w h 0 = ⟨0, 0, w / 3, h / 2⟩ ∧ Pattern.rect .six w h 1 = ⟨w / 3, 0, w / 3, h / 2⟩ ∧
    Pattern.rect .six w h 2 = ⟨2 * (w / 3), 0, w - 2 * (w / 3), h / 2⟩ ∧
    Pattern.rect .six w h 3 = ⟨0, h / 2, w / 3, h / 2⟩ ∧ Pattern.rect .six w h 4 = ⟨w / 3, h / 2, w / 3, h / 2⟩ ∧
    Pattern.rect .six w h 5 = ⟨2 * (w / 3), h / 2, w - 2 * (w / 3), h / 2⟩) ∧
  ∀ (r : SplitRecord) (holdOver elapsed : Nat),
    let alone := ∀ e ∈ r.entries, e.attention = none
    (r.entries = [] → r.testHoldOver holdOver elapsed = r) ∧
    (r.entries ≠ [] → alone → r.holdOver ≠ none → r.testHoldOver holdOver elapsed = r) ∧
    (r.entries ≠ [] → alone → r.holdOver = none → holdOver = 0 →
      r.testHoldOver holdOver elapsed = { entries := [], pattern := none, outside := [], holdOver := none }) ∧
    (r.entries ≠ [] → alone → r.holdOver = none → holdOver ≠ 0 →
      r.testHoldOver holdOver elapsed = { r with holdOver := some (elapsed + holdOver) }) ∧
    (¬ alone → r.testHoldOver holdOver elapsed = { r with holdOver := none })

/-- The tiles of a split (R113, R114): one for each place of the pattern, showing the entry of its place with the alternate of its
camera's first mapped door and the marker of its class, or blank; the last carries OVERFLOW(n) while the outside set is not empty.
That the overflow of any other tile is 0 is the model's choice (log 39). A snapshot clears the split and takes its cameras as joins
in its order (R118): an empty one leaves the split empty, and one of at most six different cameras leaves none outside. -/
def Obligations.SplitTilesAndSnapshots : Prop :=
  (∀ (s : State) (i : ScreenId) (v : View), v.mode = .split → s.builtTiles i v =
     (s.split i).tiles s.doors (s.screen i).setup.width (s.screen i).setup.height) ∧
  (∀ (r : SplitRecord) (d : DoorUnit) (w h : Nat),
     (r.pattern = none → r.tiles d w h = []) ∧
     ∀ p, r.pattern = some p →
       let places := (match p with | .one => 1 | .two => 2 | .four => 4 | .six => 6 : Nat)
       (r.tiles d w h).length = places ∧ ∀ k, k < places → ∃ t, (r.tiles d w h)[k]? = some t ∧
         let carries := decide (k + 1 = places ∧ r.outside ≠ [])
         let shows := fun obstruction fault closed =>
           Markers.mk obstruction fault closed false false false false carries false
         t.rect = p.rect w h k ∧ t.label = [] ∧ t.overflow = (if carries then r.outside.length else 0) ∧
         (r.entries[k]? = none → t.source = .blank ∧ t.alternate = none ∧ t.markers = shows false false false) ∧
         ∀ e, r.entries[k]? = some e → t.source = .camera e.camera ∧
           (∀ x : Door, d.map[x].camera = some e.camera → (∀ y : Door, y < x → d.map[y].camera ≠ some e.camera) →
             t.alternate = d.map[x].alternate) ∧
           ((∀ x : Door, d.map[x].camera ≠ some e.camera) → t.alternate = none) ∧
           (e.attention = none → t.markers = shows false false true) ∧
           ∀ a, e.attention = some a →
             t.markers = shows (decide (a.cls = .one)) (decide (a.cls = .two ∧ a.deciding = .fault)) false) ∧
  ∀ (r : SplitRecord) (d : DoorUnit) (now : Time) (cameras : List (Cam × Attention)),
    let empty : SplitRecord := { entries := [], pattern := none, outside := [], holdOver := none }
    r.snapshot d now cameras = cameras.foldl (fun t p => t.join d now p.1 p.2) empty ∧ r.snapshot d now [] = empty ∧
    (r.snapshot d now cameras).holdOver = none ∧
    ((cameras.map (·.1)).Nodup → cameras.length ≤ 6 → (r.snapshot d now cameras).outside = [] ∧
      (r.snapshot d now cameras).entries.Perm (cameras.map fun p => ⟨p.1, some p.2, now⟩))

/-! ## The soiling monitor (spec/07) -/

/-- SOIL_SETUP (R122, R142; the cause from LEARNING is log 21, and that the first refused field is named log 27), SOIL_TUNE (R123) and SOIL_LEARN (R140). A change of state is
handed on, and a heater-off requested after it (R135, R136). -/
def Obligations.SoilSettings : Prop :=
  (∀ (s : State) (tag n w h : Byte), s.TakesRequest →
    let answered := fun (t : State) (a : Answer) => exec (.soilSetup tag [n, w, h]) s = .next (t.replied .soilSetup tag a)
    (13 < n.toNat → answered s (.badField 0)) ∧
    (n.toNat ≤ 13 → 1 < w.toNat → answered s (.badField 1)) ∧
    (n.toNat ≤ 13 → w.toNat ≤ 1 → 1 < h.toNat → answered s (.badField 2)) ∧
    ∀ c : Cam, n.toNat = c.val → h.toNat ≤ 1 →
      let r := s.soilOf c
      let allowed := decide (h = 1#8)
      let cleared := { r with
        heaterAllowed := allowed, window := ZoneSums.zero, suspectCount := 0, cleanCount := 0, trialCount := 0,
        heaterSpent := false, wasSoiled := false }
      (w = 1#8 → r.watch = true → answered (s.setSoilOf c { r with heaterAllowed := allowed }) (.ok [])) ∧
      (w = 0#8 → r.watch = false → answered (s.setSoilOf c { r with heaterAllowed := allowed }) (.ok [])) ∧
      (w = 1#8 → r.watch = false →
        let state := if r.baseline = none then SoilState.unlearned else .clean
        answered ((s.setSoilOf c { cleared with watch := true, state := state, heaterOffOwed := false }).handSoilOn c r.state
          .setup) (.ok [])) ∧
      (w = 0#8 → r.watch = true →
        let off := { cleared with
          watch := false, state := .unwatched, learned := ZoneSums.zero, beforeLearning := none, learnJob := none }
        let handed := (s.setSoilOf c off).handSoilOn c r.state (if r.state = .learning then .learnEnd else .setup)
        let ended := handed.endJob? r.learnJob .aborted []
        answered (if r.state = .heating then ended.requestHeaterOff c else ended) (.ok []))) ∧
  (∀ (s : State) (tag n l r z k m t : Byte), s.TakesRequest →
    let answered := fun (u : State) (a : Answer) =>
      exec (.soilTune tag [n, l, r, z, k, m, t]) s = .next (u.replied .soilTune tag a)
    if ¬(1 ≤ n.toNat ∧ n.toNat ≤ 16) then answered s (.badField 0)
    else if ¬(4 ≤ l.toNat ∧ l.toNat ≤ 32) then answered s (.badField 1)
    else if ¬(1 ≤ r.toNat ∧ r.toNat ≤ 15) then answered s (.badField 2)
    else if ¬(1 ≤ z.toNat ∧ z.toNat ≤ 48) then answered s (.badField 3)
    else if ¬(1 ≤ k.toNat ∧ k.toNat ≤ 15) then answered s (.badField 4)
    else if ¬(1 ≤ m.toNat ∧ m.toNat ≤ 15) then answered s (.badField 5)
    else if ¬(1 ≤ t.toNat ∧ t.toNat ≤ 30) then answered s (.badField 6)
    else
      let tuning := Tuning.mk n.toNat l.toNat r.toNat z.toNat k.toNat m.toNat t.toNat
      let records := Vector.ofFn fun c : Cam => { s.soilOf c with window := ZoneSums.zero }
      answered (s.setSoil { s.soil with tuning := tuning, records := records }) (.ok [])) ∧
  ∀ (s : State) (tag n : Byte), s.TakesRequest →
    let answered := fun (t : State) (a : Answer) => exec (.soilLearn tag [n]) s = .next (t.replied .soilLearn tag a)
    (13 < n.toNat → answered s (.badField 0)) ∧
    ∀ c : Cam, n.toNat = c.val →
      let r := s.soilOf c
      if r.watch = false then answered s .state
      else if (s.cam c).state ≠ .running then answered s .state
      else if r.state = .learning then answered s .busy
      else if r.state = .heating then answered s .state
      else
        (s.link.freeJob = none → answered s .busy) ∧
        ∀ j, s.link.freeJob = some j →
          let learning := { r with
            learnJob := some j, beforeLearning := some r.state, learned := ZoneSums.zero, window := ZoneSums.zero,
            state := .learning }
          answered (((s.openJob j .soilLearn c.val tag).setSoilOf c learning).handSoilOn c r.state .learn) (.accepted j)

/-- WASH_DONE (R138): the tests, the cameras in list order, each at its first place; what a wash does by the state. That the
count is tested first is the model's choice (log 27), and that the heater-off is requested before the camera joins the priority
queue is log 28. -/
def Obligations.WashDone : Prop :=
  (∀ (s : State) (tag : Byte) (numbers : List Byte), s.TakesRequest → numbers.length < 256 →
    let answered := fun (t : State) (a : Answer) =>
      exec (.washDone tag (byteOf numbers.length :: numbers)) s = .next (t.replied .washDone tag a)
    (numbers.length = 0 ∨ 14 < numbers.length → answered s (.badField 0)) ∧
    (∀ before n after, numbers.length ≤ 14 → numbers = before ++ n :: after → (∀ m ∈ before, m.toNat ≤ 13) →
      13 < n.toNat → answered s (.badField (before.length + 1))) ∧
    ∀ cameras : List Cam, 1 ≤ cameras.length → cameras.length ≤ 14 → numbers = cameras.map (fun c => byteOf c.val) →
      answered (cameras.eraseDups.foldl (fun t c => t.wash c) s) (.ok [])) ∧
  ∀ (s : State) (c : Cam),
    let r := s.soilOf c
    let washed := { r with
      state := .verify, wasSoiled := decide (r.state = .soiled), window := ZoneSums.zero, suspectCount := 0,
      cleanCount := 0, trialCount := 0 }
    let handed := (s.setSoilOf c washed).handSoilOn c r.state .wash
    (r.state = .clean ∨ r.state = .suspect ∨ r.state = .soiled → s.wash c = handed.queueForExamination c) ∧
    (r.state = .heating → s.wash c = (handed.requestHeaterOff c).queueForExamination c) ∧
    (r.state = .unwatched ∨ r.state = .unlearned ∨ r.state = .learning ∨ r.state = .verify → s.wash c = s)

/-- EXAMINATION_END (R130) and IDLE_RECHECK_TIMER_EXPIRY (R124); that the second changes nothing before its time is log 4, and the
first nothing while the engine is IDLE log 32. A scheduling decision makes the heater-offs owed (R136), then tests the priority
queue from its head, then the cameras from the one after the rotation pointer, which takes the chosen camera's number, and loads the
idle recheck timer when none is found (R124, R127). The start of an examination: no READY slot; a baseline of another geometry,
which is lost; else the examination record (R128). The judgement of a window (R131): the last score, none when NOT JUDGED, and the last
judgeable count take its values, the window is cleared and the verdict applied. The state changes of R132 and R134 that need
no confirmation. -/
def Obligations.Examinations : Prop :=
  (∀ s : State, s.Unasked →
    (s.soil.engine = none → exec .examinationEnd s = .next s.sendIfDue) ∧
    (s.soil.engine ≠ none → exec .idleRecheckTimerExpiry s = .next s.sendIfDue) ∧
    ((∀ d, s.soil.recheck = some d → s.elapsed < d) → exec .idleRecheckTimerExpiry s = .next s.sendIfDue) ∧
    (∀ d, s.soil.engine = none → s.soil.recheck = some d → d ≤ s.elapsed →
      exec .idleRecheckTimerExpiry s = .next s.schedule.sendIfDue) ∧
    ∀ e, s.soil.engine = some e →
      let c := e.camera
      let r := s.soilOf c
      let unpinned := s.setSlots (s.slots.unpin e.slot .engine)
      let idle := fun t : State => (t.setSoil { t.soil with engine := none }).schedule
      let passes := (s.cam c).generation = e.generation ∧ r.watch = true ∧
        (e.purpose = .learn → r.state = .learning) ∧ (e.purpose = .watch → r.state ≠ .learning ∧ r.state ≠ .unwatched)
      (¬ passes → exec .examinationEnd s = .next (idle unpinned).sendIfDue) ∧
      ∀ f, passes → s.slots.frame e.slot = some f →
        let light := meanLuminance s.pixels e.slot f.geometry
        let edges := edgeEnergy s.pixels e.slot f.geometry
        let watched := unpinned.setSoilOf c { r with window := r.window.add light edges }
        let learned := unpinned.setSoilOf c { r with learned := r.learned.add light edges }
        (e.purpose = .watch → r.window.examinations + 1 < s.soil.tuning.window →
          exec .examinationEnd s = .next (idle watched).sendIfDue) ∧
        (e.purpose = .watch → s.soil.tuning.window ≤ r.window.examinations + 1 →
          exec .examinationEnd s = .next (idle (watched.evaluate c)).sendIfDue) ∧
        (e.purpose = .learn → r.learned.examinations + 1 < s.soil.tuning.learn →
          exec .examinationEnd s = .next (idle learned).sendIfDue) ∧
        (e.purpose = .learn → s.soil.tuning.learn ≤ r.learned.examinations + 1 →
          exec .examinationEnd s = .next (idle (learned.finishLearn c f.geometry)).sendIfDue)) ∧
  (∀ s : State,
     let owing := (List.finRange 14).foldl (fun (t : State) c =>
       if (t.soilOf c).heaterOffOwed then (t.requestHeater c false).1 else t) s
     let queued := (owing.scanQueue [] owing.soil.queue).1
     let rotated := (queued.scanRotation ((List.finRange 14).map fun k => queued.soil.rotation + 1 + k)).1
     ((owing.scanQueue [] owing.soil.queue).2 = true → s.schedule = queued) ∧
     ((owing.scanQueue [] owing.soil.queue).2 = false →
       ((queued.scanRotation ((List.finRange 14).map fun k => queued.soil.rotation + 1 + k)).2 = true →
         s.schedule = rotated) ∧
       ((queued.scanRotation ((List.finRange 14).map fun k => queued.soil.rotation + 1 + k)).2 = false →
         s.schedule = rotated.setSoil { rotated.soil with recheck := some (rotated.elapsed + 10) })) ∧
     ∀ (c : Cam) (kept rest : List Cam),
       let examinable := (s.soilOf c).watch = true ∧ (s.soilOf c).state ≠ .unwatched ∧ (s.soilOf c).state ≠ .unlearned ∧
         (s.cam c).state = .running
       let fresh := ∃ i f, s.slots.newest c = some i ∧ s.slots.frame i = some f ∧ (s.soilOf c).lastExamined ≠ some f.sequence
       let pointed := s.setSoil { s.soil with rotation := c }
       s.scanQueue kept [] = (s.setSoil { s.soil with queue := kept }, false) ∧
       (examinable → fresh → (s.startExamination c).2 = .started → s.scanQueue kept (c :: rest) =
         ((s.startExamination c).1.setSoil { (s.startExamination c).1.soil with queue := kept ++ rest }, true)) ∧
       (examinable → fresh → (s.startExamination c).2 = .geometry →
         s.scanQueue kept (c :: rest) = (s.startExamination c).1.scanQueue kept rest) ∧
       (examinable → ¬ fresh → s.scanQueue kept (c :: rest) = s.scanQueue (kept ++ [c]) rest) ∧
       (¬ examinable → s.scanQueue kept (c :: rest) = s.scanQueue kept rest) ∧
       s.scanRotation [] = (s, false) ∧
       (examinable → fresh → (pointed.startExamination c).2 = .started →
         s.scanRotation (c :: rest) = ((pointed.startExamination c).1, true)) ∧
       (examinable → fresh → (pointed.startExamination c).2 = .geometry →
         s.scanRotation (c :: rest) = (pointed.startExamination c).1.scanRotation rest) ∧
       (¬ (examinable ∧ fresh) → s.scanRotation (c :: rest) = s.scanRotation rest)) ∧
  (∀ (s : State) (c : Cam),
     let r := s.soilOf c
     ((s.slots.pinNewest c .engine).2 = none → (s.startExamination c).2 = .noSlot) ∧
     ∀ m i f, s.slots.pinNewest c .engine = (m, some i) → m.frame i = some f →
       let unpinned := (s.setSlots m).setSlots (m.unpin i .engine)
       let mismatch := r.state ≠ .learning ∧ ∃ b, r.baseline = some b ∧ b.geometry ≠ f.geometry
       let lost := (unpinned.setSoilOf c { r with
         baseline := none, state := .unlearned, window := ZoneSums.zero, suspectCount := 0, cleanCount := 0, trialCount := 0,
         heaterSpent := false, heaterOffOwed := false, wasSoiled := false }).handSoilOn c r.state .geometry
       let g := (s.cam c).generation
       let seen := { r with
         window := if r.generationSeen = some g then r.window else ZoneSums.zero, generationSeen := some g,
         lastExamined := some f.sequence }
       let t := (s.setSlots m).setSoilOf c seen
       (mismatch → r.state ≠ .heating → s.startExamination c = (lost, .geometry)) ∧
       (mismatch → r.state = .heating → s.startExamination c = ((lost.requestHeater c false).1, .geometry)) ∧
       (¬ mismatch → s.startExamination c = (t.setSoil { t.soil with
         engine := some ⟨c, i, f.sequence, g, if r.state = .learning then .learn else .watch⟩, recheck := none },
         .started))) ∧
  (∀ s : State, (∀ c, (s.soilOf c).heaterOffOwed = false) →
    ((∀ c, s.qualifies c = false) → s.schedule = s.setSoil
      { s.soil with queue := s.soil.queue.filter s.examinable, recheck := some (s.elapsed + 10) }) ∧
    ∀ c rest m i f, s.soil.queue = c :: rest → s.qualifies c = true → s.slots.pinNewest c .engine = (m, some i) →
      m.frame i = some f → (∀ b, (s.soilOf c).baseline = some b → b.geometry = f.geometry) →
      let r := s.soilOf c
      let g := (s.cam c).generation
      let seen := { r with
        window := if r.generationSeen = some g then r.window else ZoneSums.zero, generationSeen := some g,
        lastExamined := some f.sequence }
      let purpose := if r.state = .learning then Purpose.learn else .watch
      let t := (s.setSlots m).setSoilOf c seen
      s.schedule = t.setSoil
        { t.soil with queue := rest, engine := some ⟨c, i, f.sequence, g, purpose⟩, recheck := none }) ∧
  (∀ (b : Baseline) (w : ZoneSums) (t : Tuning),
    let light := fun z : Zone => w.luminance[z] / w.examinations
    let edge := fun z : Zone => w.edges[z] / w.examinations
    let judged := fun z : Zone => decide (24 ≤ light z ∧ light z ≤ 232 ∧ 64 ≤ b.edges[z])
    let lost := fun z : Zone => judged z && decide (edge z * 16 < b.edges[z] * t.ratio)
    let count := (List.finRange 48).countP judged
    let score := (List.finRange 48).countP lost
    (count < 12 → judge (some b) w t = ⟨count, none, .notJudged⟩) ∧
    (12 ≤ count → t.zones ≤ score → judge (some b) w t = ⟨count, some score, .suspect⟩) ∧
    (12 ≤ count → score < t.zones → judge (some b) w t = ⟨count, some score, .clean⟩)) ∧
  (∀ (s : State) (c : Cam),
    let r := s.soilOf c
    let judged := judge r.baseline r.window s.soil.tuning
    let cleared : ZoneSums := ⟨Vector.ofFn fun _ => 0, Vector.ofFn fun _ => 0, 0⟩
    s.evaluate c = (s.setSoilOf c { r with
      lastScore := judged.score, lastJudgeable := some judged.judgeable, window := cleared }).applyVerdict c judged.verdict) ∧
  ∀ (s : State) (c : Cam),
    let r := s.soilOf c
    let zeroed := { r with suspectCount := 0, cleanCount := 0, trialCount := 0 }
    let clean := if r.cleanCount < 15 then r.cleanCount + 1 else r.cleanCount
    let hand := fun x : SoilRecord => (s.setSoilOf c x).handSoilOn c r.state .evaluation
    (r.state = .clean → 1 < s.soil.tuning.confirm → s.applyVerdict c .suspect
      = hand { r with suspectCount := 1, state := .suspect }) ∧
    (r.state = .clean → s.applyVerdict c .clean = s) ∧
    (r.state = .suspect → s.applyVerdict c .clean = hand { r with suspectCount := 0, state := .clean }) ∧
    (r.state = .soiled → s.soil.tuning.cleanRun ≤ clean → s.applyVerdict c .clean
      = hand { zeroed with state := .clean, heaterSpent := false }) ∧
    (r.state = .soiled → clean < s.soil.tuning.cleanRun → s.applyVerdict c .clean
      = s.setSoilOf c { r with cleanCount := clean }) ∧
    (r.state = .soiled → s.applyVerdict c .suspect = s.setSoilOf c { r with cleanCount := 0 }) ∧
    (r.state = .verify → s.applyVerdict c .clean
      = hand { zeroed with state := .clean, heaterSpent := false, wasSoiled := false }) ∧
    (r.state = .verify → s.applyVerdict c .suspect = hand { zeroed with state := .soiled, wasSoiled := false }) ∧
    (r.state ≠ .heating → s.applyVerdict c .notJudged = s)

/-- A change of soiling state is handed on in order (R135): a change to a state with the soiling marker adds SOILED at once to the
current tiles of both screens that show the camera (R99), a change to SOILED triggers the clip unit, and SOIL_STATE is raised with its
content (R143); without a change nothing happens. The confirmation test of R132, made by a suspect evaluation in CLEAN or SUSPECT: SUSPECT below K, HEATING with a heater-on
admitted, SOILED with HEATER_FAIL where it is answered FULL, SOILED without a trial; with K of 1 from CLEAN at once. An evaluation in
HEATING (R133). A heater request admitted or answered FULL, and what is owed (R136). A heater result notice (R137). An addition to
the priority queue, which decides while the engine is IDLE (R124, R126; that each addition decides in its place is log 28). That a
camera has a heater exactly when its heater present byte is 01h is log 17. -/
def Obligations.ConfirmationAndHeating : Prop :=
  (∀ (s told : State) (c : Cam) (previous : SoilState) (cause : SoilCause),
     let r := s.soilOf c
     let marker := r.state = .soiled ∨ (r.state = .verify ∧ r.wasSoiled = true)
     let soiled := fun t : ResolvedTile =>
       if t.shown = some c ∧ t.slot ≠ none then { t with markers := { t.markers with soiled := true } } else t
     let marked := fun k : Composer => { k with screen := { k.screen with tiles := k.screen.tiles.map soiled } }
     let triggered := if r.state = .soiled then told.trigger .soiled c else told
     (r.state = previous → s.handSoilOn c previous cause = s) ∧
     (r.state ≠ previous → (marker ∧ told = (s.setScreenA (marked s.screenA)).setScreenB (marked s.screenB)) ∨
         (¬ marker ∧ told = s) →
       s.handSoilOn c previous cause = triggered.raise (.soilState c) (.soilState
         { camera := c, state := r.state, previous := previous, cause := cause, marker := decide marker,
           lastScore := r.lastScore, lastJudgeable := r.lastJudgeable, heaterSpent := r.heaterSpent,
           wasSoiled := r.wasSoiled, baselineValid := decide (r.baseline ≠ none), lastHeater := r.lastHeater,
           time := s.now }))) ∧
  (∀ (s : State) (c : Cam),
     let r := s.soilOf c
     let count := if r.state = .clean then 1 else if r.suspectCount < 15 then r.suspectCount + 1 else r.suspectCount
     let hand := fun (t : State) (x : SoilRecord) (why : SoilCause) => (t.setSoilOf c x).handSoilOn c r.state why
     let trial := (s.cam c).heaterPresent = 1#8 ∧ r.heaterAllowed = true ∧ r.heaterSpent = false
     r.state = .clean ∨ r.state = .suspect →
       (count < s.soil.tuning.confirm → s.applyVerdict c .suspect
         = hand s { r with suspectCount := count, state := .suspect } .evaluation) ∧
       (s.soil.tuning.confirm ≤ count → ¬ trial → s.applyVerdict c .suspect
         = hand s { r with suspectCount := 0, state := .soiled } .evaluation) ∧
       (∀ control, s.soil.tuning.confirm ≤ count → trial → (s.ctl c).heaterRequest true = some control →
         s.applyVerdict c .suspect = hand (s.setCtl c control) { r with
           suspectCount := 0, cleanCount := 0, trialCount := 0, heaterOffOwed := false, heaterSpent := true,
           state := .heating } .evaluation) ∧
       (s.soil.tuning.confirm ≤ count → trial → (s.ctl c).heaterRequest true = none → s.applyVerdict c .suspect
         = hand s { r with suspectCount := 0, lastHeater := some ⟨true, .full⟩, heaterSpent := true, state := .soiled }
             .heaterFail)) ∧
  (∀ (s : State) (c : Cam) (v : Verdict),
     let r := s.soilOf c
     let clean := if r.cleanCount < 15 then r.cleanCount + 1 else r.cleanCount
     let trial := if r.trialCount < 30 then r.trialCount + 1 else r.trialCount
     let zeroed := { r with suspectCount := 0, cleanCount := 0, trialCount := 0 }
     let ended := fun x : SoilRecord => (((s.setSoilOf c x).handSoilOn c .heating .evaluation).requestHeater c false).1
     r.state = .heating →
       (v = .clean → 2 ≤ clean → s.applyVerdict c v = ended { zeroed with state := .clean, heaterSpent := false }) ∧
       (v ≠ .clean ∨ clean < 2 → s.soil.tuning.trial ≤ trial →
         s.applyVerdict c v = ended { zeroed with state := .soiled }) ∧
       (v ≠ .clean ∨ clean < 2 → trial < s.soil.tuning.trial → s.applyVerdict c v = s.setSoilOf c { r with
         cleanCount := (match v with | .clean => clean | .suspect => 0 | .notJudged => r.cleanCount),
         trialCount := trial })) ∧
  (∀ (s : State) (c : Cam) (on : Bool),
     let r := s.soilOf c
     (∀ control, (s.ctl c).heaterRequest on = some control →
       s.requestHeater c on = ((s.setCtl c control).setSoilOf c { r with heaterOffOwed := false }, true)) ∧
     ((s.ctl c).heaterRequest true = none → s.requestHeater c true
       = (s.setSoilOf c { r with lastHeater := some ⟨true, .full⟩ }, false)) ∧
     ((s.ctl c).heaterRequest false = none → s.requestHeater c false
       = (s.setSoilOf c { r with lastHeater := some ⟨false, .full⟩, heaterOffOwed := true }, false)) ∧
     s.requestHeaterOff c = (s.requestHeater c false).1) ∧
  (∀ (s : State) (c : Cam) (on : Bool) (x : HeaterOutcome),
     let noted := { s.soilOf c with lastHeater := some ⟨on, x⟩ }
     (on = true → x = .cameraTimeout ∨ x = .cameraRefused → (s.soilOf c).state = .heating → s.heaterResult c on x
       = (((s.setSoilOf c { noted with suspectCount := 0, cleanCount := 0, trialCount := 0, state := .soiled }).handSoilOn c
           .heating .heaterFail).requestHeater c false).1) ∧
     (on = false ∨ x = .done ∨ (s.soilOf c).state ≠ .heating → s.heaterResult c on x = s.setSoilOf c noted)) ∧
  ∀ (s : State) (c : Cam),
    let added := s.setSoil { s.soil with queue := s.soil.queue ++ [c] }
    (c ∈ s.soil.queue → s.queueForExamination c = s) ∧
    (c ∉ s.soil.queue → s.soil.engine = none → s.queueForExamination c = added.schedule) ∧
    (c ∉ s.soil.queue → s.soil.engine ≠ none → s.queueForExamination c = added)

/-- The zone values of an examination (R129): the mean luminance of each of the 48 zones, at most 255, and its edge energy, at most
4080, from the luminance bytes; the place of a byte in its slot is the model's choice (log 12). The end of a learn that has reached
L (R141) and of one whose camera leaves RUNNING (R142), with the job's result. A camera state notice at the soiling monitor
(R139). -/
def Obligations.ZonesLearnsAndNotices : Prop :=
  (∀ (pixels : List Host.Cell) (slot : SlotNo) (g : Geometry) (z : Zone),
     let width := g.width / 8
     let height := if z.val / 8 = 5 then g.height - 5 * (g.height / 6) else g.height / 6
     let light := fun i j : Nat => (Memory.read pixels
       (slotAddress slot (((z.val / 8 * (g.height / 6) + j) * g.width + (z.val % 8 * width + i)) * 2))).toNat
     let apart := fun a b : Nat => if a ≤ b then b - a else a - b
     let total := fun (columns rows : Nat) (value : Nat → Nat → Nat) =>
       ((List.range rows).map fun j => ((List.range columns).map fun i => value i j).sum).sum
     meanLuminance pixels slot g z = total width height light / (width * height) ∧ meanLuminance pixels slot g z ≤ 255 ∧
     edgeEnergy pixels slot g z = 8 * total (width - 1) (height - 1) (fun i j =>
       apart (light i j) (light (i + 1) j) + apart (light i j) (light i (j + 1))) / ((width - 1) * (height - 1)) ∧
     edgeEnergy pixels slot g z ≤ 4080) ∧
  (∀ (s : State) (c : Cam) (g : Geometry),
     let r := s.soilOf c
     let light := fun z : Zone => r.learned.luminance[z] / r.learned.examinations
     let counts := fun z : Zone => decide (24 ≤ light z ∧ light z ≤ 232)
     let edges : Vector Nat 48 := Vector.ofFn fun z => if counts z then r.learned.edges[z] / r.learned.examinations else 0
     let counted := (List.finRange 48).countP counts
     let usable := (List.finRange 48).countP fun z : Zone => decide (64 ≤ edges[z])
     let cleared := { r with learned := ZoneSums.zero, beforeLearning := none, learnJob := none }
     (24 ≤ counted → s.finishLearn c g = ((s.setSoilOf c { cleared with
       baseline := some ⟨edges, g⟩, state := .clean, suspectCount := 0, cleanCount := 0, trialCount := 0,
       heaterSpent := false, heaterOffOwed := false, wasSoiled := false }).handSoilOn c r.state .learnEnd).endJob?
         r.learnJob .ok [byteOf counted, byteOf usable]) ∧
     (∀ x, counted < 24 → r.beforeLearning = some x → s.finishLearn c g =
       ((s.setSoilOf c { cleared with state := x }).handSoilOn c r.state .learnEnd).endJob? r.learnJob .dark
         [byteOf counted])) ∧
  ∀ (s : State) (c : Cam) (now : CaptureState),
    let r := s.soilOf c
    let abandoned := fun x : SoilState => ((s.setSoilOf c { r with
      state := x, learned := ZoneSums.zero, beforeLearning := none, learnJob := none }).handSoilOn c .learning .learnEnd).endJob?
        r.learnJob .cameraLost []
    let zeroed := fun q : SoilRecord =>
      if q.watch then { q with suspectCount := 0, cleanCount := 0, trialCount := 0, window := ZoneSums.zero } else q
    let left := fun q : SoilRecord => if now = .stopping then { zeroed q with heaterOffOwed := false } else zeroed q
    let cleaned := fun (t : State) =>
      (t.setSoilOf c { left (t.soilOf c) with state := .clean, heaterSpent := false }).handSoilOn c (t.soilOf c).state .camera
    (now ≠ .lost → now ≠ .stopping → now ≠ .failed → s.soilNotice c now = s) ∧
    (now = .lost → r.state ≠ .learning → s.soilNotice c now = s) ∧
    (∀ x, now = .lost → r.state = .learning → r.beforeLearning = some x → s.soilNotice c now = abandoned x) ∧
    (now = .stopping ∨ now = .failed → ∀ t,
      (r.state ≠ .learning ∧ t = s) ∨ (r.state = .learning ∧ ∃ x, r.beforeLearning = some x ∧ t = abandoned x) →
      ((t.soilOf c).state = .suspect → s.soilNotice c now = cleaned t) ∧
      ((t.soilOf c).state = .heating → now = .stopping → s.soilNotice c now = cleaned t) ∧
      ((t.soilOf c).state = .heating → now = .failed → s.soilNotice c now = ((cleaned t).requestHeater c false).1) ∧
      ((t.soilOf c).state ≠ .suspect → (t.soilOf c).state ≠ .heating →
        s.soilNotice c now = t.setSoilOf c (left (t.soilOf c))))

/-! ## Clips and export (spec/08, spec/09) -/

/-- TRIGGER_MAP_SET (R147). -/
def Obligations.TriggerMapSet : Prop :=
  ∀ (s : State) (tag : Byte) (body : List Byte), s.TakesRequest → body.length = 9 →
    let answered := fun (t : State) (a : Answer) => exec (.triggerMapSet tag body) s = .next (t.replied .triggerMapSet tag a)
    let legal := fun f : Nat => if f % 3 = 0 then field1 body f ≤ 1 else field1 body f ≤ 8
    (∀ f, f < 9 → ¬ legal f → (∀ g, g < f → legal g) → answered s (.badField f)) ∧
    ((∀ f, f < 9 → legal f) →
      let entry := fun k : Nat =>
        TriggerSetting.mk (decide (field1 body k = 1)) (field1 body (k + 1)) (field1 body (k + 2))
      answered (s.setClips { s.clips with map := ⟨entry 0, entry 3, entry 6⟩ }) (.ok []))

/-- An automatic trigger (R150): no action, the extension of a collecting clip (R152), the three misses (R153), the opening of
the FREE clip of lowest id with the walk over the READY list (R151). What a publication (R154) and a camera that leaves RUNNING
(R156) do to a collecting DOOR clip. The clip a trigger extends is one COLLECTING in mode DOOR with the trigger's camera; there is
none only when no clip is such a one (R150). -/
def Obligations.TriggersAndCollection : Prop :=
  (∀ (s : State) (c : Cam),
    let collecting := fun id : ClipId =>
      ∃ k, s.clip id = some k ∧ k.state = .collecting ∧ k.mode = .door ∧ ∃ x ∈ k.cameras, x.camera = c
    (∀ id, s.collectingDoorClip c = some id → collecting id) ∧
    (s.collectingDoorClip c = none → ∀ id, ¬ collecting id)) ∧
  (∀ (s : State) (kind : TriggerKind) (c : Cam),
    let e := s.clips.map.entry kind
    let missed := if s.clips.missed < 65535 then s.clips.missed + 1 else s.clips.missed
    let miss := fun why : MissReason =>
      (s.setClips { s.clips with missed := missed }).raise .clipMissed (.clipMissed why kind c s.now missed)
    let free := fun id : ClipId => s.clip id = none ∧ ∀ k : ClipId, k < id → s.clip k ≠ none
    (e.clip = false → s.trigger kind c = s) ∧
    (∀ id k, e.clip = true → s.collectingDoorClip c = some id → s.clip id = some k →
      let longer := { k with postRemaining := min (max k.postRemaining e.post) (16 - k.frames.length) }
      (k.triggers.length < 4 → s.trigger kind c
        = s.setClip id (some { longer with triggers := k.triggers ++ [⟨some kind, some c, s.now⟩] })) ∧
      (4 ≤ k.triggers.length → s.trigger kind c = s.setClip id (some { longer with moreTriggers := true }))) ∧
    (e.clip = true → s.collectingDoorClip c = none →
      ((s.cam c).state ≠ .running → s.trigger kind c = miss .noCamera) ∧
      ((s.cam c).state = .running → (∀ id : ClipId, s.clip id ≠ none) → s.trigger kind c = miss .noClip) ∧
      (∀ id, (s.cam c).state = .running → free id → s.slots.holdLimit ≤ s.slots.holdCount → 0 < e.pre + e.post →
        s.trigger kind c = miss .noHold) ∧
      ∀ id r, (s.cam c).state = .running → free id → s.slots.holdCount < s.slots.holdLimit ∨ e.pre + e.post = 0 →
        s.slots.ring c = some r →
        let opened := s.setClip id (some
          { state := .collecting, mode := .door, cameras := [⟨c, none⟩], triggers := [⟨some kind, some c, s.now⟩],
            moreTriggers := false, postRemaining := e.post, truncated := false, short := false, frames := [],
            job := none, opened := s.now })
        let walked := opened.preWalk id c e.pre r.ready.reverse
        s.trigger kind c = if e.post = 0 then walked.completeClip id .collected else walked)) ∧
  (∀ (s : State) (id : ClipId) (c : Cam) (n : Nat) (i : SlotNo) (rest : List SlotNo) (f : FrameFields),
    s.slots.frame i = some f →
    let claimed := s.claimFor id c i f.sequence .pre
    (s.preWalk id c 0 (i :: rest) = s) ∧ (s.preWalk id c (n + 1) [] = s) ∧
    (s.slots.claimOf i ≠ none → s.preWalk id c (n + 1) (i :: rest) = s.preWalk id c (n + 1) rest) ∧
    (s.slots.claimOf i = none → claimed.2 = .grantedInRing ∨ claimed.2 = .grantedMoved →
      s.preWalk id c (n + 1) (i :: rest) = claimed.1.preWalk id c n rest) ∧
    (s.slots.claimOf i = none → claimed.2 = .claimed ∨ claimed.2 = .gone →
      s.preWalk id c (n + 1) (i :: rest) = s.preWalk id c (n + 1) rest) ∧
    (∀ k, s.slots.claimOf i = none → claimed.2 = .hold → s.clip id = some k →
      s.preWalk id c (n + 1) (i :: rest) = s.setClip id (some { k with truncated := true }))) ∧
  ∀ (s : State) (id : ClipId) (k : Clip) (c : Cam) (i : SlotNo) (q : Word32), s.clip id = some k →
    k.state = .collecting → k.mode = .door → (∃ x ∈ k.cameras, x.camera = c) →
    let claimed := s.claimFor id c i q .post
    (k.postRemaining = 0 → s.serveClip c i q id = s) ∧
    (0 < k.postRemaining → claimed.2 = .claimed ∨ claimed.2 = .gone → s.serveClip c i q id = s) ∧
    (0 < k.postRemaining → claimed.2 = .hold → s.serveClip c i q id
      = (s.setClip id (some { k with truncated := true })).completeClip id .collected) ∧
    (1 < k.postRemaining → claimed.2 = .grantedInRing ∨ claimed.2 = .grantedMoved → s.serveClip c i q id
      = claimed.1.mapClip id fun k => { k with postRemaining := k.postRemaining - 1 }) ∧
    (k.postRemaining = 1 → claimed.2 = .grantedInRing ∨ claimed.2 = .grantedMoved → s.serveClip c i q id
      = (claimed.1.mapClip id fun k => { k with postRemaining := k.postRemaining - 1 }).completeClip id .collected) ∧
    s.cameraLeftClip c id = (s.setClip id (some { k with short := true })).completeClip id .collected

/-- A frame entry (R149): made by a granted claim at its place in the frame list, HELD when the slot moved at the claim; the order
within a camera is the model's reading (log 23). A slot that moves becomes HELD in its clip; a publication notice deals with it
first, then with the waiting clips in ascending id (R154). The claims of SET_NEWEST in list order (R157). SET_NEXT: the claim at a
publication (R154), a camera that leaves RUNNING (R156), and the test for its end (R157; that the job of the clip becomes none there
is log 24). The entry to COMPLETE, at which CLIP_READY is raised (R155, R159), and the content of CLIP_READY (R159). -/
def Obligations.SetClipsAndFrameEntries : Prop :=
  (∀ (s : State) (id : ClipId) (k : Clip) (cause : ClipCause), s.clip id = some k →
     s.completeClip id cause = (s.setClip id (some { k with state := .complete })).raiseClipReady id cause ∧
     s.raiseClipReady id cause = s.raise (.clipReady id) (.clipReady
       { clip := id, cause := cause, mode := k.mode, cameras := k.cameras, triggers := k.triggers,
         moreTriggers := k.moreTriggers, truncated := k.truncated, short := k.short, frameCount := k.frames.length,
         time := s.now })) ∧
  (∀ (s : State) (id : ClipId) (c : Cam) (i : SlotNo) (q : Word32) (role : FrameRole) (f : FrameFields) (k : Clip),
     s.slots.frame i = some f → s.clip id = some k →
     let claimed := s.slots.claim id c i q
     let place := fun e : FrameEntry => k.cameras.findIdx fun x => x.camera == e.camera
     let earlier := fun a b : FrameEntry => place a < place b ∨
       (place a = place b ∧ a.sequence ≠ b.sequence ∧ (b.sequence - a.sequence).toNat < 2147483648)
     (claimed.2 = .gone ∨ claimed.2 = .claimed ∨ claimed.2 = .hold → s.claimFor id c i q role = (s, claimed.2)) ∧
     ∀ held, (claimed.2 = .grantedInRing ∧ held = false) ∨ (claimed.2 = .grantedMoved ∧ held = true) →
       let entry := FrameEntry.mk i c q f.time role held
       ∃ before behind, k.frames = before ++ behind ∧ (∀ e ∈ before, ¬ earlier entry e) ∧
         (∀ e, behind.head? = some e → earlier entry e) ∧ s.claimFor id c i q role =
           ((s.setSlots claimed.1).setClip id (some { k with frames := before ++ entry :: behind }), claimed.2)) ∧
  (∀ (s : State) (v : Moved) (n : PublicationNotice),
     s.slotMoved none = s ∧
     (∀ k, s.clip v.clip = some k → s.slotMoved (some v) = s.setClip v.clip (some { k with
       frames := k.frames.map fun e =>
         if e.slot = v.slot ∧ e.camera = v.camera ∧ e.sequence = v.sequence then { e with held := true } else e })) ∧
     (s.clip v.clip = none → s.slotMoved (some v) = s) ∧
     s.publicationNotice n = (List.finRange 8).foldl (fun t id => t.serveClip n.camera n.slot n.sequence id)
       (s.slotMoved n.moved)) ∧
  (∀ (s : State) (id : ClipId) (c : Cam) (rest : List Cam),
     let status := fun (k : Clip) (c : Cam) (x : CameraStatus) =>
       { k with cameras := k.cameras.map fun y => if y.camera = c then { y with status := some x } else y }
     let lacking := s.mapClip id fun k => { status k c .missing with short := true }
     s.takeNewest id [] = s ∧
     ((s.cam c).state ≠ .running ∨ s.slots.newest c = none ∨ (∃ i, s.slots.newest c = some i ∧ s.slots.claimOf i ≠ none) →
       s.takeNewest id (c :: rest) = lacking.takeNewest id rest) ∧
     ∀ i f, (s.cam c).state = .running → s.slots.newest c = some i → s.slots.claimOf i = none → s.slots.frame i = some f →
       let claimed := s.claimFor id c i f.sequence .set
       (claimed.2 = .grantedInRing ∨ claimed.2 = .grantedMoved → s.takeNewest id (c :: rest)
         = (claimed.1.mapClip id fun k => status k c .delivered).takeNewest id rest) ∧
       (claimed.2 = .claimed ∨ claimed.2 = .gone → s.takeNewest id (c :: rest) = lacking.takeNewest id rest) ∧
       (claimed.2 = .hold → s.takeNewest id (c :: rest) = (c :: rest).foldl
         (fun t c => t.mapClip id fun k => status k c .missing) (s.mapClip id fun k => { k with truncated := true }))) ∧
  (∀ (s : State) (id : ClipId) (k : Clip) (c : Cam) (i : SlotNo) (q : Word32), s.clip id = some k →
     k.state = .collecting → k.mode = .setNext →
     let status := fun (k : Clip) (x : CameraStatus) =>
       { k with cameras := k.cameras.map fun y => if y.camera = c then { y with status := some x } else y }
     let waits := ∃ x ∈ k.cameras, x.camera = c ∧ x.status = some .waiting
     let claimed := s.claimFor id c i q .set
     (¬ waits → s.serveClip c i q id = s ∧ s.cameraLeftClip c id = s) ∧
     (waits → claimed.2 = .grantedInRing ∨ claimed.2 = .grantedMoved → s.serveClip c i q id
       = (claimed.1.mapClip id fun k => status k .delivered).testSetNext id) ∧
     (waits → claimed.2 = .claimed ∨ claimed.2 = .gone → s.serveClip c i q id = s) ∧
     (waits → claimed.2 = .hold → s.serveClip c i q id
       = (s.setClip id (some { status k .missing with truncated := true })).testSetNext id) ∧
     (waits → s.cameraLeftClip c id = (s.setClip id (some { status k .missing with short := true })).testSetNext id) ∧
     ((∃ x ∈ k.cameras, x.status = some .waiting) → s.testSetNext id = s) ∧
     ((∀ x ∈ k.cameras, x.status ≠ some .waiting) → s.testSetNext id =
       ((s.setClip id (some { k with job := none, state := .complete })).raiseClipReady id .collected).endJob? k.job .ok
         [byteOf id.val, byteOf k.frames.length,
          byteOf ((if k.truncated then 1 else 0) + (if k.short then 2 else 0))])) ∧
  ∀ (s : State) (c : Cam) (old now : CaptureState),
    (old = .running → now = .lost ∨ now = .stopping ∨ now = .failed →
      s.clipNotice c old now = (List.finRange 8).foldl (fun t id => t.cameraLeftClip c id) s) ∧
    (old ≠ .running ∨ (now ≠ .lost ∧ now ≠ .stopping ∧ now ≠ .failed) → s.clipNotice c old now = s)

/-- CLIP_TAKE (R157; the second of two equal cameras is the one named, log 27; that a clip's job becomes none in the event that
ends it is log 24; the claims of SET_NEWEST are those of SetClipsAndFrameEntries) and CLIP_RELEASE (R158, R171). The result of
SET_NEWEST is the clip, the frame count and the set of TRUNCATED and SHORT. A release of an EXPORTING clip aborts the export as R170
gives: FULL and FILLING halves become EMPTY, the job ends ABORTED with the blocks sent, a block in transmission counted, the clip
returns to COMPLETE, and the engine is ENDING while a half is SENDING, else IDLE. -/
def Obligations.ClipTakeAndRelease : Prop :=
  (∀ (k : Clip) (id : ClipId), k.summary id = [byteOf id.val, byteOf k.frames.length,
    byteOf ((if k.truncated then 1 else 0) + (if k.short then 2 else 0))]) ∧
  (∀ (s : State) (r : ExportRecord),
    let kept := fun h : Half => (match h with | .sending b => .sending b | _ => .empty : Half)
    let ended := fun (sent : Nat) (job : Option ExportRecord) =>
      ((s.endJob r.job .aborted (byteOf r.clip.val :: bytes2 sent)).setExporter
        ⟨job, kept s.exporter.half0, kept s.exporter.half1⟩).completeClip r.clip .exportEnded
    let sending := (∃ b, s.exporter.half0 = .sending b) ∨ ∃ b, s.exporter.half1 = .sending b
    (sending → s.abortExport r = ended (r.blocksSent + 1) (some { r with phase := .ending, stall := none })) ∧
    (¬ sending → s.abortExport r = ended r.blocksSent none)) ∧
  (∀ (s : State) (tag mode : Byte) (numbers : List Byte), s.TakesRequest → numbers.length < 256 →
    let answered := fun (t : State) (a : Answer) =>
      exec (.clipTake tag (byteOf numbers.length :: (numbers ++ [mode]))) s = .next (t.replied .clipTake tag a)
    (numbers.length = 0 ∨ 4 < numbers.length → answered s (.badField 0)) ∧
    (∀ before n after, numbers.length ≤ 4 → numbers = before ++ n :: after → before.Nodup →
      (∀ m ∈ before, m.toNat ≤ 13) → 13 < n.toNat ∨ n ∈ before → answered s (.badField (before.length + 1))) ∧
    ∀ cameras : List Cam, 1 ≤ cameras.length → cameras.length ≤ 4 → cameras.Nodup →
      numbers = cameras.map (fun c => byteOf c.val) →
      let taken := fun (m : ClipMode) (l : List ClipCamera) (short : Bool) (j : Option JobId) => Clip.mk .collecting m l
        [⟨none, none, s.now⟩] false 0 false short [] j s.now
      (mode ≠ 1#8 → mode ≠ 2#8 → answered s (.badField (cameras.length + 1))) ∧
      (mode = 1#8 ∨ mode = 2#8 → (∀ id : ClipId, s.clip id ≠ none) → answered s .noRoom) ∧
      ∀ id : ClipId, s.clip id = none → (∀ k : ClipId, k < id → s.clip k ≠ none) →
        (mode = 1#8 →
          let opened := s.setClip id (some (taken .setNewest (cameras.map fun c => ⟨c, some .missing⟩) false none))
          ∀ k, ((opened.takeNewest id cameras).completeClip id .taken).clip id = some k →
            answered ((opened.takeNewest id cameras).completeClip id .taken) (.ok (k.summary id))) ∧
        (mode = 2#8 → s.link.freeJob = none → answered s .busy) ∧
        ∀ j, mode = 2#8 → s.link.freeJob = some j →
          let status := fun c : Cam => if (s.cam c).state = .running then CameraStatus.waiting else .missing
          let list := cameras.map fun c => ClipCamera.mk c (some (status c))
          let lacking := decide (∃ c ∈ cameras, (s.cam c).state ≠ .running)
          let opened := (s.openJob j .clipTake id.val tag).setClip id (some (taken .setNext list lacking (some j)))
          ((∃ c ∈ cameras, (s.cam c).state = .running) → answered opened (.accepted j)) ∧
          ((∀ c ∈ cameras, (s.cam c).state ≠ .running) → answered
            (((opened.setClip id (some { taken .setNext list lacking none with state := .complete })).raiseClipReady id
              .collected).endJob j .ok [byteOf id.val, 0x00, byteOf (if lacking then 2 else 0)]) (.accepted j))) ∧
  ∀ (s : State) (tag n : Byte), s.TakesRequest →
    let answered := fun (t : State) (a : Answer) => exec (.clipRelease tag [n]) s = .next (t.replied .clipRelease tag a)
    (7 < n.toNat → answered s (.badField 0)) ∧
    ∀ id : ClipId, n.toNat = id.val →
      (s.clip id = none → answered s .notFound) ∧
      ∀ k, s.clip id = some k →
        let freed := fun t : State =>
          ((t.setSlots (t.slots.release id (k.frames.map (·.slot)))).setLink (t.link.withdraw (.clipReady id))).setClip id none
        (k.state = .complete ∨ (k.state = .collecting ∧ k.mode ≠ .setNext) → answered (freed s) (.ok [])) ∧
        (∀ j, k.state = .collecting → k.mode = .setNext → k.job = some j →
          answered (freed (s.endJob j .aborted [byteOf id.val])) (.ok [])) ∧
        (∀ r, k.state = .exporting → s.exporter.job = some r → answered (freed (s.abortExport r)) (.ok [])) ∧
        ∀ t, (freed t).clip id = none ∧ ((freed t).link.report (.clipReady id)).pending = false

/-- EXPORT (R164) and EXPORT_ABORT (R170); the staging of the next block (R167) and WAITING (R169); FILL_END (R167);
STALL_TIMER_EXPIRY (R169); the end of a transmission (R168). Which half is staged into first is the model's choice (log 26); an expiry before its time changes nothing (log 4), nor
does FILL_END with no half FILLING (log 32). That the next byte offset becomes 0 after the last frame too is log 41. The bytes of a frame image (R165): at scale 1 the stored bytes in stored order, at
scale 2 and 4 the means of the squares, chroma of the columns of its own kind; where a pixel's bytes stand in its slot is log 12. The first block not sent of a stalled export is the
lower of the FULL halves' block sequences (R168, R169). -/
def Obligations.ExportEngine : Prop :=
  (∀ (e : Machine.ExportEngine) (r : ExportRecord),
    (∀ a b, e.half0 = .full a → e.half1 = .full b → e.firstUnsent r = min a.sequence b.sequence) ∧
    (∀ a, e.half0 = .full a → (∀ b, e.half1 ≠ .full b) → e.firstUnsent r = a.sequence) ∧
    (∀ b, (∀ a, e.half0 ≠ .full a) → e.half1 = .full b → e.firstUnsent r = b.sequence) ∧
    ((∀ a, e.half0 ≠ .full a ∧ e.half1 ≠ .full a) → e.firstUnsent r = r.nextSequence)) ∧
  (∀ (s : State) (tag n first count scale content : Byte), s.TakesRequest →
    let answered := fun (t : State) (a : Answer) =>
      exec (.exportClip tag [n, first, count, scale, content]) s = .next (t.replied .exportClip tag a)
    if 7 < n.toNat then answered s (.badField 0)
    else if 15 < first.toNat then answered s (.badField 1)
    else if ¬(1 ≤ count.toNat ∧ count.toNat ≤ 16) then answered s (.badField 2)
    else if ¬(scale = 1#8 ∨ scale = 2#8 ∨ scale = 4#8) then answered s (.badField 3)
    else if ¬(content = 0#8 ∨ content = 1#8) then answered s (.badField 4)
    else if s.exporter.job ≠ none then answered s .busy
    else ∀ id : ClipId, n.toNat = id.val →
      (s.clip id = none → answered s .state) ∧
      ∀ k, s.clip id = some k →
        if k.state = .collecting then answered s .state
        else if k.frames.length < first.toNat + count.toNat then answered s (.badField 2)
        else (s.link.freeJob = none → answered s .busy) ∧ ∀ j, s.link.freeJob = some j →
          let record : ExportRecord :=
            { phase := .reading, clip := id, job := j, firstFrame := first.toNat, frameCount := count.toNat,
              scale := scale.toNat, content := if content = 0#8 then .luma else .full, nextFrame := some first.toNat,
              nextOffset := 0, nextSequence := 0, blocksSent := 0, stall := none }
          let t := ((s.openJob j .exportClip id.val tag).setClip id (some { k with state := .exporting })).setExporter
            { s.exporter with job := some record }
          answered t.stageOrWait (.accepted j)) ∧
  (∀ (s : State) (tag : Byte), s.TakesRequest →
    let answered := fun (t : State) (a : Answer) => exec (.exportAbort tag []) s = .next (t.replied .exportAbort tag a)
    (s.exporter.job = none → answered s .state) ∧
    ∀ r, s.exporter.job = some r →
      (r.phase = .ending → answered s .state) ∧
      (r.phase ≠ .ending →
        let kept := fun h : Half => (match h with | .sending b => .sending b | _ => .empty : Half)
        let ended := fun (sent : Nat) (job : Option ExportRecord) =>
          ((s.endJob r.job .aborted (byteOf r.clip.val :: bytes2 sent)).setExporter
            ⟨job, kept s.exporter.half0, kept s.exporter.half1⟩).completeClip r.clip .exportEnded
        let sending := (∃ b, s.exporter.half0 = .sending b) ∨ ∃ b, s.exporter.half1 = .sending b
        (sending → answered (ended (r.blocksSent + 1) (some { r with phase := .ending, stall := none }))
          (.ok [byteOf r.job.val])) ∧
        (¬ sending → answered (ended r.blocksSent none) (.ok [byteOf r.job.val])))) ∧
  (∀ (s : State) (r : ExportRecord), s.exporter.job = some r →
    (r.phase ≠ .reading → s.stageOrWait = s) ∧
    (∀ n k e f, r.phase = .reading → r.nextFrame = some n → s.clip r.clip = some k → k.frames[n]? = some e →
      s.slots.frame e.slot = some f →
      let bytes := (List.range (min 1024 (imageSize f.geometry r.scale r.content - r.nextOffset))).map fun x =>
        imageByte s.pixels e.slot f.geometry r.scale r.content (r.nextOffset + x)
      let block := Block.mk n r.nextSequence r.nextOffset bytes
      (s.exporter.half0 = .empty → (∀ b, s.exporter.half1 ≠ .filling b) →
        s.stageOrWait = s.setExporter { s.exporter with half0 := .filling block }) ∧
      (s.exporter.half1 = .empty → s.exporter.half0 ≠ .empty → (∀ b, s.exporter.half0 ≠ .filling b) →
        s.stageOrWait = s.setExporter { s.exporter with half1 := .filling block })) ∧
    (∀ a b, r.phase = .reading → s.exporter.half0 = .full a → s.exporter.half1 = .full b → s.stageOrWait
      = s.setExporter { s.exporter with job := some { r with phase := .waiting, stall := some (s.elapsed + 5000) } }) ∧
    (∀ a, r.phase = .reading → r.nextFrame = none →
      (s.exporter.half0 = .full a ∧ s.exporter.half1 = .empty) ∨ (s.exporter.half0 = .empty ∧ s.exporter.half1 = .full a) →
      s.stageOrWait
        = s.setExporter { s.exporter with job := some { r with phase := .waiting, stall := some (s.elapsed + 5000) } }) ∧
    (∀ a, s.exporter.half0 = .filling a ∨ s.exporter.half1 = .filling a → s.stageOrWait = s) ∧
    (∀ a, s.exporter.half0 = .sending a → s.exporter.half1 ≠ .empty ∨ r.nextFrame = none → s.stageOrWait = s) ∧
    (∀ a, s.exporter.half1 = .sending a → s.exporter.half0 ≠ .empty ∨ r.nextFrame = none → s.stageOrWait = s)) ∧
  (∀ s : State, s.Unasked →
    (s.exporter.job = none → exec .fillEnd s = .next s.sendIfDue ∧ exec .stallTimerExpiry s = .next s.sendIfDue) ∧
    ∀ r, s.exporter.job = some r →
      ((∀ b, s.exporter.half0 ≠ .filling b ∧ s.exporter.half1 ≠ .filling b) → exec .fillEnd s = .next s.sendIfDue) ∧
      (∀ b k e f, s.exporter.half0 = .filling b → s.clip r.clip = some k → k.frames[b.frame]? = some e →
        s.slots.frame e.slot = some f → (∀ x, s.exporter.half1 ≠ .filling x) →
        let size := imageSize f.geometry r.scale r.content
        let reached := b.offset + b.bytes.length
        let following := if b.frame + 1 < r.firstFrame + r.frameCount then some (b.frame + 1) else none
        let full := fun (x : ExportRecord) => ExportEngine.mk (some x) (.full b) s.exporter.half1
        (reached < size → exec .fillEnd s = .next ((s.setExporter (full
          { r with nextSequence := r.nextSequence + 1, nextOffset := reached })).stageOrWait).sendIfDue) ∧
        (size ≤ reached → exec .fillEnd s = .next ((s.setExporter (full
          { r with nextSequence := r.nextSequence + 1, nextOffset := 0, nextFrame := following })).stageOrWait).sendIfDue)) ∧
      (∀ b k e f, s.exporter.half1 = .filling b → s.clip r.clip = some k → k.frames[b.frame]? = some e →
        s.slots.frame e.slot = some f → (∀ x, s.exporter.half0 ≠ .filling x) →
        let size := imageSize f.geometry r.scale r.content
        let reached := b.offset + b.bytes.length
        let following := if b.frame + 1 < r.firstFrame + r.frameCount then some (b.frame + 1) else none
        let full := fun (x : ExportRecord) => ExportEngine.mk (some x) s.exporter.half0 (.full b)
        (reached < size → exec .fillEnd s = .next ((s.setExporter (full
          { r with nextSequence := r.nextSequence + 1, nextOffset := reached })).stageOrWait).sendIfDue) ∧
        (size ≤ reached → exec .fillEnd s = .next ((s.setExporter (full
          { r with nextSequence := r.nextSequence + 1, nextOffset := 0, nextFrame := following })).stageOrWait).sendIfDue)) ∧
      (r.phase ≠ .waiting → exec .stallTimerExpiry s = .next s.sendIfDue) ∧
      ((∀ d, r.stall = some d → s.elapsed < d) → exec .stallTimerExpiry s = .next s.sendIfDue) ∧
      ∀ d, r.phase = .waiting → r.stall = some d → d ≤ s.elapsed → exec .stallTimerExpiry s = .next
        (((s.endJob r.job .stalled (byteOf r.clip.val :: bytes2 r.blocksSent ++ bytes2 (s.exporter.firstUnsent r))
          ).setExporter ⟨none, .empty, .empty⟩).completeClip r.clip .exportEnded).sendIfDue) ∧
  (∀ (s : State) (r : ExportRecord) (b : Block) (other : Half), s.exporter.job = some r → (∀ x, other ≠ .sending x) →
    (s.exporter.half0 = .sending b ∧ s.exporter.half1 = other) ∨ (s.exporter.half0 = other ∧ s.exporter.half1 = .sending b) →
    let emptied := fun job : Option ExportRecord =>
      match s.exporter.half0 with
      | .sending _ => Machine.ExportEngine.mk job .empty other
      | _ => Machine.ExportEngine.mk job other .empty
    (r.phase = .ending → s.transmissionEnds = s.setExporter (emptied none)) ∧
    (r.phase ≠ .ending → r.nextFrame = none → other = .empty → s.transmissionEnds
      = ((s.endJob r.job .ok (byteOf r.clip.val :: bytes2 (r.blocksSent + 1))).setExporter (emptied none)
        ).completeClip r.clip .exportEnded) ∧
    (r.phase ≠ .ending → r.nextFrame ≠ none ∨ other ≠ .empty → s.transmissionEnds
      = (s.setExporter (emptied (some { r with blocksSent := r.blocksSent + 1 }))).stageOrWait)) ∧
  ∀ (pixels : List Host.Cell) (slot : SlotNo) (g : Geometry) (scale n : Nat),
    let stored := fun i j k : Nat => (Memory.read pixels (slotAddress slot ((j * g.width + i) * 2 + k))).toNat
    let columns := g.width / scale
    let total := fun (p : Nat) (value : Nat → Nat → Nat) => ((List.range scale).map fun j => ((List.range scale).map fun i =>
      value (p % columns * scale + i) (p / columns * scale + j)).sum).sum
    imageSize g scale .luma = columns * (g.height / scale) ∧ imageSize g scale .full = columns * (g.height / scale) * 2 ∧
    (scale = 1 → imageByte pixels slot g scale .luma n = Memory.read pixels (slotAddress slot (2 * n)) ∧
      imageByte pixels slot g scale .full n = Memory.read pixels (slotAddress slot n)) ∧
    (scale = 2 ∨ scale = 4 →
      imageByte pixels slot g scale .luma n = byteOf (total n (fun i j => stored i j 0) / (scale * scale)) ∧
      imageByte pixels slot g scale .full (2 * n) = byteOf (total n (fun i j => stored i j 0) / (scale * scale)) ∧
      imageByte pixels slot g scale .full (2 * n + 1) =
        byteOf (total n (fun i j => if i % 2 = n % columns % 2 then stored i j 1 else 0) / (scale * (scale / 2))))

/-! ## What every command leaves, and what every step keeps -/

/-- No command changes the queue of waiting commands, which is the model's own (log 5). The pixel bytes change at LINE_PACKET alone; each setting changes only at the commands that write it, when no request waits:
a request at its own kind, the freshness condition and attention at the freshness timer too, the time base at a tick, and any
setting at a reset, at a frame boundary, which may make one, and at a character, which may end a request. -/
def Obligations.WhatCommandsLeave : Prop :=
  (∀ (c : Instr) (s t : State), exec c s = .next t → t.pending = s.pending) ∧
  (∀ (c : Instr) (s t : State), (∀ lane packet, c ≠ .linePacket lane packet) → exec c s = .next t → t.pixels = s.pixels) ∧
  ∀ (c : Instr) (s t : State) (p : Part), c.wellFormed = true → s.link.buffers = [] → commandWrites c p = false →
    exec c s = .next t → p.same s t

/-- What the invariants below say holds in the state after reset. -/
def Obligations.InvariantsAtReset : Prop :=
  PixelsCanonical State.reset ∧ HoldWithin State.reset.slots ∧ PoolOrDeficit State.reset.slots ∧
  SlotsAccounted State.reset.slots ∧ ControlBounded State.reset ∧ SplitBounded State.reset ∧ QueueDistinct State.reset ∧
  BuffersBounded State.reset ∧ SetupsInRange State.reset ∧ RingsFit State.reset

/-- Every step keeps each of these: the frame store's bytes in canonical form; the hold count within the hold limit (R17); the
free pool or the deficit queue empty (R4); the accounts of the slot manager in agreement (R2, R3, R5, R6, R10, R11, R14, R17:
every slot in exactly one place), so that its counts add up to 160 (R22); with these, that the ring size and the deficit entries of
a camera with a ring, which it has in BRINGUP, SEARCHING, RUNNING and LOST alone, add up to its depth (R6); at most 3 entries in a control queue (R51), 6 in a split list (R104), 2 requests
waiting (R177); no duplicates in the priority queue (R126). -/
def Obligations.StepKeepsInvariants : Prop :=
  (∀ m : SlotManager, SlotsAccounted m →
    m.freePool.length + (allCams.map m.ringSize).sum + m.clipCount + m.retiringCount = 160) ∧
  ∀ s t : State, step s = .next t →
    (SlotsAccounted s.slots → SlotsAccounted t.slots) ∧ (PixelsCanonical s → PixelsCanonical t) ∧ (HoldWithin s.slots → HoldWithin t.slots) ∧
    (PoolOrDeficit s.slots → PoolOrDeficit t.slots) ∧ (ControlBounded s → ControlBounded t) ∧
    (SplitBounded s → SplitBounded t) ∧ (BuffersBounded s → BuffersBounded t) ∧ (QueueDistinct s → QueueDistinct t) ∧
    (SlotsAccounted s.slots → RingsFit s → RingsFit t)

/-- From a state whose camera setups lie within the ranges of R24, every step ends in a next state with such setups: no command
stops the part. -/
def Obligations.StepNeverStops : Prop :=
  ∀ s : State, SetupsInRange s → ∃ t, step s = .next t ∧ SetupsInRange t
end

