-- ==== Sys2Proof/Laws/Slots.lean ====
section
/-! SUPPORT. What each slot manager operation can do to the hold count, the hold limit, the free pool and the deficit
queue. -/

-- One proof at a time: a thread for each at once is more than the memory limit lets Lean have.
set_option Elab.async false

namespace Sys2Proof.Machine

/-- A later slot manager keeps the bounds an earlier one has, and its hold limit. -/
structure SlotManager.Limits (r m : SlotManager) : Prop where
  hold : HoldWithin r → HoldWithin m
  pool : PoolOrDeficit r → PoolOrDeficit m
  limit : m.holdLimit = r.holdLimit

namespace SlotManager

theorem Limits.refl (m : SlotManager) : Limits m m := ⟨id, id, rfl⟩

theorem Limits.trans {a b c : SlotManager} (h : Limits a b) (k : Limits b c) : Limits a c :=
  ⟨fun x => k.hold (h.hold x), fun x => k.pool (h.pool x), k.limit.trans h.limit⟩

/-- Bounds follow from equal counts and lists. -/
theorem Limits.of_eq {r m n : SlotManager} (h : Limits r m) (hc : n.holdCount = m.holdCount) (hl : n.holdLimit = m.holdLimit)
    (hf : n.freePool = m.freePool) (hd : n.deficit = m.deficit) : Limits r n :=
  ⟨fun x => by have := h.hold x; simpa [HoldWithin, hc, hl] using this,
   fun x => by have := h.pool x; simpa [PoolOrDeficit, hf, hd] using this, hl.trans h.limit⟩

theorem foldl_limits {α : Type} {r : SlotManager} (f : SlotManager → α → SlotManager)
    (hf : ∀ m x, Limits r m → Limits r (f m x)) (l : List α) : ∀ m, Limits r m → Limits r (l.foldl f m) := by
  induction l with
  | nil => exact fun m h => h
  | cons x l ih => exact fun m h => ih _ (hf m x h)

theorem setSlot_limits {r m : SlotManager} (i : SlotNo) (x : SlotRecord) (h : Limits r m) : Limits r (m.setSlot i x) :=
  h.of_eq rfl rfl rfl rfl

theorem setPlace_limits {r m : SlotManager} (i : SlotNo) (p : Place) (h : Limits r m) : Limits r (m.setPlace i p) :=
  setSlot_limits i _ h

theorem setRing_limits {r m : SlotManager} (c : Cam) (x : Option Ring) (h : Limits r m) : Limits r (m.setRing c x) :=
  h.of_eq rfl rfl rfl rfl

theorem joinBlank_limits {r m : SlotManager} (c : Cam) (i : SlotNo) (h : Limits r m) : Limits r (m.joinBlank c i) := by
  unfold joinBlank
  dsimp only
  split
  · exact setSlot_limits _ _ h
  · exact setRing_limits _ _ (setSlot_limits _ _ h)

theorem giveBack_limits {r m : SlotManager} (i : SlotNo) (h : Limits r m) : Limits r (m.giveBack i) := by
  unfold giveBack
  split
  · rename_i c rest hd
    refine joinBlank_limits _ _ ⟨fun x => ?_, fun x => ?_, h.limit⟩
    · exact h.hold x
    · have := h.pool x
      simp only [PoolOrDeficit, hd] at this ⊢
      rcases this with this | this
      · exact Or.inl this
      · exact absurd this (by simp)
  · rename_i hd
    exact ⟨fun x => h.hold x, fun _ => Or.inr hd, h.limit⟩

theorem giveBackAll_limits {r m : SlotManager} (l : List SlotNo) (h : Limits r m) : Limits r (m.giveBackAll l) :=
  foldl_limits _ (fun _ i h => giveBack_limits i h) l m h

theorem retire_limits {r m : SlotManager} (i : SlotNo) (h : Limits r m) : Limits r (m.retire i) := by
  unfold retire
  split
  · exact setPlace_limits _ _ h
  · exact setPlace_limits _ _ h
  · exact h

theorem leave_limits {r m : SlotManager} (i : SlotNo) (h : Limits r m) : Limits r (m.leave i) := by
  unfold leave
  split
  · exact giveBack_limits i h
  · exact retire_limits i h

theorem establish_limits {r m n : SlotManager} (c : Cam) (depth : Nat) (h : Limits r m)
    (e : m.establish c depth = some n) : Limits r n := by
  unfold establish at e
  split at e
  · cases e; exact h
  · split at e
    · cases e
      refine foldl_limits _ (fun _ i h => joinBlank_limits c i h) _ _ (setRing_limits _ _ ⟨fun x => h.hold x, fun x => ?_, h.limit⟩)
      have := h.pool x
      simp only [PoolOrDeficit] at this ⊢
      rcases this with this | this
      · left; simp [this]
      · exact Or.inr this
    · cases e

theorem discard_limits {r m : SlotManager} (c : Cam) (h : Limits r m) : Limits r (m.discard c) := by
  unfold discard
  split
  · exact h
  · split
    · exact h
    · exact joinBlank_limits _ _ (setRing_limits _ _ h)

theorem take_limits {r m : SlotManager} (c : Cam) (f : FrameFields) (h : Limits r m) : Limits r (m.take c f).1 := by
  unfold take
  have hd := discard_limits c h
  dsimp only
  split
  · exact hd
  · split
    · exact setSlot_limits _ _ (setRing_limits _ _ hd)
    · split
      · exact setSlot_limits _ _ (setRing_limits _ _ hd)
      · exact hd

theorem moveOut_limits {r m : SlotManager} (c : Cam) (i : SlotNo) (h : Limits r m) : Limits r (m.moveOut c i) := by
  unfold moveOut
  split
  · dsimp only
    split
    · exact setPlace_limits _ _ h
    · exact setRing_limits _ _ (setPlace_limits _ _ h)
  · exact h

theorem replace_limits {r m : SlotManager} (c : Cam) (h : Limits r m) : Limits r (m.replace c) := by
  unfold replace
  split
  · rename_i i rest hf
    refine joinBlank_limits _ _ ⟨fun x => h.hold x, fun x => ?_, h.limit⟩
    have := h.pool x
    simp only [PoolOrDeficit, hf] at this ⊢
    rcases this with this | this
    · exact absurd this (by simp)
    · exact Or.inr this
  · rename_i hf
    exact ⟨fun x => h.hold x, fun _ => Or.inl hf, h.limit⟩

theorem moveIntoClip_limits {r m : SlotManager} (c : Cam) (i : SlotNo) (h : Limits r m) : Limits r (m.moveIntoClip c i) :=
  replace_limits c (moveOut_limits c i h)

theorem publish_limits {r m : SlotManager} (c : Cam) (h : Limits r m) : Limits r (m.publish c).1 := by
  unfold publish
  split
  · exact h
  · split
    · exact h
    · split
      · have hp : ∀ x i p, Limits r ((m.setRing c x).setPlace i p) := fun x i p => setPlace_limits _ _ (setRing_limits _ _ h)
        dsimp only
        split
        · exact hp _ _ _
        · split
          · exact hp _ _ _
          · exact moveIntoClip_limits _ _ (hp _ _ _)
      · exact h

theorem pinNewest_limits {r m : SlotManager} (c : Cam) (reader : Reader) (h : Limits r m) :
    Limits r (m.pinNewest c reader).1 := by
  unfold pinNewest
  split
  · exact h
  · exact setSlot_limits _ _ h

theorem unpin_limits {r m : SlotManager} (i : SlotNo) (reader : Reader) (h : Limits r m) : Limits r (m.unpin i reader) := by
  unfold unpin
  split
  · dsimp only
    split
    · split
      · exact giveBack_limits _ (setSlot_limits _ _ h)
      · exact setSlot_limits _ _ h
    · exact setSlot_limits _ _ h
  · exact h

theorem claim_limits {r m : SlotManager} (k : ClipId) (c : Cam) (i : SlotNo) (q : Word32) (h : Limits r m) :
    Limits r (m.claim k c i q).1 := by
  unfold claim
  split
  · split
    · split
      · exact h
      · split
        · rename_i hlt
          have hm : ∀ p, Limits r { m.setPlace i p with holdCount := m.holdCount + 1 } := fun p =>
            ⟨fun x => ⟨hlt, (h.hold x).2⟩, fun x => h.pool x, h.limit⟩
          dsimp only
          split
          · exact hm _
          · exact moveIntoClip_limits _ _ (hm _)
        · exact h
    · exact h
  · exact h

theorem releaseOne_limits {r m : SlotManager} (k : ClipId) (i : SlotNo) (h : Limits r m) : Limits r (m.releaseOne k i) := by
  have fall : ∀ n : SlotManager, Limits r n → Limits r { n with holdCount := n.holdCount - 1 } := fun n hn =>
    ⟨fun x => ⟨Nat.le_trans (Nat.sub_le _ _) (hn.hold x).1, (hn.hold x).2⟩, fun x => hn.pool x, hn.limit⟩
  unfold releaseOne
  split
  · split
    · exact leave_limits _ (fall _ h)
    · exact h
  · split
    · exact fall _ (setPlace_limits _ _ h)
    · exact h
  · exact h

theorem release_limits {r m : SlotManager} (k : ClipId) (l : List SlotNo) (h : Limits r m) : Limits r (m.release k l) :=
  foldl_limits _ (fun _ i h => releaseOne_limits k i h) l m h

theorem dissolve_limits {r m : SlotManager} (c : Cam) (h : Limits r m) : Limits r (m.dissolve c).1 := by
  unfold dissolve
  split
  · exact h
  · have hd : Limits r { m with deficit := m.deficit.filter (· != c) } := by
      refine ⟨fun x => h.hold x, fun x => ?_, h.limit⟩
      rcases h.pool x with this | this
      · exact Or.inl this
      · right; simp [this]
    refine setRing_limits _ _ (foldl_limits _ (fun _ i h => leave_limits i h) _ _ ?_)
    refine giveBackAll_limits _ (giveBackAll_limits _ ?_)
    split
    · exact hd
    · exact moveOut_limits _ _ hd

end SlotManager

end Sys2Proof.Machine
end

