-- ==== Sys2Proof/Laws/Accounting.lean ====
section
/-! SUPPORT. The accounts of the slot manager: how its lists and records change, and that every request it takes keeps them in
agreement (R2 to R20, R22). -/

-- One proof at a time: a thread for each at once is more than the memory limit lets Lean have.
set_option Elab.async false

namespace Sys2Proof.Machine.SlotManager

/-! ## Slots, rings and lists under updates -/

@[simp] theorem slot_setSlot (m : SlotManager) (i : SlotNo) (x : SlotRecord) : (m.setSlot i x).slot i = x := by
  simp [setSlot, slot]

theorem slot_setSlot_ne (m : SlotManager) (i j : SlotNo) (x : SlotRecord) (h : j ≠ i) :
    (m.setSlot i x).slot j = m.slot j := by
  have : i.val ≠ j.val := fun e => h (Fin.ext e.symm)
  simp [setSlot, slot, this]

@[simp] theorem ring_setRing (m : SlotManager) (c : Cam) (x : Option Ring) : (m.setRing c x).ring c = x := by
  simp [setRing, ring]

theorem ring_setRing_ne (m : SlotManager) (c d : Cam) (x : Option Ring) (h : d ≠ c) : (m.setRing c x).ring d = m.ring d := by
  have : c.val ≠ d.val := fun e => h (Fin.ext e.symm)
  simp [setRing, ring, this]

theorem setRing_setRing (m : SlotManager) (c : Cam) (x y : Option Ring) : (m.setRing c x).setRing c y = m.setRing c y := by
  simp [setRing]

theorem setRing_comm (m : SlotManager) (c d : Cam) (x y : Option Ring) (h : d ≠ c) :
    (m.setRing c x).setRing d y = (m.setRing d y).setRing c x := by
  have : c.val ≠ d.val := fun e => h (Fin.ext e.symm)
  unfold setRing
  congr 1
  exact Vector.set_comm x y this

@[simp] theorem slot_setRing (m : SlotManager) (c : Cam) (x : Option Ring) (i : SlotNo) : (m.setRing c x).slot i = m.slot i := rfl
@[simp] theorem ring_setSlot (m : SlotManager) (c : Cam) (x : SlotRecord) (i : SlotNo) : (m.setSlot i x).ring c = m.ring c := rfl
@[simp] theorem members_setSlot (m : SlotManager) (x : SlotRecord) (i : SlotNo) (l : SlotList) :
    (m.setSlot i x).members l = m.members l := by cases l <;> rfl

/-- The lists of another camera, and the free pool, stay when a ring changes. -/
theorem members_setRing_ne (m : SlotManager) (c : Cam) (x : Option Ring) (l : SlotList)
    (h : l ≠ .blank c ∧ l ≠ .filling c ∧ l ≠ .ready c) : (m.setRing c x).members l = m.members l := by
  cases l with
  | free => rfl
  | blank d => simp only [members]; rw [ring_setRing_ne]; intro e; exact h.1 (by rw [e])
  | filling d => simp only [members]; rw [ring_setRing_ne]; intro e; exact h.2.1 (by rw [e])
  | ready d => simp only [members]; rw [ring_setRing_ne]; intro e; exact h.2.2 (by rw [e])

/-! ## The count of held slots -/

theorem countP_change {α : Type} [DecidableEq α] (l : List α) (hn : l.Nodup) (p q : α → Bool) (a : α) (ha : a ∈ l)
    (h : ∀ x, x ≠ a → q x = p x) : l.countP q + (p a).toNat = l.countP p + (q a).toNat := by
  induction l with
  | nil => cases ha
  | cons y t ih =>
    rw [List.nodup_cons] at hn
    rw [List.countP_cons, List.countP_cons]
    by_cases e : y = a
    · subst e
      have : t.countP q = t.countP p := by
        apply List.countP_congr
        intro x hx
        rw [h x (fun e => hn.1 (e ▸ hx))]
      rw [this]
      cases p y <;> cases q y <;> simp
    · rcases List.mem_cons.mp ha with e' | ha'
      · exact absurd e'.symm e
      · have := ih hn.2 ha'
        rw [h y e]
        omega

/-- A slot's new record changes the count of held slots by what it counted and counts. -/
theorem heldCount_setSlot (m : SlotManager) (i : SlotNo) (x : SlotRecord) :
    (m.setSlot i x).heldCount + (m.slot i).place.held.toNat = m.heldCount + x.place.held.toNat := by
  have := countP_change (List.finRange 160) (List.nodup_finRange 160) (fun j => (m.slot j).place.held)
    (fun j => ((m.setSlot i x).slot j).place.held) i (List.mem_finRange i)
    (fun j hj => by rw [slot_setSlot_ne _ _ _ _ hj])
  simpa [heldCount] using this

@[simp] theorem heldCount_setRing (m : SlotManager) (c : Cam) (x : Option Ring) : (m.setRing c x).heldCount = m.heldCount := rfl

theorem heldCount_joinBlank (m : SlotManager) (c : Cam) (i : SlotNo) :
    (m.joinBlank c i).heldCount + (m.slot i).place.held.toNat = m.heldCount := by
  have := heldCount_setSlot m i ⟨.blank c, Holders.none⟩
  unfold joinBlank
  dsimp only
  split <;> simpa [Place.held] using this

theorem heldCount_giveBack (m : SlotManager) (i : SlotNo) :
    (m.giveBack i).heldCount + (m.slot i).place.held.toNat = m.heldCount := by
  unfold giveBack
  split
  · exact heldCount_joinBlank _ _ _
  · have := heldCount_setSlot m i SlotRecord.reset
    have e : SlotRecord.reset.place.held.toNat = 0 := rfl
    rw [e, Nat.add_zero] at this
    exact this

theorem heldCount_leave (m : SlotManager) (i : SlotNo) :
    (m.leave i).heldCount + (m.slot i).place.held.toNat = m.heldCount := by
  unfold leave
  split
  · exact heldCount_giveBack m i
  · unfold retire
    split
    · rename_i c f k e
      exact heldCount_setSlot m i ⟨.retiring c f, (m.slot i).holders⟩
    · rename_i c f k e
      exact heldCount_setSlot m i ⟨.retiring c f, (m.slot i).holders⟩
    · rename_i h1 h2
      cases hp : (m.slot i).place <;> simp [Place.held]
      · exact absurd hp (h1 _ _ _)
      · exact absurd hp (h2 _ _ _)

/-! ## Claims stand at the newest slot (R14) -/

/-- Every claimed slot of a ring is its newest READY slot. -/
def ClaimsNewest (m : SlotManager) : Prop :=
  ∀ i c f k, (m.slot i).place = .ready c f (some k) → m.newest c = some i

@[simp] theorem newest_setSlot (m : SlotManager) (i : SlotNo) (x : SlotRecord) (c : Cam) :
    (m.setSlot i x).newest c = m.newest c := rfl

theorem newest_setRing (m : SlotManager) (c : Cam) (x : Option Ring) (d : Cam)
    (h : (x.bind (·.ready.getLast?)) = m.newest c) : (m.setRing c x).newest d = m.newest d := by
  by_cases e : d = c
  · subst e
    unfold newest at h ⊢
    rw [ring_setRing, ← h]
    cases x <;> rfl
  · unfold newest
    rw [ring_setRing_ne _ _ _ _ e]

theorem ClaimsNewest.setSlot {m : SlotManager} (h : ClaimsNewest m) (i : SlotNo) (x : SlotRecord)
    (hx : ∀ c f k, x.place = .ready c f (some k) → m.newest c = some i) : ClaimsNewest (m.setSlot i x) := by
  intro j c f k e
  by_cases ej : j = i
  · subst ej; rw [slot_setSlot] at e; exact hx c f k e
  · rw [slot_setSlot_ne _ _ _ _ ej] at e; exact h j c f k e

theorem ClaimsNewest.setRing {m : SlotManager} (h : ClaimsNewest m) (c : Cam) (x : Option Ring)
    (hx : (x.bind (·.ready.getLast?)) = m.newest c) : ClaimsNewest (m.setRing c x) := by
  intro j d f k e
  rw [newest_setRing m c x d hx]
  exact h j d f k e

theorem ClaimsNewest.joinBlank {m : SlotManager} (h : ClaimsNewest m) (c : Cam) (i : SlotNo) :
    ClaimsNewest (m.joinBlank c i) := by
  have h1 : ClaimsNewest (m.setSlot i ⟨.blank c, Holders.none⟩) := h.setSlot _ _ (fun _ _ _ e => by cases e)
  unfold SlotManager.joinBlank
  dsimp only
  split
  · exact h1
  · rename_i r e
    refine h1.setRing _ _ ?_
    rw [ring_setSlot] at e
    rw [newest_setSlot]
    unfold newest
    rw [e]
    rfl

theorem ClaimsNewest.of_eq {m n : SlotManager} (h : ClaimsNewest m) (h1 : n.records = m.records) (h2 : n.rings = m.rings) :
    ClaimsNewest n := by
  intro i c f k e
  have : n.newest c = m.newest c := by unfold newest ring; rw [h2]
  rw [this]
  refine h i c f k ?_
  unfold slot at e ⊢
  rw [h1] at e
  exact e

theorem ClaimsNewest.giveBack {m : SlotManager} (h : ClaimsNewest m) (i : SlotNo) : ClaimsNewest (m.giveBack i) := by
  unfold SlotManager.giveBack
  split
  · refine ClaimsNewest.joinBlank ?_ _ _
    exact h.of_eq rfl rfl
  · exact (h.setSlot i SlotRecord.reset (fun _ _ _ e => by cases e)).of_eq rfl rfl

theorem ClaimsNewest.leave {m : SlotManager} (h : ClaimsNewest m) (i : SlotNo) : ClaimsNewest (m.leave i) := by
  unfold SlotManager.leave
  split
  · exact h.giveBack i
  · unfold SlotManager.retire
    split
    · exact h.setSlot _ _ (fun _ _ _ e => by cases e)
    · exact h.setSlot _ _ (fun _ _ _ e => by cases e)
    · exact h

theorem getLast?_erase (l : List SlotNo) (i j : SlotNo) (h : l.getLast? = some j) (e : j ≠ i) :
    (l.erase i).getLast? = some j := by
  induction l with
  | nil => cases h
  | cons y t ih =>
    cases t with
    | nil =>
      simp only [List.getLast?_singleton, Option.some.injEq] at h
      subst h
      rw [List.erase_cons_tail (by simpa using e)]
      rfl
    | cons z t =>
      rw [List.getLast?_cons_cons] at h
      by_cases ey : y = i
      · subst ey
        rw [List.erase_cons_head]
        exact h
      · rw [List.erase_cons_tail (by simpa using ey)]
        have := ih h
        cases ht : (z :: t).erase i with
        | nil => rw [ht] at this; cases this
        | cons a b => rw [ht] at this; rw [List.getLast?_cons_cons]; exact this

/-- A claimed slot leaves its ring for its clip: the claims left are at the newest slots. -/
theorem ClaimsNewest.moveOut {m : SlotManager} (c : Cam) (i : SlotNo)
    (h : ∀ j d f k, j ≠ i → (m.slot j).place = .ready d f (some k) → m.newest d = some j)
    (hi : (m.claimOf i).isSome) : ClaimsNewest (m.moveOut c i) := by
  unfold SlotManager.moveOut
  unfold claimOf at hi
  split
  · rename_i c' f k e
    dsimp only
    have hs : ∀ j d f' k', ((m.setPlace i (.clip c' f k)).slot j).place = .ready d f' (some k') →
        j ≠ i ∧ m.newest d = some j := by
      intro j d f' k' e'
      by_cases ej : j = i
      · subst ej; simp [setPlace] at e'
      · unfold setPlace at e'
        rw [slot_setSlot_ne _ _ _ _ ej] at e'
        exact ⟨ej, h j d f' k' ej e'⟩
    split
    · intro j d f' k' e'
      exact (hs j d f' k' e').2
    · rename_i r er
      intro j d f' k' e'
      obtain ⟨hj, hn⟩ := hs j d f' k' e'
      by_cases ed : d = c
      · subst ed
        unfold newest at hn ⊢
        rw [ring_setRing]
        unfold setPlace at er
        rw [ring_setSlot] at er
        rw [er] at hn
        exact getLast?_erase _ _ _ hn hj
      · unfold newest at hn ⊢
        rw [ring_setRing_ne _ _ _ _ ed]
        exact hn
  · rename_i hn
    cases hp : (m.slot i).place with
    | ready c f k => cases k with
      | none => rw [hp] at hi; cases hi
      | some k => exact absurd hp (hn _ _ _)
    | _ => rw [hp] at hi; cases hi

theorem ClaimsNewest.replace {m : SlotManager} (h : ClaimsNewest m) (c : Cam) : ClaimsNewest (m.replace c) := by
  unfold SlotManager.replace
  split
  · refine ClaimsNewest.joinBlank ?_ _ _
    exact h.of_eq rfl rfl
  · exact h.of_eq rfl rfl

/-! ## Places and lists agree, but for slots in hand -/

/-- Every slot that is not in hand stands once in the list its record names and in no other, with pins that fit; a slot in hand
stands in no list; only cameras with a ring have deficit entries. -/
structure Placed (hand : SlotNo → Prop) (m : SlotManager) : Prop where
  placed   : ∀ i, ¬ hand i → ∀ l, (m.slot i).place.list = some l ↔ i ∈ m.members l
  out      : ∀ i, hand i → ∀ l, i ∉ m.members l
  distinct : ∀ l, (m.members l).Nodup
  pins     : ∀ i, ¬ hand i → (m.slot i).pinsFit
  deficit  : ∀ c ∈ m.deficit, m.ring c ≠ none

theorem Placed.congr {p q : SlotNo → Prop} {m : SlotManager} (h : Placed p m) (e : ∀ i, q i ↔ p i) : Placed q m := by
  have : q = p := funext fun i => propext (e i)
  rw [this]; exact h

/-- Slots leave their lists and are in hand. -/
theorem Placed.lift {p : SlotNo → Prop} {m n : SlotManager} (h : Placed p m) (new : SlotNo → Prop)
    (hs : ∀ i, n.slot i = m.slot i) (hm : ∀ l i, i ∈ n.members l ↔ i ∈ m.members l ∧ ¬ new i)
    (hn : ∀ l, (n.members l).Nodup) (hd : ∀ c ∈ n.deficit, n.ring c ≠ none) : Placed (fun i => p i ∨ new i) n where
  placed := fun i hi l => by
    rw [hs, hm, h.placed i (fun x => hi (Or.inl x)) l]
    exact ⟨fun x => ⟨x, fun y => hi (Or.inr y)⟩, fun x => x.1⟩
  out := fun i hi l x => by
    rcases hi with hi | hi
    · exact h.out i hi l ((hm l i).mp x).1
    · exact ((hm l i).mp x).2 hi
  distinct := hn
  pins := fun i hi => by rw [hs]; exact h.pins i (fun x => hi (Or.inl x))
  deficit := hd

/-- A slot in hand is put into a list, the one its new record names. -/
theorem Placed.put {p : SlotNo → Prop} {m n : SlotManager} (h : Placed p m) (i : SlotNo) (l : SlotList) (hi : p i)
    (hs : ∀ j, j ≠ i → n.slot j = m.slot j) (hl : (n.slot i).place.list = some l) (hp : (n.slot i).pinsFit)
    (hm : ∀ l', l' ≠ l → n.members l' = m.members l') (hin : ∀ j, j ∈ n.members l ↔ j ∈ m.members l ∨ j = i)
    (hn : (n.members l).Nodup) (hd : ∀ c ∈ n.deficit, n.ring c ≠ none) : Placed (fun j => p j ∧ j ≠ i) n where
  placed := fun j hj l' => by
    by_cases e : j = i
    · subst e
      by_cases el : l' = l
      · subst el
        exact ⟨fun _ => (hin j).mpr (Or.inr rfl), fun _ => hl⟩
      · rw [hl, hm l' el]
        exact ⟨fun x => absurd (Option.some.inj x).symm el, fun x => absurd x (h.out j hi l')⟩
    · rw [hs j e, h.placed j (fun x => hj ⟨x, e⟩) l']
      by_cases el : l' = l
      · subst el
        rw [hin]
        exact ⟨Or.inl, fun x => x.resolve_right e⟩
      · rw [hm l' el]
  out := fun j hj l' x => by
    by_cases el : l' = l
    · subst el
      rcases (hin j).mp x with x | x
      · exact h.out j hj.1 _ x
      · exact hj.2 x
    · rw [hm l' el] at x
      exact h.out j hj.1 l' x
  distinct := fun l' => by
    by_cases el : l' = l
    · subst el; exact hn
    · rw [hm l' el]; exact h.distinct l'
  pins := fun j hj => by
    by_cases e : j = i
    · subst e; exact hp
    · rw [hs j e]; exact h.pins j (fun x => hj ⟨x, e⟩)
  deficit := hd

/-- A slot's record changes and it stays in its list. -/
theorem Placed.setSlot {p : SlotNo → Prop} {m : SlotManager} (h : Placed p m) (i : SlotNo) (x : SlotRecord)
    (hl : ¬ p i → x.place.list = (m.slot i).place.list) (hp : ¬ p i → x.pinsFit) : Placed p (m.setSlot i x) where
  placed := fun j hj l => by
    rw [members_setSlot]
    by_cases e : j = i
    · subst e; rw [slot_setSlot, hl hj]; exact h.placed j hj l
    · rw [slot_setSlot_ne _ _ _ _ e]; exact h.placed j hj l
  out := fun j hj l => by rw [members_setSlot]; exact h.out j hj l
  distinct := fun l => by rw [members_setSlot]; exact h.distinct l
  pins := fun j hj => by
    by_cases e : j = i
    · subst e; rw [slot_setSlot]; exact hp hj
    · rw [slot_setSlot_ne _ _ _ _ e]; exact h.pins j hj
  deficit := h.deficit

/-- A slot in hand goes into a clip or retires. -/
theorem Placed.park {p : SlotNo → Prop} {m : SlotManager} (h : Placed p m) (i : SlotNo) (x : SlotRecord) (hi : p i)
    (hl : x.place.list = none) (hp : x.pinsFit) : Placed (fun j => p j ∧ j ≠ i) (m.setSlot i x) where
  placed := fun j hj l => by
    rw [members_setSlot]
    by_cases e : j = i
    · subst e; rw [slot_setSlot, hl]
      exact ⟨fun y => (by cases y), fun y => absurd y (h.out j hi l)⟩
    · rw [slot_setSlot_ne _ _ _ _ e]; exact h.placed j (fun x => hj ⟨x, e⟩) l
  out := fun j hj l => by rw [members_setSlot]; exact h.out j hj.1 l
  distinct := fun l => by rw [members_setSlot]; exact h.distinct l
  pins := fun j hj => by
    by_cases e : j = i
    · subst e; rw [slot_setSlot]; exact hp
    · rw [slot_setSlot_ne _ _ _ _ e]; exact h.pins j (fun x => hj ⟨x, e⟩)
  deficit := h.deficit

theorem ring_ne_none_setRing {m : SlotManager} (c : Cam) (r : Ring) (h : ∀ d ∈ m.deficit, m.ring d ≠ none) :
    ∀ d ∈ m.deficit, (m.setRing c (some r)).ring d ≠ none := by
  intro d hd
  by_cases e : d = c
  · subst e; rw [ring_setRing]; exact Option.some_ne_none _
  · rw [ring_setRing_ne _ _ _ _ e]; exact h d hd

theorem nodup_append_singleton {l : List SlotNo} {i : SlotNo} (h : l.Nodup) (hi : i ∉ l) : (l ++ [i]).Nodup := by
  rw [List.nodup_append]
  exact ⟨h, List.nodup_singleton i, fun a ha b hb e => hi (by rw [List.mem_singleton] at hb; rw [← hb, ← e]; exact ha)⟩

/-- A slot in hand joins the BLANK list of a ring. -/
theorem Placed.joinBlank {p : SlotNo → Prop} {m : SlotManager} (h : Placed p m) (c : Cam) (i : SlotNo) (hi : p i)
    (hr : m.ring c ≠ none) : Placed (fun j => p j ∧ j ≠ i) (m.joinBlank c i) := by
  unfold SlotManager.joinBlank
  dsimp only
  rw [ring_setSlot]
  cases e : m.ring c with
  | none => exact absurd e hr
  | some r =>
    dsimp only
    have hb : m.members (.blank c) = r.blank := by simp only [members]; rw [e]; rfl
    have hb' : ∀ x, ((m.setSlot i x).setRing c (some { r with blank := r.blank ++ [i] })).members (.blank c)
        = r.blank ++ [i] := by intro x; simp only [members]; rw [ring_setRing]; rfl
    refine h.put i (.blank c) hi (fun j hj => slot_setSlot_ne _ _ _ _ hj) ?_ ?_ ?_ ?_ ?_ ?_
    · rw [slot_setRing, slot_setSlot]; rfl
    · rw [slot_setRing, slot_setSlot]; rfl
    · intro l hl
      cases l with
      | free => rfl
      | blank d =>
        rw [members_setRing_ne, members_setSlot]
        exact ⟨hl, by simp, by simp⟩
      | filling d =>
        by_cases ed : d = c
        · subst ed; simp only [members]; rw [ring_setRing, e]; rfl
        · rw [members_setRing_ne, members_setSlot]; exact ⟨by simp, by simpa using ed, by simp⟩
      | ready d =>
        by_cases ed : d = c
        · subst ed; simp only [members]; rw [ring_setRing, e]; rfl
        · rw [members_setRing_ne, members_setSlot]; exact ⟨by simp, by simp, by simpa using ed⟩
    · intro j; rw [hb', hb, List.mem_append, List.mem_singleton]
    · rw [hb']
      refine nodup_append_singleton ?_ ?_
      · rw [← hb]; exact h.distinct _
      · rw [← hb]; exact h.out i hi _
    · exact ring_ne_none_setRing (m := m.setSlot i _) c _ h.deficit

/-- A slot in hand returns (R4). -/
theorem Placed.giveBack {p : SlotNo → Prop} {m : SlotManager} (h : Placed p m) (i : SlotNo) (hi : p i) :
    Placed (fun j => p j ∧ j ≠ i) (m.giveBack i) := by
  unfold SlotManager.giveBack
  split
  · rename_i c rest e
    have h' : Placed p { m with deficit := rest } :=
      { h with
        placed := fun j hj l => by have := h.placed j hj l; cases l <;> exact this
        out := fun j hj l => by have := h.out j hj l; cases l <;> exact this
        distinct := fun l => by have := h.distinct l; cases l <;> exact this
        deficit := fun d hd => h.deficit d (by rw [e]; exact List.mem_cons_of_mem _ hd) }
    exact h'.joinBlank c i hi (h.deficit c (by rw [e]; exact List.mem_cons_self))
  · rename_i e
    refine h.put i .free hi (fun j hj => slot_setSlot_ne _ _ _ _ hj) ?_ ?_ ?_ ?_ ?_ ?_
    · show ((m.setSlot i SlotRecord.reset).slot i).place.list = _
      rw [slot_setSlot]; rfl
    · show ((m.setSlot i SlotRecord.reset).slot i).pinsFit
      rw [slot_setSlot]; rfl
    · intro l hl; cases l <;> first | exact absurd rfl hl | rfl
    · intro j; exact List.mem_append.trans (by rw [List.mem_singleton]; exact Iff.rfl)
    · exact nodup_append_singleton (h.distinct .free) (h.out i hi .free)
    · exact h.deficit

/-- A slot in hand that was READY or in a clip leaves for good (R4, R11). -/
theorem Placed.leave {p : SlotNo → Prop} {m : SlotManager} (h : Placed p m) (i : SlotNo) (hi : p i)
    (hp : (∃ c f k, (m.slot i).place = .ready c f k) ∨ ∃ c f k, (m.slot i).place = .clip c f k) :
    Placed (fun j => p j ∧ j ≠ i) (m.leave i) := by
  unfold SlotManager.leave
  split
  · exact h.giveBack i hi
  · rename_i hc
    unfold SlotManager.retire
    rcases hp with ⟨c, f, k, e⟩ | ⟨c, f, k, e⟩ <;> (rw [e]; exact h.park i _ hi rfl hc)

/-- One slot leaves its list and is in hand. -/
theorem Placed.takeOne {p : SlotNo → Prop} {m n : SlotManager} (h : Placed p m) (i : SlotNo) (l : SlotList)
    (hi : i ∈ m.members l) (hs : ∀ j, n.slot j = m.slot j) (hm : ∀ l', l' ≠ l → n.members l' = m.members l')
    (hin : ∀ j, j ∈ n.members l ↔ j ∈ m.members l ∧ j ≠ i) (hn : (n.members l).Nodup)
    (hd : ∀ c ∈ n.deficit, n.ring c ≠ none) : Placed (fun j => p j ∨ j = i) n := by
  have np : ¬ p i := fun x => h.out i x l hi
  refine h.lift (fun j => j = i) hs (fun l' j => ?_) (fun l' => ?_) hd
  · by_cases e : l' = l
    · subst e; exact hin j
    · rw [hm l' e]
      refine ⟨fun x => ⟨x, fun ej => ?_⟩, fun x => x.1⟩
      subst ej
      have a := (h.placed j np l').mpr x
      rw [(h.placed j np l).mpr hi] at a
      exact e (Option.some.inj a).symm
  · by_cases e : l' = l
    · subst e; exact hn
    · rw [hm l' e]; exact h.distinct l'

/-- What a ring's lists are. -/
theorem members_blank {m : SlotManager} {c : Cam} {r : Ring} (h : m.ring c = some r) : m.members (.blank c) = r.blank := by
  simp only [members]; rw [h]; rfl

theorem members_filling {m : SlotManager} {c : Cam} {r : Ring} (h : m.ring c = some r) :
    m.members (.filling c) = r.filling.toList := by simp only [members]; rw [h]; rfl

theorem members_ready {m : SlotManager} {c : Cam} {r : Ring} (h : m.ring c = some r) : m.members (.ready c) = r.ready := by
  simp only [members]; rw [h]; rfl

/-- A ring changes in one of its lists: the others stay. -/
theorem members_setRing_blank {m : SlotManager} {c : Cam} {r : Ring} (h : m.ring c = some r) (b : List SlotNo) (l : SlotList)
    (hl : l ≠ .blank c) : (m.setRing c (some { r with blank := b })).members l = m.members l := by
  have e := ring_setRing m c (some { r with blank := b })
  by_cases h1 : l = .filling c
  · subst h1; rw [members_filling e, members_filling h]
  · by_cases h2 : l = .ready c
    · subst h2; rw [members_ready e, members_ready h]
    · exact members_setRing_ne _ _ _ _ ⟨hl, h1, h2⟩

theorem members_setRing_filling {m : SlotManager} {c : Cam} {r : Ring} (h : m.ring c = some r) (b : Option SlotNo)
    (l : SlotList) (hl : l ≠ .filling c) : (m.setRing c (some { r with filling := b })).members l = m.members l := by
  have e := ring_setRing m c (some { r with filling := b })
  by_cases h1 : l = .blank c
  · subst h1; rw [members_blank e, members_blank h]
  · by_cases h2 : l = .ready c
    · subst h2; rw [members_ready e, members_ready h]
    · exact members_setRing_ne _ _ _ _ ⟨h1, hl, h2⟩

theorem members_setRing_ready {m : SlotManager} {c : Cam} {r : Ring} (h : m.ring c = some r) (b : List SlotNo) (l : SlotList)
    (hl : l ≠ .ready c) : (m.setRing c (some { r with ready := b })).members l = m.members l := by
  have e := ring_setRing m c (some { r with ready := b })
  by_cases h1 : l = .blank c
  · subst h1; rw [members_blank e, members_blank h]
  · by_cases h2 : l = .filling c
    · subst h2; rw [members_filling e, members_filling h]
    · exact members_setRing_ne _ _ _ _ ⟨h1, h2, hl⟩

/-- No slot in hand. -/
abbrev NoHand : SlotNo → Prop := fun _ => False

theorem Placed.noneLeft {i : SlotNo} {m : SlotManager} (h : Placed (fun j => (NoHand j ∨ j = i) ∧ j ≠ i) m) : Placed NoHand m :=
  h.congr fun _ => ⟨fun x => x.elim, fun x => x.2 (x.1.resolve_left id)⟩

theorem Placed.takeFilling {m : SlotManager} (h : Placed NoHand m) {c : Cam} {r : Ring} {i : SlotNo} (e : m.ring c = some r)
    (ef : r.filling = some i) : Placed (fun j => NoHand j ∨ j = i) (m.setRing c (some { r with filling := none })) := by
  have e' := ring_setRing m c (some { r with filling := none })
  refine h.takeOne i (.filling c) ?_ (fun _ => rfl) (members_setRing_filling e none) ?_ ?_
    (ring_ne_none_setRing c _ h.deficit)
  · rw [members_filling e, ef]; simp
  · intro j; rw [members_filling e', members_filling e, ef]; simp
  · rw [members_filling e']; exact List.nodup_nil

theorem Placed.discard {m : SlotManager} (h : Placed NoHand m) (c : Cam) : Placed NoHand (m.discard c) := by
  unfold SlotManager.discard
  split
  · exact h
  · rename_i r e
    split
    · exact h
    · rename_i i ef
      exact ((h.takeFilling e ef).joinBlank c i (Or.inr rfl) (by rw [ring_setRing]; exact Option.some_ne_none _)).noneLeft

theorem discard_filling (m : SlotManager) (c : Cam) (r : Ring) (h : (m.discard c).ring c = some r) : r.filling = none := by
  unfold SlotManager.discard at h
  split at h
  · rename_i e; rw [e] at h; cases h
  · rename_i r' e
    split at h
    · rename_i ef; rw [e] at h; cases h; exact ef
    · unfold SlotManager.joinBlank at h
      dsimp only at h
      rw [ring_setSlot, ring_setRing] at h
      dsimp only at h
      rw [ring_setRing] at h
      cases h
      rfl

/-- A slot in hand becomes the FILLING slot of a ring that has none. -/
theorem Placed.fill {p : SlotNo → Prop} {m : SlotManager} (h : Placed p m) {c : Cam} {r : Ring} (i : SlotNo) (f : FrameFields)
    (e : m.ring c = some r) (ef : r.filling = none) (hi : p i) :
    Placed (fun j => p j ∧ j ≠ i)
      ((m.setRing c (some { r with filling := some i })).setSlot i ⟨.filling c f, Holders.none⟩) := by
  have e' := ring_setRing m c (some { r with filling := some i })
  refine h.put i (.filling c) hi (fun j hj => slot_setSlot_ne _ _ _ _ hj) ?_ ?_ ?_ ?_ ?_ ?_
  · rw [slot_setSlot]; rfl
  · rw [slot_setSlot]; rfl
  · intro l hl; rw [members_setSlot]; exact members_setRing_filling e _ l hl
  · intro j; rw [members_setSlot, members_filling e', members_filling e, ef]; simp [eq_comm]
  · rw [members_setSlot, members_filling e']; simp
  · exact ring_ne_none_setRing c _ h.deficit

theorem Placed.takeReady {m : SlotManager} (h : Placed NoHand m) {c : Cam} {r : Ring} {i : SlotNo} (e : m.ring c = some r)
    (hi : i ∈ r.ready) : Placed (fun j => NoHand j ∨ j = i) (m.setRing c (some { r with ready := r.ready.erase i })) := by
  have e' := ring_setRing m c (some { r with ready := r.ready.erase i })
  have hn : r.ready.Nodup := by rw [← members_ready e]; exact h.distinct _
  refine h.takeOne i (.ready c) ?_ (fun _ => rfl) (members_setRing_ready e _) ?_ ?_ (ring_ne_none_setRing c _ h.deficit)
  · rw [members_ready e]; exact hi
  · intro j; rw [members_ready e', members_ready e]
    constructor
    · intro x
      have := (hn.mem_erase_iff).mp x
      exact ⟨this.2, this.1⟩
    · intro x; exact (hn.mem_erase_iff).mpr ⟨x.2, x.1⟩
  · rw [members_ready e']; exact hn.erase i

theorem Placed.takeBlank {m : SlotManager} (h : Placed NoHand m) {c : Cam} {r : Ring} {i : SlotNo} {rest : List SlotNo}
    (e : m.ring c = some r) (hb : r.blank = i :: rest) :
    Placed (fun j => NoHand j ∨ j = i) (m.setRing c (some { r with blank := rest })) := by
  have e' := ring_setRing m c (some { r with blank := rest })
  have hn : (i :: rest).Nodup := by rw [← hb, ← members_blank e]; exact h.distinct _
  rw [List.nodup_cons] at hn
  refine h.takeOne i (.blank c) ?_ (fun _ => rfl) (members_setRing_blank e _) ?_ ?_ (ring_ne_none_setRing c _ h.deficit)
  · rw [members_blank e, hb]; exact List.mem_cons_self
  · intro j; rw [members_blank e', members_blank e, hb]
    constructor
    · intro x; exact ⟨List.mem_cons_of_mem _ x, fun ej => hn.1 (ej ▸ x)⟩
    · intro x; exact (List.mem_cons.mp x.1).resolve_left x.2
  · rw [members_blank e']; exact hn.2

theorem Placed.take {m : SlotManager} (h : Placed NoHand m) (c : Cam) (f : FrameFields) : Placed NoHand (m.take c f).1 := by
  unfold SlotManager.take
  have hd := h.discard c
  dsimp only
  split
  · exact hd
  · rename_i r e
    have ef := discard_filling m c r e
    split
    · rename_i i rest hb
      have := (hd.takeBlank e hb).fill i f (ring_setRing _ _ _) ef (Or.inr rfl)
      rw [setRing_setRing] at this
      exact this.noneLeft
    · split
      · rename_i i hf
        have hi : i ∈ r.ready := List.dropLast_subset _ (List.mem_of_find?_eq_some hf)
        have := (hd.takeReady e hi).fill i f (ring_setRing _ _ _) ef (Or.inr rfl)
        rw [setRing_setRing] at this
        exact this.noneLeft
      · exact hd

/-- A claimed slot of a READY list leaves it for its clip. -/
theorem Placed.moveOut {m : SlotManager} (h : Placed NoHand m) (c : Cam) (i : SlotNo) (hi : i ∈ m.members (.ready c)) :
    Placed NoHand (m.moveOut c i) := by
  unfold SlotManager.moveOut
  split
  · rename_i c' f k e
    dsimp only
    split
    · rename_i er
      unfold setPlace at er
      rw [ring_setSlot] at er
      simp only [members] at hi
      rw [er] at hi
      cases hi
    · rename_i r er
      unfold setPlace at er
      rw [ring_setSlot] at er
      rw [members_ready er] at hi
      exact ((h.takeReady er hi).park i ⟨.clip c' f k, (m.slot i).holders⟩ (Or.inr rfl) rfl trivial).noneLeft
  · exact h

theorem Placed.replace {m : SlotManager} (h : Placed NoHand m) (c : Cam) (hr : m.ring c ≠ none) :
    Placed NoHand (m.replace c) := by
  unfold SlotManager.replace
  split
  · rename_i i rest e
    have hn : (i :: rest).Nodup := by rw [← e]; exact h.distinct .free
    rw [List.nodup_cons] at hn
    have : Placed (fun j => NoHand j ∨ j = i) { m with freePool := rest } := by
      refine h.takeOne i .free ?_ (fun _ => rfl) ?_ ?_ hn.2 h.deficit
      · show i ∈ m.freePool; rw [e]; exact List.mem_cons_self
      · intro l hl; cases l <;> first | exact absurd rfl hl | rfl
      · intro j
        show j ∈ rest ↔ j ∈ m.freePool ∧ _
        rw [e]
        constructor
        · intro x; exact ⟨List.mem_cons_of_mem _ x, fun ej => hn.1 (ej ▸ x)⟩
        · intro x; exact (List.mem_cons.mp x.1).resolve_left x.2
    exact (this.joinBlank c i (Or.inr rfl) hr).noneLeft
  · exact
      { h with
        placed := fun j hj l => by have := h.placed j hj l; cases l <;> exact this
        out := fun _ hj => hj.elim
        distinct := fun l => by have := h.distinct l; cases l <;> exact this
        deficit := fun d hd => by
          rcases List.mem_append.mp hd with x | x
          · exact h.deficit d x
          · rw [List.mem_singleton] at x; subst x; exact hr }

theorem moveOut_ring (m : SlotManager) (c : Cam) (i : SlotNo) (h : m.ring c ≠ none) : (m.moveOut c i).ring c ≠ none := by
  unfold SlotManager.moveOut
  split
  · dsimp only
    split
    · rename_i e; unfold setPlace at e; exact absurd e h
    · rw [ring_setRing]; exact Option.some_ne_none _
  · exact h

theorem Placed.moveIntoClip {m : SlotManager} (h : Placed NoHand m) (c : Cam) (i : SlotNo) (hi : i ∈ m.members (.ready c)) :
    Placed NoHand (m.moveIntoClip c i) := by
  have hr : m.ring c ≠ none := by
    intro e
    simp only [members] at hi
    rw [e] at hi
    cases hi
  exact (h.moveOut c i hi).replace c (moveOut_ring m c i hr)

/-! ## The slot manager's requests keep the accounts -/

theorem accounted_iff (m : SlotManager) :
    SlotsAccounted m ↔ Placed NoHand m ∧ ClaimsNewest m ∧ m.holdCount = m.heldCount :=
  ⟨fun h => ⟨⟨fun i _ => h.placed i, fun _ x => x.elim, h.distinct, fun i _ => h.pins i, h.deficit⟩, h.claimed, h.held⟩,
   fun ⟨h, c, e⟩ => ⟨fun i => h.placed i id, h.distinct, fun i => h.pins i id, c, h.deficit, e⟩⟩

/-- The place of a slot that stands in a list. -/
theorem Placed.place {p : SlotNo → Prop} {m : SlotManager} (h : Placed p m) {i : SlotNo} {l : SlotList}
    (hi : i ∈ m.members l) : (m.slot i).place.list = some l :=
  (h.placed i (fun x => h.out i x l hi) l).mpr hi

theorem held_of_list {p : Place} {l : SlotList} (h : p.list = some l) (hl : ∀ c, l ≠ .ready c) : p.held = false := by
  cases p <;> first | rfl | (cases h; exact absurd rfl (hl _)) | cases h

theorem holdCount_joinBlank (m : SlotManager) (c : Cam) (i : SlotNo) : (m.joinBlank c i).holdCount = m.holdCount := by
  unfold joinBlank
  dsimp only
  split <;> rfl

theorem holdCount_giveBack (m : SlotManager) (i : SlotNo) : (m.giveBack i).holdCount = m.holdCount := by
  unfold giveBack
  split
  · exact holdCount_joinBlank _ _ _
  · rfl

theorem holdCount_leave (m : SlotManager) (i : SlotNo) : (m.leave i).holdCount = m.holdCount := by
  unfold leave
  split
  · exact holdCount_giveBack m i
  · unfold retire
    split <;> rfl

theorem accounted_discard {m : SlotManager} (h : SlotsAccounted m) (c : Cam) : SlotsAccounted (m.discard c) := by
  rw [accounted_iff] at h ⊢
  obtain ⟨hp, hc, hh⟩ := h
  refine ⟨hp.discard c, ?_⟩
  unfold discard
  split
  · exact ⟨hc, hh⟩
  · rename_i r e
    split
    · exact ⟨hc, hh⟩
    · rename_i i ef
      refine ⟨(hc.setRing c _ ?_).joinBlank c i, ?_⟩
      · unfold newest; rw [e]; rfl
      · have := heldCount_joinBlank (m.setRing c (some { r with filling := none })) c i
        have hl : (m.slot i).place.held = false :=
          held_of_list (hp.place (l := .filling c) (by rw [members_filling e, ef]; simp)) (by simp)
        rw [holdCount_joinBlank]
        rw [slot_setRing, hl] at this
        simp only [Bool.toNat_false, Nat.add_zero, heldCount_setRing] at this
        rw [this]
        exact hh

theorem newest_of_ring {m : SlotManager} {c : Cam} {r : Ring} (h : m.ring c = some r) : m.newest c = r.ready.getLast? := by
  unfold newest; rw [h]

theorem getLast?_erase_of_dropLast (l : List SlotNo) (i : SlotNo) (hn : l.Nodup) (hi : i ∈ l.dropLast) :
    (l.erase i).getLast? = l.getLast? := by
  cases e : l.getLast? with
  | none => rw [List.getLast?_eq_none_iff] at e; subst e; cases hi
  | some j =>
    refine getLast?_erase l i j e ?_
    intro ej
    subst ej
    have hl := List.dropLast_append_getLast? j e
    rw [← hl, List.nodup_append] at hn
    exact hn.2.2 j hi j (List.mem_singleton.mpr rfl) rfl

theorem accounted_take {m : SlotManager} (h : SlotsAccounted m) (c : Cam) (f : FrameFields) :
    SlotsAccounted (m.take c f).1 := by
  have hd := accounted_discard h c
  have ht := ((accounted_iff m).mp h).1.take c f
  rw [accounted_iff]
  refine ⟨ht, ?_⟩
  rw [accounted_iff] at hd
  obtain ⟨hp, hc, hh⟩ := hd
  unfold take
  dsimp only
  split
  · exact ⟨hc, hh⟩
  · rename_i r e
    split
    · rename_i i rest hb
      refine ⟨(hc.setRing c _ ?_).setSlot i _ (fun _ _ _ e => by cases e), ?_⟩
      · rw [newest_of_ring e]; rfl
      · have := heldCount_setSlot ((m.discard c).setRing c (some { r with blank := rest, filling := some i })) i
          ⟨.filling c f, Holders.none⟩
        have hl : ((m.discard c).slot i).place.held = false :=
          held_of_list (hp.place (l := .blank c) (by rw [members_blank e, hb]; exact List.mem_cons_self)) (by simp)
        rw [slot_setRing, hl] at this
        simp only [Bool.toNat_false, Nat.add_zero, heldCount_setRing, Place.held] at this
        exact hh.trans this.symm
    · split
      · rename_i i hf
        have hi := List.mem_of_find?_eq_some hf
        have hk := List.find?_some hf
        have hn : r.ready.Nodup := by rw [← members_ready e]; exact hp.distinct _
        refine ⟨(hc.setRing c _ ?_).setSlot i _ (fun _ _ _ e => by cases e), ?_⟩
        · rw [newest_of_ring e]; exact getLast?_erase_of_dropLast _ _ hn hi
        · have := heldCount_setSlot ((m.discard c).setRing c (some { r with ready := r.ready.erase i, filling := some i })) i
            ⟨.filling c f, Holders.none⟩
          have hl : ((m.discard c).slot i).place.held = false := by
            unfold takeable claimOf at hk
            have hpl := hp.place (l := .ready c) (i := i) (by rw [members_ready e]; exact List.dropLast_subset _ hi)
            cases hq : ((m.discard c).slot i).place with
            | ready c' f' k =>
              rw [hq] at hk
              cases k with
              | none => rfl
              | some k => simp at hk
            | _ => rw [hq] at hpl; cases hpl
          rw [slot_setRing, hl] at this
          simp only [Bool.toNat_false, Nat.add_zero, heldCount_setRing, Place.held] at this
          exact hh.trans this.symm
      · exact ⟨hc, hh⟩

theorem heldCount_moveOut (m : SlotManager) (c : Cam) (i : SlotNo) : (m.moveOut c i).heldCount = m.heldCount := by
  unfold moveOut
  split
  · rename_i c' f k e
    have := heldCount_setSlot m i ⟨.clip c' f k, (m.slot i).holders⟩
    rw [e] at this
    simp only [Place.held, Bool.toNat_true, Nat.add_right_cancel_iff] at this
    dsimp only
    split
    · exact this
    · exact this
  · rfl

theorem holdCount_moveOut (m : SlotManager) (c : Cam) (i : SlotNo) : (m.moveOut c i).holdCount = m.holdCount := by
  unfold moveOut
  split
  · dsimp only
    split <;> rfl
  · rfl

theorem heldCount_replace {m : SlotManager} (h : Placed NoHand m) (c : Cam) : (m.replace c).heldCount = m.heldCount := by
  unfold replace
  split
  · rename_i i rest e
    have := heldCount_joinBlank { m with freePool := rest } c i
    have hl : (m.slot i).place.held = false :=
      held_of_list (hp_free h (by rw [e]; exact List.mem_cons_self)) (by simp)
    have hl' : (({ m with freePool := rest } : SlotManager).slot i).place.held = false := hl
    rw [hl'] at this
    simp only [Bool.toNat_false, Nat.add_zero] at this
    rw [this]
    rfl
  · rfl
where
  hp_free {m : SlotManager} (h : Placed NoHand m) {i : SlotNo} (hi : i ∈ m.freePool) :
      (m.slot i).place.list = some .free := h.place (l := .free) hi

theorem holdCount_replace (m : SlotManager) (c : Cam) : (m.replace c).holdCount = m.holdCount := by
  unfold replace
  split
  · exact holdCount_joinBlank _ _ _
  · rfl

/-- A claimed slot moves into its clip and its ring receives the replacement: with the claims other than its own at the
newest slots, the accounts agree afterwards (R15). -/
theorem accounted_moveIntoClip {m : SlotManager} (hp : Placed NoHand m) (c : Cam) (i : SlotNo)
    (hi : i ∈ m.members (.ready c)) (hk : (m.claimOf i).isSome)
    (hc : ∀ j d f k, j ≠ i → (m.slot j).place = .ready d f (some k) → m.newest d = some j)
    (hh : m.holdCount = m.heldCount) : SlotsAccounted (m.moveIntoClip c i) := by
  rw [accounted_iff]
  refine ⟨hp.moveIntoClip c i hi, (ClaimsNewest.moveOut c i hc hk).replace c, ?_⟩
  unfold moveIntoClip
  rw [holdCount_replace, holdCount_moveOut, heldCount_replace (hp.moveOut c i hi), heldCount_moveOut]
  exact hh

/-- A slot without a move notice carries no claim. -/
theorem claimOf_of_moveNotice_none {m : SlotManager} {i : SlotNo} (h : m.moveNotice i = none) : m.claimOf i = none := by
  unfold moveNotice at h
  unfold claimOf
  split at h
  · cases h
  · rename_i x
    split
    · rename_i c f k e
      cases k with
      | none => rfl
      | some k => exact absurd e (x c f k)
    · rfl

/-- A move notice names the slot and the clip of its claim. -/
theorem claimOf_of_moveNotice_some {m : SlotManager} {i : SlotNo} {v : Moved} (h : m.moveNotice i = some v) :
    v.slot = i ∧ m.claimOf i = some v.clip := by
  unfold moveNotice at h
  unfold claimOf
  split at h
  · rename_i e
    cases h
    rw [e]
    exact ⟨rfl, rfl⟩
  · cases h

theorem accounted_publish {m : SlotManager} (h : SlotsAccounted m) (c : Cam) : SlotsAccounted (m.publish c).1 := by
  have hm := h
  rw [accounted_iff] at h
  obtain ⟨hp, hc, hh⟩ := h
  unfold publish
  split
  · exact hm
  · rename_i r e
    split
    · exact hm
    · rename_i i ef
      split
      · rename_i c' f epl
        have e' := ring_setRing m c (some { r with ready := r.ready ++ [i], filling := none })
        have hif : i ∈ m.members (.filling c) := by rw [members_filling e, ef]; simp
        have hir : i ∉ r.ready := by
          intro x
          have a := hp.place (l := .ready c) (by rw [members_ready e]; exact x)
          rw [hp.place hif] at a
          cases a
        -- the places of the state after the FILLING slot has become READY
        have hput : Placed NoHand ((m.setRing c (some { r with ready := r.ready ++ [i], filling := none })).setPlace i
            (.ready c f none)) := by
          have h1 := hp.takeFilling e ef
          have e1 := ring_setRing m c (some { r with filling := none })
          have h2 := h1.put (n := (m.setRing c (some { r with ready := r.ready ++ [i], filling := none })).setPlace i
            (.ready c f none)) i (.ready c) (Or.inr rfl) (fun j hj => slot_setSlot_ne _ _ _ _ hj)
            (by unfold setPlace; rw [slot_setSlot]; rfl) (by unfold setPlace; rw [slot_setSlot]; trivial)
            (fun l hl => by
              unfold setPlace
              rw [members_setSlot]
              have := members_setRing_ready e1 (r.ready ++ [i]) l hl
              rw [setRing_setRing] at this
              exact this)
            (fun j => by
              unfold setPlace
              rw [members_setSlot, members_ready e', members_ready e1]
              simp)
            (by
              unfold setPlace
              rw [members_setSlot, members_ready e']
              refine nodup_append_singleton ?_ hir
              rw [← members_ready e]; exact hp.distinct _)
            (ring_ne_none_setRing c _ hp.deficit)
          exact h2.noneLeft
        have hheld : ((m.setRing c (some { r with ready := r.ready ++ [i], filling := none })).setPlace i
            (.ready c f none)).heldCount = m.heldCount := by
          have := heldCount_setSlot (m.setRing c (some { r with ready := r.ready ++ [i], filling := none })) i
            ⟨.ready c f none, (m.slot i).holders⟩
          rw [slot_setRing, epl] at this
          simp only [Place.held, Bool.toNat_false, Nat.add_zero, heldCount_setRing] at this
          exact this
        -- a claim after the publication is one before it
        have hold : ∀ j d f' k, (((m.setRing c (some { r with ready := r.ready ++ [i], filling := none })).setPlace i
            (.ready c f none)).slot j).place = .ready d f' (some k) → j ≠ i ∧ m.newest d = some j := by
          intro j d f' k ej
          unfold setPlace at ej
          by_cases eji : j = i
          · subst eji; rw [slot_setSlot] at ej; cases ej
          · rw [slot_setSlot_ne _ _ _ _ eji, slot_setRing] at ej
            exact ⟨eji, hc j d f' k ej⟩
        have hother : ∀ d, d ≠ c → ((m.setRing c (some { r with ready := r.ready ++ [i], filling := none })).setPlace i
            (.ready c f none)).newest d = m.newest d := by
          intro d hd
          have er : ((m.setRing c (some { r with ready := r.ready ++ [i], filling := none })).setPlace i
            (.ready c f none)).ring d = m.ring d := ring_setRing_ne m c d _ hd
          unfold newest
          rw [er]
        dsimp only
        split
        · rename_i eb
          rw [accounted_iff]
          refine ⟨hput, ?_, hh.trans hheld.symm⟩
          intro j d f' k ej
          obtain ⟨_, hn⟩ := hold j d f' k ej
          by_cases ed : d = c
          · subst ed; rw [newest_of_ring e, eb] at hn; cases hn
          · rw [hother d ed]; exact hn
        · rename_i old eb
          have hoi : old ≠ i := fun x => hir (x ▸ List.mem_of_getLast? eb)
          split
          · rename_i ek
            replace ek := claimOf_of_moveNotice_none ek
            rw [accounted_iff]
            refine ⟨hput, ?_, hh.trans hheld.symm⟩
            intro j d f' k ej
            obtain ⟨_, hn⟩ := hold j d f' k ej
            by_cases ed : d = c
            · subst ed
              rw [newest_of_ring e, eb] at hn
              cases hn
              unfold claimOf at ek
              rw [ej] at ek
              cases ek
            · rw [hother d ed]; exact hn
          · rename_i v ek
            replace ek := (claimOf_of_moveNotice_some ek).2
            refine accounted_moveIntoClip hput c old ?_ (by rw [ek]; rfl) ?_ (hh.trans hheld.symm)
            · unfold setPlace
              rw [members_setSlot, members_ready e']
              exact List.mem_append_left _ (List.mem_of_getLast? eb)
            · intro j d f' k' hj ej
              obtain ⟨_, hn⟩ := hold j d f' k' ej
              by_cases ed : d = c
              · subst ed
                rw [newest_of_ring e, eb] at hn
                cases hn
                exact absurd rfl hj
              · rw [hother d ed]; exact hn
      · exact hm

theorem accounted_of_places {m n : SlotManager} (h : SlotsAccounted m) (hs : ∀ i, (n.slot i).place = (m.slot i).place)
    (hp : ∀ i, (n.slot i).pinsFit) (h1 : n.freePool = m.freePool) (h2 : n.rings = m.rings) (h3 : n.deficit = m.deficit)
    (h4 : n.holdCount = m.holdCount) : SlotsAccounted n := by
  have hr : ∀ c, n.ring c = m.ring c := fun c => by unfold ring; rw [h2]
  have hm : ∀ l, n.members l = m.members l := fun l => by cases l <;> simp only [members, hr, h1]
  have hn : ∀ c, n.newest c = m.newest c := fun c => by unfold newest; rw [hr]
  exact
    { placed := fun i l => by rw [hs, hm]; exact h.placed i l
      distinct := fun l => by rw [hm]; exact h.distinct l
      pins := hp
      claimed := fun i c f k e => by rw [hn]; rw [hs] at e; exact h.claimed i c f k e
      deficit := fun c hc => by rw [hr]; rw [h3] at hc; exact h.deficit c hc
      held := by
        rw [h4, h.held]
        unfold heldCount
        simp only [hs] }

theorem accounted_pinNewest {m : SlotManager} (h : SlotsAccounted m) (c : Cam) (x : Reader) :
    SlotsAccounted (m.pinNewest c x).1 := by
  unfold pinNewest
  split
  · exact h
  · rename_i i e
    have hi : i ∈ m.members (.ready c) := by
      unfold newest at e
      split at e
      · cases e
      · rename_i r er
        rw [members_ready er]
        exact List.mem_of_getLast? e
    have hpl := (h.placed i (.ready c)).mpr hi
    refine accounted_of_places h (fun j => ?_) (fun j => ?_) rfl rfl rfl rfl
    · by_cases ej : j = i
      · subst ej; rw [slot_setSlot]
      · rw [slot_setSlot_ne _ _ _ _ ej]
    · by_cases ej : j = i
      · subst ej
        rw [slot_setSlot]
        cases hq : (m.slot j).place <;> rw [hq] at hpl <;> try cases hpl
        unfold SlotRecord.pinsFit
        dsimp only
        rw [hq]
        trivial
      · rw [slot_setSlot_ne _ _ _ _ ej]; exact h.pins j

theorem accounted_giveBack {m : SlotManager} (i : SlotNo) (hp : Placed (fun j => j = i) m) (hc : ClaimsNewest m)
    (hh : m.holdCount + (m.slot i).place.held.toNat = m.heldCount) : SlotsAccounted (m.giveBack i) := by
  rw [accounted_iff]
  refine ⟨(hp.giveBack i rfl).congr (fun j => ⟨fun x => x.elim, fun x => x.2 x.1⟩), hc.giveBack i, ?_⟩
  have := heldCount_giveBack m i
  rw [holdCount_giveBack]
  omega

theorem not_listed {p : Place} (h : p.list = none) : ∀ l, p.list = some l → False := by
  intro l e; rw [h] at e; cases e

/-- A slot that stands in no list may be taken in hand. -/
theorem Placed.hand {m : SlotManager} (h : Placed NoHand m) (i : SlotNo) (hi : (m.slot i).place.list = none) :
    Placed (fun j => j = i) m where
  placed := fun j _ l => h.placed j id l
  out := fun j hj l x => by subst hj; exact not_listed hi l ((h.placed j id l).mpr x)
  distinct := h.distinct
  pins := fun j _ => h.pins j id
  deficit := h.deficit

theorem accounted_unpin {m : SlotManager} (h : SlotsAccounted m) (i : SlotNo) (x : Reader) :
    SlotsAccounted (m.unpin i x) := by
  have hm := h
  rw [accounted_iff] at h
  obtain ⟨hp, hc, hh⟩ := h
  unfold unpin
  split
  · rename_i hx
    have hpl : ∀ j r, (((m.setSlot i ⟨(m.slot i).place, r⟩)).slot j).place = (m.slot j).place := by
      intro j r
      by_cases ej : j = i
      · subst ej; rw [slot_setSlot]
      · rw [slot_setSlot_ne _ _ _ _ ej]
    have hheld : ∀ r, (m.setSlot i ⟨(m.slot i).place, r⟩).heldCount = m.heldCount := by
      intro r
      have := heldCount_setSlot m i ⟨(m.slot i).place, r⟩
      simpa using this
    have hcl : ∀ r, ClaimsNewest (m.setSlot i ⟨(m.slot i).place, r⟩) := fun r =>
      hc.setSlot _ _ (fun c f k e => hc i c f k e)
    dsimp only
    split
    · rename_i c f e
      rw [slot_setSlot] at e
      dsimp only at e
      split
      · rename_i hcount
        refine accounted_giveBack i ?_ (hcl _) ?_
        · exact (hp.hand i (by rw [e]; rfl)).setSlot i _ (fun y => absurd rfl y) (fun y => absurd rfl y)
        · rw [hheld, slot_setSlot]
          dsimp only
          rw [e]
          exact hh
      · rename_i hcount
        refine accounted_of_places hm (fun j => hpl j _) (fun j => ?_) rfl rfl rfl rfl
        by_cases ej : j = i
        · subst ej
          rw [slot_setSlot]
          unfold SlotRecord.pinsFit
          dsimp only
          rw [e]
          exact hcount
        · rw [slot_setSlot_ne _ _ _ _ ej]; exact hm.pins j
    · rename_i hne
      refine accounted_of_places hm (fun j => hpl j _) (fun j => ?_) rfl rfl rfl rfl
      by_cases ej : j = i
      · subst ej
        rw [slot_setSlot]
        have hpins := hm.pins j
        unfold SlotRecord.pinsFit at hpins ⊢
        dsimp only
        have noHolder : (m.slot j).holders = Holders.none → False := by
          intro y; rw [y] at hx; cases x <;> cases hx
        cases hq : (m.slot j).place <;> rw [hq] at hpins <;> dsimp only at hpins ⊢
        · exact (noHolder hpins).elim
        · exact (noHolder hpins).elim
        · exact (noHolder hpins).elim
        · rw [slot_setSlot] at hne
          exact absurd hq (hne _ _)
      · rw [slot_setSlot_ne _ _ _ _ ej]; exact hm.pins j
  · exact hm

theorem accounted_claim {m : SlotManager} (h : SlotsAccounted m) (k : ClipId) (c : Cam) (i : SlotNo) (q : Word32) :
    SlotsAccounted (m.claim k c i q).1 := by
  have hm := h
  rw [accounted_iff] at h
  obtain ⟨hp, hc, hh⟩ := h
  unfold claim
  split
  · rename_i c' f old e
    split
    · rename_i hcond
      split
      · exact hm
      · split
        · rename_i ek hlt
          have hcc := hcond.1
          subst hcc
          have hi : i ∈ m.members (.ready c') := (hp.placed i id _).mp (by rw [e]; rfl)
          have hpins := hm.pins i
          have hP : Placed NoHand (m.setPlace i (.ready c' f (some k))) :=
            hp.setSlot i _ (fun _ => by rw [e]; rfl) (fun _ => trivial)
          have hP' : Placed NoHand ({ m.setPlace i (.ready c' f (some k)) with holdCount := m.holdCount + 1 } : SlotManager) :=
            { hP with
              placed := fun j hj l => by have := hP.placed j hj l; cases l <;> exact this
              out := fun _ hj => hj.elim
              distinct := fun l => by have := hP.distinct l; cases l <;> exact this }
          have hH : ({ m.setPlace i (.ready c' f (some k)) with holdCount := m.holdCount + 1 } : SlotManager).heldCount
              = m.holdCount + 1 := by
            have := heldCount_setSlot m i ⟨.ready c' f (some k), (m.slot i).holders⟩
            rw [e] at this
            simp only [Place.held, Bool.toNat_false, Bool.toNat_true, Nat.add_zero] at this
            rw [← hh] at this
            exact this
          have hO : ∀ j d f' k', j ≠ i →
              ((({ m.setPlace i (.ready c' f (some k)) with holdCount := m.holdCount + 1 } : SlotManager)).slot j).place
                = .ready d f' (some k') → m.newest d = some j := by
            intro j d f' k' hj ej
            have : ((m.setPlace i (.ready c' f (some k))).slot j).place = .ready d f' (some k') := ej
            unfold setPlace at this
            rw [slot_setSlot_ne _ _ _ _ hj] at this
            exact hc j d f' k' this
          dsimp only
          split
          · rename_i hn
            rw [accounted_iff]
            refine ⟨hP', ?_, hH.symm⟩
            intro j d f' k' ej
            by_cases eji : j = i
            · subst eji
              have : ((m.setPlace j (.ready c' f (some k))).slot j).place = .ready d f' (some k') := ej
              unfold setPlace at this
              rw [slot_setSlot] at this
              cases this
              exact hn
            · exact hO j d f' k' eji ej
          · rename_i hn
            refine accounted_moveIntoClip hP' c' i ?_ ?_ hO hH.symm
            · show i ∈ (m.setPlace i (.ready c' f (some k))).members (.ready c')
              unfold setPlace
              rw [members_setSlot]
              exact hi
            · show ((m.setPlace i (.ready c' f (some k))).claimOf i).isSome = true
              unfold claimOf setPlace
              rw [slot_setSlot]
              rfl
        · exact hm
    · exact hm
  · exact hm

theorem accounted_releaseOne {m : SlotManager} (h : SlotsAccounted m) (k : ClipId) (i : SlotNo) :
    SlotsAccounted (m.releaseOne k i) := by
  have hm := h
  rw [accounted_iff] at h
  obtain ⟨hp, hc, hh⟩ := h
  unfold releaseOne
  split
  · rename_i c f k' e
    split
    · have hP : Placed (fun j => j = i) ({ m with holdCount := m.holdCount - 1 } : SlotManager) := by
        have h0 := hp.hand i (by rw [e]; rfl)
        exact
          { h0 with
            placed := fun j hj l => by have := h0.placed j hj l; cases l <;> exact this
            out := fun j hj l => by have := h0.out j hj l; cases l <;> exact this
            distinct := fun l => by have := h0.distinct l; cases l <;> exact this }
      rw [accounted_iff]
      refine ⟨(hP.leave i rfl (Or.inr ⟨c, f, k', e⟩)).congr (fun j => ⟨fun x => x.elim, fun x => x.2 x.1⟩),
        (hc.of_eq (n := { m with holdCount := m.holdCount - 1 }) rfl rfl).leave i, ?_⟩
      have := heldCount_leave { m with holdCount := m.holdCount - 1 } i
      have hl : ((({ m with holdCount := m.holdCount - 1 } : SlotManager)).slot i).place.held = true := by
        show (m.slot i).place.held = true
        rw [e]; rfl
      rw [hl] at this
      have hs : ({ m with holdCount := m.holdCount - 1 } : SlotManager).heldCount = m.heldCount := rfl
      rw [hs] at this
      rw [holdCount_leave]
      simp only [Bool.toNat_true] at this
      show m.holdCount - 1 = _
      omega
    · exact hm
  · rename_i c f k' e
    split
    · have hP : Placed NoHand (m.setPlace i (.ready c f none)) :=
        hp.setSlot i _ (fun _ => by rw [e]; rfl) (fun _ => trivial)
      have hC : ClaimsNewest (m.setPlace i (.ready c f none)) := hc.setSlot _ _ (fun _ _ _ x => by cases x)
      rw [accounted_iff]
      refine ⟨{ hP with
          placed := fun j hj l => by have := hP.placed j hj l; cases l <;> exact this
          out := fun _ hj => hj.elim
          distinct := fun l => by have := hP.distinct l; cases l <;> exact this }, hC.of_eq rfl rfl, ?_⟩
      have := heldCount_setSlot m i ⟨.ready c f none, (m.slot i).holders⟩
      rw [e] at this
      simp only [Place.held, Bool.toNat_false, Bool.toNat_true, Nat.add_zero] at this
      show m.holdCount - 1 = (m.setSlot i ⟨.ready c f none, (m.slot i).holders⟩).heldCount
      omega
    · exact hm
  · exact hm

theorem accounted_release {m : SlotManager} (h : SlotsAccounted m) (k : ClipId) (l : List SlotNo) :
    SlotsAccounted (m.release k l) := by
  unfold release
  induction l generalizing m with
  | nil => exact h
  | cons i l ih => exact ih (accounted_releaseOne h k i)

theorem joinBlank_ring_ne (m : SlotManager) (c : Cam) (i : SlotNo) (h : m.ring c ≠ none) : (m.joinBlank c i).ring c ≠ none := by
  unfold joinBlank
  dsimp only
  rw [ring_setSlot]
  cases e : m.ring c with
  | none => exact absurd e h
  | some r => dsimp only; rw [ring_setRing]; exact Option.some_ne_none _

theorem slot_joinBlank_ne (m : SlotManager) (c : Cam) (i j : SlotNo) (h : j ≠ i) : (m.joinBlank c i).slot j = m.slot j := by
  unfold joinBlank
  dsimp only
  split
  · exact slot_setSlot_ne _ _ _ _ h
  · rw [slot_setRing]; exact slot_setSlot_ne _ _ _ _ h

theorem slot_giveBack_ne (m : SlotManager) (i j : SlotNo) (h : j ≠ i) : (m.giveBack i).slot j = m.slot j := by
  unfold giveBack
  split
  · exact slot_joinBlank_ne _ _ _ _ h
  · exact slot_setSlot_ne m i j SlotRecord.reset h

theorem slot_leave_ne (m : SlotManager) (i j : SlotNo) (h : j ≠ i) : (m.leave i).slot j = m.slot j := by
  unfold leave
  split
  · exact slot_giveBack_ne _ _ _ h
  · unfold retire
    split
    · exact slot_setSlot_ne m i j _ h
    · exact slot_setSlot_ne m i j _ h
    · rfl

/-- Slots in hand join a ring one after another. -/
theorem joinAll (c : Cam) (l : List SlotNo) : ∀ (m : SlotManager), l.Nodup → Placed (fun j => j ∈ l) m → ClaimsNewest m →
    (∀ i ∈ l, (m.slot i).place.held = false) → m.holdCount = m.heldCount → m.ring c ≠ none →
    SlotsAccounted (l.foldl (fun m i => m.joinBlank c i) m) := by
  induction l with
  | nil =>
    intro m _ hp hc _ hh _
    rw [List.foldl_nil, accounted_iff]
    exact ⟨hp.congr fun j => ⟨fun x => x.elim, fun x => by cases x⟩, hc, hh⟩
  | cons i l ih =>
    intro m hn hp hc hf hh hr
    rw [List.nodup_cons] at hn
    rw [List.foldl_cons]
    refine ih _ hn.2 ?_ (hc.joinBlank c i) ?_ ?_ (joinBlank_ring_ne _ _ _ hr)
    · refine (hp.joinBlank c i List.mem_cons_self hr).congr fun j => ?_
      rw [List.mem_cons]
      exact ⟨fun x => ⟨Or.inr x, fun e => by subst e; exact hn.1 x⟩, fun x => x.1.resolve_left x.2⟩
    · intro j hj
      rw [slot_joinBlank_ne _ _ _ _ (by intro e; subst e; exact hn.1 hj)]
      exact hf j (List.mem_cons_of_mem _ hj)
    · have := heldCount_joinBlank m c i
      rw [hf i List.mem_cons_self, Bool.toNat_false, Nat.add_zero] at this
      rw [holdCount_joinBlank, this]
      exact hh

theorem accounted_establish {m n : SlotManager} (h : SlotsAccounted m) (c : Cam) (depth : Nat)
    (e : m.establish c depth = some n) : SlotsAccounted n := by
  unfold establish at e
  split at e
  · cases e; exact h
  · rename_i er
    split at e
    · cases e
      have hm := h
      rw [accounted_iff] at h
      obtain ⟨hp, hc, hh⟩ := h
      have hn : (m.freePool.take depth ++ m.freePool.drop depth).Nodup := by
        rw [List.take_append_drop]; exact hp.distinct .free
      rw [List.nodup_append] at hn
      have emptied : ∀ l, l = .blank c ∨ l = .filling c ∨ l = .ready c → m.members l = [] := by
        intro l hl
        rcases hl with rfl | rfl | rfl <;> simp only [members] <;> rw [er] <;> rfl
      have hmem : ∀ l, l ≠ .free → (({ m with freePool := m.freePool.drop depth } : SlotManager).setRing c
          (some { ready := [], blank := [], filling := none })).members l = m.members l := by
        intro l hl
        by_cases hx : l = .blank c ∨ l = .filling c ∨ l = .ready c
        · rw [emptied l hx]
          rcases hx with rfl | rfl | rfl <;> simp only [members] <;> rw [ring_setRing] <;> rfl
        · have : l ≠ .blank c ∧ l ≠ .filling c ∧ l ≠ .ready c :=
            ⟨fun x => hx (Or.inl x), fun x => hx (Or.inr (Or.inl x)), fun x => hx (Or.inr (Or.inr x))⟩
          rw [members_setRing_ne _ _ _ _ this]
          cases l <;> first | exact absurd rfl hl | rfl
      refine joinAll c _ _ hn.1 ?_ ?_ ?_ hh (by rw [ring_setRing]; exact Option.some_ne_none _)
      · refine Placed.congr (p := fun j => NoHand j ∨ j ∈ m.freePool.take depth) ?_
          (fun j => ⟨fun x => Or.inr x, fun x => x.resolve_left id⟩)
        refine hp.lift (fun j => j ∈ m.freePool.take depth) (fun _ => rfl) (fun l j => ?_) (fun l => ?_) ?_
        · by_cases hl : l = .free
          · subst hl
            show j ∈ m.freePool.drop depth ↔ j ∈ m.freePool ∧ _
            constructor
            · intro x; exact ⟨List.mem_of_mem_drop x, fun y => hn.2.2 j y j x rfl⟩
            · intro x
              have := x.1
              rw [← List.take_append_drop depth m.freePool, List.mem_append] at this
              exact this.resolve_left x.2
          · rw [hmem l hl]
            refine ⟨fun x => ⟨x, fun y => ?_⟩, fun x => x.1⟩
            have a := hp.place x
            rw [hp.place (l := .free) (List.mem_of_mem_take y)] at a
            exact hl (Option.some.inj a).symm
        · by_cases hl : l = .free
          · subst hl; exact hn.2.1
          · rw [hmem l hl]; exact hp.distinct l
        · exact ring_ne_none_setRing (m := { m with freePool := m.freePool.drop depth }) c _ hp.deficit
      · refine ClaimsNewest.setRing (hc.of_eq rfl rfl) c _ ?_
        show none = m.newest c
        unfold newest
        rw [er]
      · intro i hi
        exact held_of_list (hp.place (l := .free) (List.mem_of_mem_take hi)) (by simp)
    · cases e

/-! ### The dissolution -/

theorem setRing_self (m : SlotManager) (c : Cam) : m.setRing c (m.ring c) = m := by
  unfold setRing ring
  congr 1
  exact Vector.set_getElem_self c.isLt

theorem giveBack_cons {m : SlotManager} {d : Cam} {rest : List Cam} (i : SlotNo) (h : m.deficit = d :: rest) :
    m.giveBack i = ({ m with deficit := rest } : SlotManager).joinBlank d i := by
  unfold giveBack; rw [h]

theorem giveBack_nil {m : SlotManager} (i : SlotNo) (h : m.deficit = []) :
    m.giveBack i = { m.setSlot i SlotRecord.reset with freePool := m.freePool ++ [i] } := by
  unfold giveBack; rw [h]

theorem joinBlank_setRing (m : SlotManager) (c d : Cam) (i : SlotNo) (h : d ≠ c) :
    (m.joinBlank d i).setRing c none = (m.setRing c none).joinBlank d i := by
  unfold joinBlank
  dsimp only
  rw [ring_setSlot, ring_setSlot, ring_setRing_ne _ _ _ _ h]
  cases e : m.ring d with
  | none => rfl
  | some r =>
    dsimp only
    rw [setRing_comm _ _ _ _ _ (Ne.symm h)]
    rfl

theorem giveBack_setRing (m : SlotManager) (c : Cam) (i : SlotNo) (h : c ∉ m.deficit) :
    (m.giveBack i).setRing c none = (m.setRing c none).giveBack i ∧ c ∉ (m.giveBack i).deficit := by
  cases e : m.deficit with
  | nil =>
    rw [giveBack_nil i e, giveBack_nil (m := m.setRing c none) i e]
    exact ⟨rfl, by show c ∉ m.deficit; exact h⟩
  | cons d rest =>
    rw [e] at h
    have hd : d ≠ c := fun x => h (x ▸ List.mem_cons_self)
    rw [giveBack_cons i e, giveBack_cons (m := m.setRing c none) i e]
    refine ⟨joinBlank_setRing { m with deficit := rest } c d i hd, ?_⟩
    unfold joinBlank
    dsimp only
    split <;> exact fun x => h (List.mem_cons_of_mem _ x)

theorem leave_setRing (m : SlotManager) (c : Cam) (i : SlotNo) (h : c ∉ m.deficit) :
    (m.leave i).setRing c none = (m.setRing c none).leave i ∧ c ∉ (m.leave i).deficit := by
  unfold leave
  rw [slot_setRing]
  split
  · exact giveBack_setRing m c i h
  · unfold retire
    rw [slot_setRing]
    split
    · exact ⟨rfl, h⟩
    · exact ⟨rfl, h⟩
    · exact ⟨rfl, h⟩

/-- The slots of a ring that ends leave one after another; `m` is the state without the ring. -/
theorem leaveAll (f : SlotManager → SlotNo → SlotManager) (c : Cam)
    (hf : ∀ m i, c ∉ m.deficit → (f m i).setRing c none = f (m.setRing c none) i ∧ c ∉ (f m i).deficit)
    (hslot : ∀ m i j, j ≠ i → (f m i).slot j = m.slot j)
    (hheld : ∀ m i, (f m i).heldCount + (m.slot i).place.held.toNat = m.heldCount)
    (hhold : ∀ m i, (f m i).holdCount = m.holdCount)
    (ok : SlotManager → SlotNo → Prop) (hok : ∀ m n i, n.slot i = m.slot i → ok m i → ok n i)
    (hp : ∀ (p : SlotNo → Prop) m i, Placed p m → p i → ok m i → Placed (fun j => p j ∧ j ≠ i) (f m i)) (l : List SlotNo) :
    ∀ (m : SlotManager) (more : List SlotNo), (l ++ more).Nodup → c ∉ m.deficit →
      Placed (fun j => j ∈ l ++ more) (m.setRing c none) → (∀ i ∈ l, ok m i) → (∀ i ∈ l, (m.slot i).place.held = false) →
      m.holdCount = m.heldCount →
      Placed (fun j => j ∈ more) ((l.foldl f m).setRing c none) ∧ c ∉ (l.foldl f m).deficit ∧
        (∀ j, j ∉ l → (l.foldl f m).slot j = m.slot j) ∧ (l.foldl f m).holdCount = (l.foldl f m).heldCount := by
  induction l with
  | nil => intro m more _ hd hP _ _ hh; exact ⟨hP, hd, fun _ _ => rfl, hh⟩
  | cons i l ih =>
    intro m more hn hd hP ho hl hh
    rw [List.cons_append, List.nodup_cons] at hn
    obtain ⟨h1, h2⟩ := hf m i hd
    have hi : i ∉ l := fun x => hn.1 (List.mem_append_left _ x)
    rw [List.foldl_cons]
    have hP' : Placed (fun j => j ∈ l ++ more) ((f m i).setRing c none) := by
      rw [h1]
      refine (hp _ _ i hP (by simp) (hok m _ i (slot_setRing m c none i) (ho i List.mem_cons_self))).congr fun j => ?_
      rw [List.cons_append, List.mem_cons]
      exact ⟨fun x => ⟨Or.inr x, fun e => by subst e; exact hn.1 x⟩, fun x => x.1.resolve_left x.2⟩
    have hcount : (f m i).holdCount = (f m i).heldCount := by
      have := hheld m i
      rw [hl i List.mem_cons_self, Bool.toNat_false, Nat.add_zero] at this
      rw [hhold, this]; exact hh
    obtain ⟨a, b, d, e⟩ := ih (f m i) more hn.2 h2 hP'
      (fun j hj => hok m _ j (hslot m i j (fun e => hi (e ▸ hj))) (ho j (List.mem_cons_of_mem _ hj)))
      (fun j hj => by rw [hslot m i j (fun e => hi (e ▸ hj))]; exact hl j (List.mem_cons_of_mem _ hj)) hcount
    refine ⟨a, b, fun j hj => ?_, e⟩
    rw [d j (fun x => hj (List.mem_cons_of_mem _ x))]
    exact hslot m i j (fun e => hj (e ▸ List.mem_cons_self))

theorem ClaimsNewest.foldl {f : SlotManager → SlotNo → SlotManager}
    (hf : ∀ m i, ClaimsNewest m → ClaimsNewest (f m i)) (l : List SlotNo) :
    ∀ m, ClaimsNewest m → ClaimsNewest (l.foldl f m) := by
  induction l with
  | nil => exact fun m h => h
  | cons i l ih => exact fun m h => ih _ (hf m i h)

/-- The slots of a ring without claims leave and the ring ends (R20). -/
theorem accounted_end {m : SlotManager} (hp : Placed NoHand m) (hc : ClaimsNewest m) (hh : m.holdCount = m.heldCount) (c : Cam)
    (r : Ring) (er : m.ring c = some r) (hd : c ∉ m.deficit) (hk : ∀ j ∈ r.ready, m.claimOf j = none) :
    SlotsAccounted ((r.ready.foldl leave ((m.giveBackAll r.filling.toList).giveBackAll r.blank)).setRing c none) := by
  have hF := members_filling er
  have hB := members_blank er
  have hR := members_ready er
  have one : ∀ i l l', i ∈ m.members l → i ∈ m.members l' → l = l' := by
    intro i l l' a b
    have x := hp.place a
    rw [hp.place b] at x
    exact (Option.some.inj x).symm
  have hn : (r.filling.toList ++ (r.blank ++ (r.ready ++ []))).Nodup := by
    rw [List.append_nil, List.nodup_append, List.nodup_append, ← hF, ← hB, ← hR]
    refine ⟨hp.distinct _, ⟨hp.distinct _, hp.distinct _, ?_⟩, ?_⟩
    · intro a ha b hb e
      subst e
      cases one _ _ _ ha hb
    · intro a ha b hb e
      subst e
      rcases List.mem_append.mp hb with hb | hb <;> cases one _ _ _ ha hb
  have hP : Placed (fun j => j ∈ r.filling.toList ++ (r.blank ++ (r.ready ++ []))) (m.setRing c none) := by
    refine Placed.congr (p := fun j => NoHand j ∨ j ∈ r.filling.toList ++ (r.blank ++ (r.ready ++ []))) ?_
      (fun j => ⟨fun x => Or.inr x, fun x => x.resolve_left id⟩)
    have ended : ∀ l, l = .blank c ∨ l = .filling c ∨ l = .ready c → (m.setRing c none).members l = [] := by
      intro l hl
      rcases hl with rfl | rfl | rfl <;> simp only [members] <;> rw [ring_setRing] <;> rfl
    have same : ∀ l, ¬ (l = .blank c ∨ l = .filling c ∨ l = .ready c) → (m.setRing c none).members l = m.members l := by
      intro l hl
      exact members_setRing_ne _ _ _ _
        ⟨fun x => hl (Or.inl x), fun x => hl (Or.inr (Or.inl x)), fun x => hl (Or.inr (Or.inr x))⟩
    refine hp.lift _ (fun _ => rfl) (fun l i => ?_) (fun l => ?_) (fun d hd' => ?_)
    · by_cases hl : l = .blank c ∨ l = .filling c ∨ l = .ready c
      · rw [ended l hl]
        refine ⟨fun x => (by cases x), fun x => absurd ?_ x.2⟩
        have hi := x.1
        rcases hl with rfl | rfl | rfl
        · rw [hB] at hi; simp [hi]
        · rw [hF] at hi; exact List.mem_append_left _ hi
        · rw [hR] at hi; simp [hi]
      · rw [same l hl]
        refine ⟨fun x => ⟨x, fun y => hl ?_⟩, fun x => x.1⟩
        rw [List.append_nil, List.mem_append, List.mem_append, ← hF, ← hB, ← hR] at y
        rcases y with y | y | y
        · exact Or.inr (Or.inl (one _ _ _ x y))
        · exact Or.inl (one _ _ _ x y)
        · exact Or.inr (Or.inr (one _ _ _ x y))
    · by_cases hl : l = .blank c ∨ l = .filling c ∨ l = .ready c
      · rw [ended l hl]; exact List.nodup_nil
      · rw [same l hl]; exact hp.distinct l
    · have : d ≠ c := fun e => hd (e ▸ hd')
      rw [ring_setRing_ne _ _ _ _ this]
      exact hp.deficit d hd'
  have free : ∀ i, i ∈ r.filling.toList ∨ i ∈ r.blank → (m.slot i).place.held = false := by
    intro i hi
    rcases hi with hi | hi
    · exact held_of_list (hp.place (l := .filling c) (by rw [hF]; exact hi)) (by simp)
    · exact held_of_list (hp.place (l := .blank c) (by rw [hB]; exact hi)) (by simp)
  have isReady : ∀ i ∈ r.ready, ∃ f, (m.slot i).place = .ready c f none := by
    intro i hi
    have a := hp.place (l := .ready c) (i := i) (by rw [hR]; exact hi)
    have b := hk i hi
    unfold claimOf at b
    cases hq : (m.slot i).place with
    | ready d f k =>
      rw [hq] at a b
      cases a
      cases b
      exact ⟨f, rfl⟩
    | _ => rw [hq] at a; cases a
  have hn' := hn
  rw [List.nodup_append, List.nodup_append] at hn'
  obtain ⟨P1, d1, s1, h1⟩ := leaveAll giveBack c (fun m i h => giveBack_setRing m c i h) slot_giveBack_ne heldCount_giveBack
    holdCount_giveBack (fun _ _ => True) (fun _ _ _ _ _ => trivial) (fun p m i h hi _ => h.giveBack i hi)
    r.filling.toList m (r.blank ++ (r.ready ++ [])) hn hd hP (fun _ _ => trivial) (fun i hi => free i (Or.inl hi)) hh
  have n1 : ∀ i, i ∈ r.blank ++ (r.ready ++ []) → i ∉ r.filling.toList := fun i hi x => hn'.2.2 i x i hi rfl
  obtain ⟨P2, d2, s2, h2⟩ := leaveAll giveBack c (fun m i h => giveBack_setRing m c i h) slot_giveBack_ne heldCount_giveBack
    holdCount_giveBack (fun _ _ => True) (fun _ _ _ _ _ => trivial) (fun p m i h hi _ => h.giveBack i hi)
    r.blank (m.giveBackAll r.filling.toList) (r.ready ++ []) (by rw [List.nodup_append]; exact hn'.2.1) d1 P1
    (fun _ _ => trivial)
    (fun i hi => by
      have := s1 i (n1 i (List.mem_append_left _ hi))
      unfold giveBackAll
      rw [this]
      exact free i (Or.inr hi)) h1
  have n2 : ∀ i, i ∈ r.ready → i ∉ r.blank := fun i hi x => hn'.2.1.2.2 i x i (by simpa using hi) rfl
  have s3 : ∀ i ∈ r.ready, ((m.giveBackAll r.filling.toList).giveBackAll r.blank).slot i = m.slot i := by
    intro i hi
    have a := s2 i (n2 i hi)
    have b := s1 i (n1 i (List.mem_append_right _ (by simpa using hi)))
    unfold giveBackAll at a ⊢
    rw [a, b]
  obtain ⟨P3, _, _, h3⟩ := leaveAll leave c (fun m i h => leave_setRing m c i h) slot_leave_ne heldCount_leave holdCount_leave
    (fun m i => (∃ c f k, (m.slot i).place = .ready c f k) ∨ ∃ c f k, (m.slot i).place = .clip c f k)
    (fun m n i e h => by rw [e]; exact h) (fun p m i h hi ok => h.leave i hi ok) r.ready
    ((m.giveBackAll r.filling.toList).giveBackAll r.blank) [] (by rw [List.append_nil]; simpa using hn'.2.1.2.1) d2 P2
    (fun i hi => by
      obtain ⟨f, e⟩ := isReady i hi
      rw [s3 i hi]
      exact Or.inl ⟨c, f, none, e⟩)
    (fun i hi => by
      obtain ⟨f, e⟩ := isReady i hi
      rw [s3 i hi, e]
      rfl) h2
  have hC : ClaimsNewest (r.ready.foldl leave ((m.giveBackAll r.filling.toList).giveBackAll r.blank)) :=
    ClaimsNewest.foldl (fun _ i h => h.leave i) _ _
      (ClaimsNewest.foldl (fun _ i h => h.giveBack i) _ _ (ClaimsNewest.foldl (fun _ i h => h.giveBack i) _ _ hc))
  rw [accounted_iff]
  have P4 := P3.congr (q := NoHand) fun j => ⟨fun x => x.elim, fun x => by cases x⟩
  refine ⟨P4, ?_, h3⟩
  intro j d f k e
  by_cases ed : d = c
  · subst ed
    have := (P4.placed j id (.ready d)).mp (by rw [e]; rfl)
    simp only [members] at this
    rw [ring_setRing] at this
    cases this
  · have := hC j d f k e
    unfold newest at this ⊢
    rw [ring_setRing_ne _ _ _ _ ed]
    exact this

theorem accounted_dissolve {m : SlotManager} (h : SlotsAccounted m) (c : Cam) : SlotsAccounted (m.dissolve c).1 := by
  have hm := h
  rw [accounted_iff] at h
  obtain ⟨hp, hc, hh⟩ := h
  unfold dissolve
  split
  · exact hm
  · rename_i r er
    dsimp only
    have hP : Placed NoHand ({ m with deficit := m.deficit.filter (· != c) } : SlotManager) :=
      { hp with
        placed := fun j hj l => by have := hp.placed j hj l; cases l <;> exact this
        out := fun _ hj => hj.elim
        distinct := fun l => by have := hp.distinct l; cases l <;> exact this
        deficit := fun d hd => hp.deficit d (List.mem_of_mem_filter hd) }
    have hC : ClaimsNewest ({ m with deficit := m.deficit.filter (· != c) } : SlotManager) := hc.of_eq rfl rfl
    have hD : c ∉ ({ m with deficit := m.deficit.filter (· != c) } : SlotManager).deficit := by
      show c ∉ m.deficit.filter (· != c)
      simp
    have eR : ({ m with deficit := m.deficit.filter (· != c) } : SlotManager).ring c = some r := er
    have hH : ({ m with deficit := m.deficit.filter (· != c) } : SlotManager).holdCount
        = ({ m with deficit := m.deficit.filter (· != c) } : SlotManager).heldCount := hh
    generalize ({ m with deficit := m.deficit.filter (· != c) } : SlotManager) = n at *
    cases el : r.ready.getLast? with
    | none =>
      dsimp only [Option.bind_none]
      refine accounted_end hP hC hH c r eR hD fun j hj => ?_
      rw [List.getLast?_eq_none_iff] at el
      rw [el] at hj
      cases hj
    | some i =>
      have hi : i ∈ r.ready := List.mem_of_getLast? el
      have claims : ∀ j ∈ r.ready, j ≠ i → n.claimOf j = none := by
        intro j hj hji
        have a := hP.place (l := .ready c) (i := j) (by rw [members_ready eR]; exact hj)
        cases hq : (n.slot j).place with
        | ready d f k =>
          rw [hq] at a
          cases a
          cases k with
          | none => unfold claimOf; rw [hq]
          | some k =>
            have := hC j c f k hq
            rw [newest_of_ring eR, el] at this
            exact absurd (Option.some.inj this).symm hji
        | _ => rw [hq] at a; cases a
      rw [Option.bind_some]
      cases ev : n.moveNotice i with
      | none =>
        have ek := claimOf_of_moveNotice_none ev
        dsimp only
        refine accounted_end hP hC hH c r eR hD fun j hj => ?_
        by_cases e : j = i
        · rw [e]; exact ek
        · exact claims j hj e
      | some v =>
        obtain ⟨evs, ek⟩ := claimOf_of_moveNotice_some ev
        dsimp only
        rw [evs]
        generalize v.clip = k at ek
        have hki : (n.claimOf i).isSome = true := by rw [ek]; rfl
        have him : i ∈ n.members (.ready c) := by rw [members_ready eR]; exact hi
        have hpl : ∃ c' f, (n.slot i).place = .ready c' f (some k) := by
          unfold claimOf at ek
          cases hq : (n.slot i).place with
          | ready d f x => rw [hq] at ek; dsimp only at ek; rw [ek]; exact ⟨d, f, rfl⟩
          | _ => rw [hq] at ek; cases ek
        obtain ⟨c', f, hq⟩ := hpl
        have hmove : n.moveOut c i
            = (n.setPlace i (.clip c' f k)).setRing c (some { r with ready := r.ready.erase i }) := by
          unfold moveOut
          rw [hq]
          dsimp only
          have : (n.setPlace i (.clip c' f k)).ring c = some r := eR
          rw [this]
        have hring : (n.moveOut c i).ring c = some { r with ready := r.ready.erase i } := by
          rw [hmove, ring_setRing]
        have hslot : ∀ j, j ≠ i → (n.moveOut c i).slot j = n.slot j := by
          intro j hj
          rw [hmove, slot_setRing]
          exact slot_setSlot_ne _ _ _ _ hj
        have hnd : r.ready.Nodup := by rw [← members_ready eR]; exact hP.distinct _
        refine accounted_end (hP.moveOut c i him)
          (ClaimsNewest.moveOut c i (fun j d f k _ e => hC j d f k e) hki)
          (by rw [holdCount_moveOut, heldCount_moveOut]; exact hH) c { r with ready := r.ready.erase i } hring
          (by rw [hmove]; exact hD) fun j hj => ?_
        have hj' := (hnd.mem_erase_iff).mp hj
        have := claims j hj'.2 hj'.1
        unfold claimOf at this ⊢
        rw [hslot j hj'.1]
        exact this

/-! ## After reset -/

theorem slot_reset (i : SlotNo) : SlotManager.reset.slot i = SlotRecord.reset := by
  simp [SlotManager.reset, slot]

theorem ring_reset (c : Cam) : SlotManager.reset.ring c = none := by
  simp [SlotManager.reset, ring]

theorem accounted_reset : SlotsAccounted SlotManager.reset where
  placed := fun i l => by
    rw [slot_reset]
    cases l with
    | free => exact ⟨fun _ => List.mem_finRange i, fun _ => rfl⟩
    | _ => simp only [members]; rw [ring_reset]; exact ⟨fun x => (by cases x), fun x => (by cases x)⟩
  distinct := fun l => by
    cases l with
    | free => exact List.nodup_finRange 160
    | _ => simp only [members]; rw [ring_reset]; exact List.nodup_nil
  pins := fun i => by rw [slot_reset]; rfl
  claimed := fun i c f k e => by rw [slot_reset] at e; cases e
  deficit := fun c hc => by cases hc
  held := by
    unfold heldCount
    simp only [slot_reset]
    rfl

/-! ## The counts add up (R22) -/

theorem length_eq_countP {l : List SlotNo} (hn : l.Nodup) (p : SlotNo → Bool) (h : ∀ i, i ∈ l ↔ p i = true) :
    l.length = (List.finRange 160).countP p := by
  have : l.Perm ((List.finRange 160).filter p) :=
    (List.perm_ext_iff_of_nodup hn ((List.nodup_finRange 160).filter p)).mpr fun i => by
      rw [List.mem_filter, h]
      exact ⟨fun x => ⟨List.mem_finRange i, x⟩, fun x => x.2⟩
  rw [this.length_eq, List.countP_eq_length_filter]

/-- What a slot of a list counts in a camera's ring size. -/
def ringCounted (l : Option SlotList) (c : Cam) : Nat :=
  (l == some (.ready c)).toNat + (l == some (.blank c)).toNat + (l == some (.filling c)).toNat

/-- The place of a slot in a clip. -/
def clipPlace (p : Place) : Bool := match p with | .clip _ _ _ => true | _ => false

/-- The place of a slot that retires. -/
def retiringPlace (p : Place) : Bool := match p with | .retiring _ _ => true | _ => false

theorem countOnce (p : Place) :
    (p.list == some .free).toNat + (allCams.map (ringCounted p.list)).sum + (clipPlace p).toNat + (retiringPlace p).toNat
      = 1 := by
  have free : (allCams.map (ringCounted (some .free))).sum = 0 := by decide
  have none : (allCams.map (ringCounted none)).sum = 0 := by decide
  have blank : ∀ c : Cam, (allCams.map (ringCounted (some (.blank c)))).sum = 1 := by decide
  have filling : ∀ c : Cam, (allCams.map (ringCounted (some (.filling c)))).sum = 1 := by decide
  have ready : ∀ c : Cam, (allCams.map (ringCounted (some (.ready c)))).sum = 1 := by decide
  cases p with
  | free => simp [Place.list, free, clipPlace, retiringPlace]
  | blank c => simp [Place.list, blank, clipPlace, retiringPlace]
  | filling c f => simp [Place.list, filling, clipPlace, retiringPlace]
  | ready c f k => simp [Place.list, ready, clipPlace, retiringPlace]
  | clip c f k => simp [Place.list, none, clipPlace, retiringPlace]
  | retiring c f => simp [Place.list, none, clipPlace, retiringPlace]

theorem countAll (m : SlotManager) (l : List SlotNo) :
    l.countP (fun i => (m.slot i).place.list == some .free)
      + (allCams.map fun c => l.countP (fun i => (m.slot i).place.list == some (.ready c))
          + l.countP (fun i => (m.slot i).place.list == some (.blank c))
          + l.countP (fun i => (m.slot i).place.list == some (.filling c))).sum
      + l.countP (fun i => clipPlace (m.slot i).place) + l.countP (fun i => retiringPlace (m.slot i).place) = l.length := by
  induction l with
  | nil => simp
  | cons i l ih =>
    have one := countOnce (m.slot i).place
    have step : ∀ (p : SlotNo → Bool), (i :: l).countP p = l.countP p + (p i).toNat := by
      intro p; rw [List.countP_cons]; cases p i <;> rfl
    simp only [step]
    have sum : (allCams.map fun c => l.countP (fun i => (m.slot i).place.list == some (.ready c))
            + ((m.slot i).place.list == some (.ready c)).toNat
          + (l.countP (fun i => (m.slot i).place.list == some (.blank c)) + ((m.slot i).place.list == some (.blank c)).toNat)
          + (l.countP (fun i => (m.slot i).place.list == some (.filling c))
            + ((m.slot i).place.list == some (.filling c)).toNat)).sum
        = (allCams.map fun c => l.countP (fun i => (m.slot i).place.list == some (.ready c))
          + l.countP (fun i => (m.slot i).place.list == some (.blank c))
          + l.countP (fun i => (m.slot i).place.list == some (.filling c))).sum
          + (allCams.map (ringCounted (m.slot i).place.list)).sum := by
      rw [← List.sum_map_add]
      congr 1
      apply List.map_congr_left
      intro c _
      unfold ringCounted
      omega
    rw [sum, List.length_cons]
    omega

/-- The free-pool count, the ring sizes of all cameras, the number of slots in clips and the retiring count together make 160
(R22). -/
theorem accounted_sum {m : SlotManager} (h : SlotsAccounted m) :
    m.freePool.length + (allCams.map m.ringSize).sum + m.clipCount + m.retiringCount = 160 := by
  have len : ∀ l, (m.members l).length = (List.finRange 160).countP fun i => (m.slot i).place.list == some l := fun l =>
    length_eq_countP (h.distinct l) _ fun i => by rw [← h.placed]; exact beq_iff_eq.symm
  have size : ∀ c, m.ringSize c = (List.finRange 160).countP (fun i => (m.slot i).place.list == some (.ready c))
      + (List.finRange 160).countP (fun i => (m.slot i).place.list == some (.blank c))
      + (List.finRange 160).countP (fun i => (m.slot i).place.list == some (.filling c)) := by
    intro c
    rw [← len, ← len, ← len]
    simp only [ringSize, members]
    cases m.ring c with
    | none => rfl
    | some r => cases hf : r.filling <;> simp [hf]
  have all := countAll m (List.finRange 160)
  rw [List.length_finRange, ← len] at all
  have e : allCams.map m.ringSize = allCams.map fun c =>
      (List.finRange 160).countP (fun i => (m.slot i).place.list == some (.ready c))
      + (List.finRange 160).countP (fun i => (m.slot i).place.list == some (.blank c))
      + (List.finRange 160).countP (fun i => (m.slot i).place.list == some (.filling c)) :=
    List.map_congr_left fun c _ => size c
  rw [e]
  exact all

end Sys2Proof.Machine.SlotManager
end

