-- ==== Sys2Proof/Laws/Control.lean ====
section
/-! SUPPORT. What each operation of the control side can do to the length of the control queue. -/

-- One proof at a time: a thread for each at once is more than the memory limit lets Lean have.
set_option Elab.async false

namespace Sys2Proof.Machine

namespace ControlRecord

/-- Sending a command leaves the number of entries. -/
@[simp] theorem length_pump (r : ControlRecord) : r.pump.queue.length = r.queue.length := by
  unfold pump
  split
  · rename_i h; simp [h]
  · rfl

theorem enqueue_length {r q : ControlRecord} {work : EntryWork} (h : r.enqueue work = some q) :
    r.queue.length < 3 ∧ q.queue.length = r.queue.length + 1 := by
  unfold enqueue at h
  split at h
  · rename_i hl; cases h; exact ⟨hl, by simp⟩
  · cases h

theorem heaterRequest_length {r q : ControlRecord} {on : Bool} (h : r.heaterRequest on = some q) :
    q.queue.length = r.queue.length ∨ q.queue.length ≤ 3 := by
  unfold heaterRequest at h
  split at h
  · cases h; left; simp
  · have := enqueue_length h; right; omega

theorem flush_length (r : ControlRecord) : r.flush.1.queue.length ≤ 3 := by
  unfold flush
  cases r.queue with
  | nil => simp
  | cons e rest => cases h : e.started <;> simp [h]

@[simp] theorem length_resend (r : ControlRecord) : r.resend.queue.length = r.queue.length := rfl

@[simp] theorem length_idled (r : ControlRecord) : r.idled.queue.length = r.queue.length := rfl

theorem length_popped (r : ControlRecord) : r.popped.queue.length ≤ r.queue.length := by simp [popped]

@[simp] theorem length_withStep (r : ControlRecord) (b : BringUpStep) :
    (r.withStep b).queue.length = r.queue.length := by
  unfold withStep
  split
  · rename_i h; simp [h]
  · rfl

@[simp] theorem length_lastByteSent (r : ControlRecord) (n : Nat) :
    (r.lastByteSent n).queue.length = r.queue.length := by
  unfold lastByteSent
  split <;> rfl

end ControlRecord

end Sys2Proof.Machine
end

