-- ==== Sys2Proof/Laws/State.lean ====
section
/-! SUPPORT. One lemma per field of State and per update, so that no proof unfolds a record update. -/

-- One proof at a time: a thread for each at once is more than the memory limit lets Lean have.
set_option Elab.async false

namespace Sys2Proof.Machine

@[simp] theorem State.setSlots_pending (s : State) (m : SlotManager) : (s.setSlots m).pending = s.pending := rfl
@[simp] theorem State.setSlots_elapsed (s : State) (m : SlotManager) : (s.setSlots m).elapsed = s.elapsed := rfl
@[simp] theorem State.setSlots_pins (s : State) (m : SlotManager) : (s.setSlots m).pins = s.pins := rfl
@[simp] theorem State.setSlots_slots (s : State) (m : SlotManager) : (s.setSlots m).slots = m := rfl
@[simp] theorem State.setSlots_pixels (s : State) (m : SlotManager) : (s.setSlots m).pixels = s.pixels := rfl
@[simp] theorem State.setSlots_cameras (s : State) (m : SlotManager) : (s.setSlots m).cameras = s.cameras := rfl
@[simp] theorem State.setSlots_controls (s : State) (m : SlotManager) : (s.setSlots m).controls = s.controls := rfl
@[simp] theorem State.setSlots_doors (s : State) (m : SlotManager) : (s.setSlots m).doors = s.doors := rfl
@[simp] theorem State.setSlots_screenA (s : State) (m : SlotManager) : (s.setSlots m).screenA = s.screenA := rfl
@[simp] theorem State.setSlots_screenB (s : State) (m : SlotManager) : (s.setSlots m).screenB = s.screenB := rfl
@[simp] theorem State.setSlots_layouts (s : State) (m : SlotManager) : (s.setSlots m).layouts = s.layouts := rfl
@[simp] theorem State.setSlots_soil (s : State) (m : SlotManager) : (s.setSlots m).soil = s.soil := rfl
@[simp] theorem State.setSlots_clips (s : State) (m : SlotManager) : (s.setSlots m).clips = s.clips := rfl
@[simp] theorem State.setSlots_exporter (s : State) (m : SlotManager) : (s.setSlots m).exporter = s.exporter := rfl
@[simp] theorem State.setSlots_link (s : State) (m : SlotManager) : (s.setSlots m).link = s.link := rfl

@[simp] theorem State.setPixels_pending (s : State) (m : List Host.Cell) : (s.setPixels m).pending = s.pending := rfl
@[simp] theorem State.setPixels_elapsed (s : State) (m : List Host.Cell) : (s.setPixels m).elapsed = s.elapsed := rfl
@[simp] theorem State.setPixels_pins (s : State) (m : List Host.Cell) : (s.setPixels m).pins = s.pins := rfl
@[simp] theorem State.setPixels_slots (s : State) (m : List Host.Cell) : (s.setPixels m).slots = s.slots := rfl
@[simp] theorem State.setPixels_pixels (s : State) (m : List Host.Cell) : (s.setPixels m).pixels = m := rfl
@[simp] theorem State.setPixels_cameras (s : State) (m : List Host.Cell) : (s.setPixels m).cameras = s.cameras := rfl
@[simp] theorem State.setPixels_controls (s : State) (m : List Host.Cell) : (s.setPixels m).controls = s.controls := rfl
@[simp] theorem State.setPixels_doors (s : State) (m : List Host.Cell) : (s.setPixels m).doors = s.doors := rfl
@[simp] theorem State.setPixels_screenA (s : State) (m : List Host.Cell) : (s.setPixels m).screenA = s.screenA := rfl
@[simp] theorem State.setPixels_screenB (s : State) (m : List Host.Cell) : (s.setPixels m).screenB = s.screenB := rfl
@[simp] theorem State.setPixels_layouts (s : State) (m : List Host.Cell) : (s.setPixels m).layouts = s.layouts := rfl
@[simp] theorem State.setPixels_soil (s : State) (m : List Host.Cell) : (s.setPixels m).soil = s.soil := rfl
@[simp] theorem State.setPixels_clips (s : State) (m : List Host.Cell) : (s.setPixels m).clips = s.clips := rfl
@[simp] theorem State.setPixels_exporter (s : State) (m : List Host.Cell) : (s.setPixels m).exporter = s.exporter := rfl
@[simp] theorem State.setPixels_link (s : State) (m : List Host.Cell) : (s.setPixels m).link = s.link := rfl

@[simp] theorem State.setDoors_pending (s : State) (d : DoorUnit) : (s.setDoors d).pending = s.pending := rfl
@[simp] theorem State.setDoors_elapsed (s : State) (d : DoorUnit) : (s.setDoors d).elapsed = s.elapsed := rfl
@[simp] theorem State.setDoors_pins (s : State) (d : DoorUnit) : (s.setDoors d).pins = s.pins := rfl
@[simp] theorem State.setDoors_slots (s : State) (d : DoorUnit) : (s.setDoors d).slots = s.slots := rfl
@[simp] theorem State.setDoors_pixels (s : State) (d : DoorUnit) : (s.setDoors d).pixels = s.pixels := rfl
@[simp] theorem State.setDoors_cameras (s : State) (d : DoorUnit) : (s.setDoors d).cameras = s.cameras := rfl
@[simp] theorem State.setDoors_controls (s : State) (d : DoorUnit) : (s.setDoors d).controls = s.controls := rfl
@[simp] theorem State.setDoors_doors (s : State) (d : DoorUnit) : (s.setDoors d).doors = d := rfl
@[simp] theorem State.setDoors_screenA (s : State) (d : DoorUnit) : (s.setDoors d).screenA = s.screenA := rfl
@[simp] theorem State.setDoors_screenB (s : State) (d : DoorUnit) : (s.setDoors d).screenB = s.screenB := rfl
@[simp] theorem State.setDoors_layouts (s : State) (d : DoorUnit) : (s.setDoors d).layouts = s.layouts := rfl
@[simp] theorem State.setDoors_soil (s : State) (d : DoorUnit) : (s.setDoors d).soil = s.soil := rfl
@[simp] theorem State.setDoors_clips (s : State) (d : DoorUnit) : (s.setDoors d).clips = s.clips := rfl
@[simp] theorem State.setDoors_exporter (s : State) (d : DoorUnit) : (s.setDoors d).exporter = s.exporter := rfl
@[simp] theorem State.setDoors_link (s : State) (d : DoorUnit) : (s.setDoors d).link = s.link := rfl

@[simp] theorem State.setLayouts_pending (s : State) (l : Vector (List TileRecord) 16) : (s.setLayouts l).pending = s.pending := rfl
@[simp] theorem State.setLayouts_elapsed (s : State) (l : Vector (List TileRecord) 16) : (s.setLayouts l).elapsed = s.elapsed := rfl
@[simp] theorem State.setLayouts_pins (s : State) (l : Vector (List TileRecord) 16) : (s.setLayouts l).pins = s.pins := rfl
@[simp] theorem State.setLayouts_slots (s : State) (l : Vector (List TileRecord) 16) : (s.setLayouts l).slots = s.slots := rfl
@[simp] theorem State.setLayouts_pixels (s : State) (l : Vector (List TileRecord) 16) : (s.setLayouts l).pixels = s.pixels := rfl
@[simp] theorem State.setLayouts_cameras (s : State) (l : Vector (List TileRecord) 16) : (s.setLayouts l).cameras = s.cameras := rfl
@[simp] theorem State.setLayouts_controls (s : State) (l : Vector (List TileRecord) 16) : (s.setLayouts l).controls = s.controls := rfl
@[simp] theorem State.setLayouts_doors (s : State) (l : Vector (List TileRecord) 16) : (s.setLayouts l).doors = s.doors := rfl
@[simp] theorem State.setLayouts_screenA (s : State) (l : Vector (List TileRecord) 16) : (s.setLayouts l).screenA = s.screenA := rfl
@[simp] theorem State.setLayouts_screenB (s : State) (l : Vector (List TileRecord) 16) : (s.setLayouts l).screenB = s.screenB := rfl
@[simp] theorem State.setLayouts_layouts (s : State) (l : Vector (List TileRecord) 16) : (s.setLayouts l).layouts = l := rfl
@[simp] theorem State.setLayouts_soil (s : State) (l : Vector (List TileRecord) 16) : (s.setLayouts l).soil = s.soil := rfl
@[simp] theorem State.setLayouts_clips (s : State) (l : Vector (List TileRecord) 16) : (s.setLayouts l).clips = s.clips := rfl
@[simp] theorem State.setLayouts_exporter (s : State) (l : Vector (List TileRecord) 16) : (s.setLayouts l).exporter = s.exporter := rfl
@[simp] theorem State.setLayouts_link (s : State) (l : Vector (List TileRecord) 16) : (s.setLayouts l).link = s.link := rfl

@[simp] theorem State.setSoil_pending (s : State) (m : SoilMonitor) : (s.setSoil m).pending = s.pending := rfl
@[simp] theorem State.setSoil_elapsed (s : State) (m : SoilMonitor) : (s.setSoil m).elapsed = s.elapsed := rfl
@[simp] theorem State.setSoil_pins (s : State) (m : SoilMonitor) : (s.setSoil m).pins = s.pins := rfl
@[simp] theorem State.setSoil_slots (s : State) (m : SoilMonitor) : (s.setSoil m).slots = s.slots := rfl
@[simp] theorem State.setSoil_pixels (s : State) (m : SoilMonitor) : (s.setSoil m).pixels = s.pixels := rfl
@[simp] theorem State.setSoil_cameras (s : State) (m : SoilMonitor) : (s.setSoil m).cameras = s.cameras := rfl
@[simp] theorem State.setSoil_controls (s : State) (m : SoilMonitor) : (s.setSoil m).controls = s.controls := rfl
@[simp] theorem State.setSoil_doors (s : State) (m : SoilMonitor) : (s.setSoil m).doors = s.doors := rfl
@[simp] theorem State.setSoil_screenA (s : State) (m : SoilMonitor) : (s.setSoil m).screenA = s.screenA := rfl
@[simp] theorem State.setSoil_screenB (s : State) (m : SoilMonitor) : (s.setSoil m).screenB = s.screenB := rfl
@[simp] theorem State.setSoil_layouts (s : State) (m : SoilMonitor) : (s.setSoil m).layouts = s.layouts := rfl
@[simp] theorem State.setSoil_soil (s : State) (m : SoilMonitor) : (s.setSoil m).soil = m := rfl
@[simp] theorem State.setSoil_clips (s : State) (m : SoilMonitor) : (s.setSoil m).clips = s.clips := rfl
@[simp] theorem State.setSoil_exporter (s : State) (m : SoilMonitor) : (s.setSoil m).exporter = s.exporter := rfl
@[simp] theorem State.setSoil_link (s : State) (m : SoilMonitor) : (s.setSoil m).link = s.link := rfl

@[simp] theorem State.setClips_pending (s : State) (u : ClipUnit) : (s.setClips u).pending = s.pending := rfl
@[simp] theorem State.setClips_elapsed (s : State) (u : ClipUnit) : (s.setClips u).elapsed = s.elapsed := rfl
@[simp] theorem State.setClips_pins (s : State) (u : ClipUnit) : (s.setClips u).pins = s.pins := rfl
@[simp] theorem State.setClips_slots (s : State) (u : ClipUnit) : (s.setClips u).slots = s.slots := rfl
@[simp] theorem State.setClips_pixels (s : State) (u : ClipUnit) : (s.setClips u).pixels = s.pixels := rfl
@[simp] theorem State.setClips_cameras (s : State) (u : ClipUnit) : (s.setClips u).cameras = s.cameras := rfl
@[simp] theorem State.setClips_controls (s : State) (u : ClipUnit) : (s.setClips u).controls = s.controls := rfl
@[simp] theorem State.setClips_doors (s : State) (u : ClipUnit) : (s.setClips u).doors = s.doors := rfl
@[simp] theorem State.setClips_screenA (s : State) (u : ClipUnit) : (s.setClips u).screenA = s.screenA := rfl
@[simp] theorem State.setClips_screenB (s : State) (u : ClipUnit) : (s.setClips u).screenB = s.screenB := rfl
@[simp] theorem State.setClips_layouts (s : State) (u : ClipUnit) : (s.setClips u).layouts = s.layouts := rfl
@[simp] theorem State.setClips_soil (s : State) (u : ClipUnit) : (s.setClips u).soil = s.soil := rfl
@[simp] theorem State.setClips_clips (s : State) (u : ClipUnit) : (s.setClips u).clips = u := rfl
@[simp] theorem State.setClips_exporter (s : State) (u : ClipUnit) : (s.setClips u).exporter = s.exporter := rfl
@[simp] theorem State.setClips_link (s : State) (u : ClipUnit) : (s.setClips u).link = s.link := rfl

@[simp] theorem State.setExporter_pending (s : State) (e : ExportEngine) : (s.setExporter e).pending = s.pending := rfl
@[simp] theorem State.setExporter_elapsed (s : State) (e : ExportEngine) : (s.setExporter e).elapsed = s.elapsed := rfl
@[simp] theorem State.setExporter_pins (s : State) (e : ExportEngine) : (s.setExporter e).pins = s.pins := rfl
@[simp] theorem State.setExporter_slots (s : State) (e : ExportEngine) : (s.setExporter e).slots = s.slots := rfl
@[simp] theorem State.setExporter_pixels (s : State) (e : ExportEngine) : (s.setExporter e).pixels = s.pixels := rfl
@[simp] theorem State.setExporter_cameras (s : State) (e : ExportEngine) : (s.setExporter e).cameras = s.cameras := rfl
@[simp] theorem State.setExporter_controls (s : State) (e : ExportEngine) : (s.setExporter e).controls = s.controls := rfl
@[simp] theorem State.setExporter_doors (s : State) (e : ExportEngine) : (s.setExporter e).doors = s.doors := rfl
@[simp] theorem State.setExporter_screenA (s : State) (e : ExportEngine) : (s.setExporter e).screenA = s.screenA := rfl
@[simp] theorem State.setExporter_screenB (s : State) (e : ExportEngine) : (s.setExporter e).screenB = s.screenB := rfl
@[simp] theorem State.setExporter_layouts (s : State) (e : ExportEngine) : (s.setExporter e).layouts = s.layouts := rfl
@[simp] theorem State.setExporter_soil (s : State) (e : ExportEngine) : (s.setExporter e).soil = s.soil := rfl
@[simp] theorem State.setExporter_clips (s : State) (e : ExportEngine) : (s.setExporter e).clips = s.clips := rfl
@[simp] theorem State.setExporter_exporter (s : State) (e : ExportEngine) : (s.setExporter e).exporter = e := rfl
@[simp] theorem State.setExporter_link (s : State) (e : ExportEngine) : (s.setExporter e).link = s.link := rfl

@[simp] theorem State.setLink_pending (s : State) (l : LinkController) : (s.setLink l).pending = s.pending := rfl
@[simp] theorem State.setLink_elapsed (s : State) (l : LinkController) : (s.setLink l).elapsed = s.elapsed := rfl
@[simp] theorem State.setLink_pins (s : State) (l : LinkController) : (s.setLink l).pins = s.pins := rfl
@[simp] theorem State.setLink_slots (s : State) (l : LinkController) : (s.setLink l).slots = s.slots := rfl
@[simp] theorem State.setLink_pixels (s : State) (l : LinkController) : (s.setLink l).pixels = s.pixels := rfl
@[simp] theorem State.setLink_cameras (s : State) (l : LinkController) : (s.setLink l).cameras = s.cameras := rfl
@[simp] theorem State.setLink_controls (s : State) (l : LinkController) : (s.setLink l).controls = s.controls := rfl
@[simp] theorem State.setLink_doors (s : State) (l : LinkController) : (s.setLink l).doors = s.doors := rfl
@[simp] theorem State.setLink_screenA (s : State) (l : LinkController) : (s.setLink l).screenA = s.screenA := rfl
@[simp] theorem State.setLink_screenB (s : State) (l : LinkController) : (s.setLink l).screenB = s.screenB := rfl
@[simp] theorem State.setLink_layouts (s : State) (l : LinkController) : (s.setLink l).layouts = s.layouts := rfl
@[simp] theorem State.setLink_soil (s : State) (l : LinkController) : (s.setLink l).soil = s.soil := rfl
@[simp] theorem State.setLink_clips (s : State) (l : LinkController) : (s.setLink l).clips = s.clips := rfl
@[simp] theorem State.setLink_exporter (s : State) (l : LinkController) : (s.setLink l).exporter = s.exporter := rfl
@[simp] theorem State.setLink_link (s : State) (l : LinkController) : (s.setLink l).link = l := rfl

@[simp] theorem State.setPins_pending (s : State) (p : Pins) : (s.setPins p).pending = s.pending := rfl
@[simp] theorem State.setPins_elapsed (s : State) (p : Pins) : (s.setPins p).elapsed = s.elapsed := rfl
@[simp] theorem State.setPins_pins (s : State) (p : Pins) : (s.setPins p).pins = p := rfl
@[simp] theorem State.setPins_slots (s : State) (p : Pins) : (s.setPins p).slots = s.slots := rfl
@[simp] theorem State.setPins_pixels (s : State) (p : Pins) : (s.setPins p).pixels = s.pixels := rfl
@[simp] theorem State.setPins_cameras (s : State) (p : Pins) : (s.setPins p).cameras = s.cameras := rfl
@[simp] theorem State.setPins_controls (s : State) (p : Pins) : (s.setPins p).controls = s.controls := rfl
@[simp] theorem State.setPins_doors (s : State) (p : Pins) : (s.setPins p).doors = s.doors := rfl
@[simp] theorem State.setPins_screenA (s : State) (p : Pins) : (s.setPins p).screenA = s.screenA := rfl
@[simp] theorem State.setPins_screenB (s : State) (p : Pins) : (s.setPins p).screenB = s.screenB := rfl
@[simp] theorem State.setPins_layouts (s : State) (p : Pins) : (s.setPins p).layouts = s.layouts := rfl
@[simp] theorem State.setPins_soil (s : State) (p : Pins) : (s.setPins p).soil = s.soil := rfl
@[simp] theorem State.setPins_clips (s : State) (p : Pins) : (s.setPins p).clips = s.clips := rfl
@[simp] theorem State.setPins_exporter (s : State) (p : Pins) : (s.setPins p).exporter = s.exporter := rfl
@[simp] theorem State.setPins_link (s : State) (p : Pins) : (s.setPins p).link = s.link := rfl

@[simp] theorem State.setElapsed_pending (s : State) (n : Nat) : (s.setElapsed n).pending = s.pending := rfl
@[simp] theorem State.setElapsed_elapsed (s : State) (n : Nat) : (s.setElapsed n).elapsed = n := rfl
@[simp] theorem State.setElapsed_pins (s : State) (n : Nat) : (s.setElapsed n).pins = s.pins := rfl
@[simp] theorem State.setElapsed_slots (s : State) (n : Nat) : (s.setElapsed n).slots = s.slots := rfl
@[simp] theorem State.setElapsed_pixels (s : State) (n : Nat) : (s.setElapsed n).pixels = s.pixels := rfl
@[simp] theorem State.setElapsed_cameras (s : State) (n : Nat) : (s.setElapsed n).cameras = s.cameras := rfl
@[simp] theorem State.setElapsed_controls (s : State) (n : Nat) : (s.setElapsed n).controls = s.controls := rfl
@[simp] theorem State.setElapsed_doors (s : State) (n : Nat) : (s.setElapsed n).doors = s.doors := rfl
@[simp] theorem State.setElapsed_screenA (s : State) (n : Nat) : (s.setElapsed n).screenA = s.screenA := rfl
@[simp] theorem State.setElapsed_screenB (s : State) (n : Nat) : (s.setElapsed n).screenB = s.screenB := rfl
@[simp] theorem State.setElapsed_layouts (s : State) (n : Nat) : (s.setElapsed n).layouts = s.layouts := rfl
@[simp] theorem State.setElapsed_soil (s : State) (n : Nat) : (s.setElapsed n).soil = s.soil := rfl
@[simp] theorem State.setElapsed_clips (s : State) (n : Nat) : (s.setElapsed n).clips = s.clips := rfl
@[simp] theorem State.setElapsed_exporter (s : State) (n : Nat) : (s.setElapsed n).exporter = s.exporter := rfl
@[simp] theorem State.setElapsed_link (s : State) (n : Nat) : (s.setElapsed n).link = s.link := rfl

@[simp] theorem State.setPending_pending (s : State) (q : List Instr) : (s.setPending q).pending = q := rfl
@[simp] theorem State.setPending_elapsed (s : State) (q : List Instr) : (s.setPending q).elapsed = s.elapsed := rfl
@[simp] theorem State.setPending_pins (s : State) (q : List Instr) : (s.setPending q).pins = s.pins := rfl
@[simp] theorem State.setPending_slots (s : State) (q : List Instr) : (s.setPending q).slots = s.slots := rfl
@[simp] theorem State.setPending_pixels (s : State) (q : List Instr) : (s.setPending q).pixels = s.pixels := rfl
@[simp] theorem State.setPending_cameras (s : State) (q : List Instr) : (s.setPending q).cameras = s.cameras := rfl
@[simp] theorem State.setPending_controls (s : State) (q : List Instr) : (s.setPending q).controls = s.controls := rfl
@[simp] theorem State.setPending_doors (s : State) (q : List Instr) : (s.setPending q).doors = s.doors := rfl
@[simp] theorem State.setPending_screenA (s : State) (q : List Instr) : (s.setPending q).screenA = s.screenA := rfl
@[simp] theorem State.setPending_screenB (s : State) (q : List Instr) : (s.setPending q).screenB = s.screenB := rfl
@[simp] theorem State.setPending_layouts (s : State) (q : List Instr) : (s.setPending q).layouts = s.layouts := rfl
@[simp] theorem State.setPending_soil (s : State) (q : List Instr) : (s.setPending q).soil = s.soil := rfl
@[simp] theorem State.setPending_clips (s : State) (q : List Instr) : (s.setPending q).clips = s.clips := rfl
@[simp] theorem State.setPending_exporter (s : State) (q : List Instr) : (s.setPending q).exporter = s.exporter := rfl
@[simp] theorem State.setPending_link (s : State) (q : List Instr) : (s.setPending q).link = s.link := rfl

@[simp] theorem State.setScreenA_pending (s : State) (c : Composer) : (s.setScreenA c).pending = s.pending := rfl
@[simp] theorem State.setScreenA_elapsed (s : State) (c : Composer) : (s.setScreenA c).elapsed = s.elapsed := rfl
@[simp] theorem State.setScreenA_pins (s : State) (c : Composer) : (s.setScreenA c).pins = s.pins := rfl
@[simp] theorem State.setScreenA_slots (s : State) (c : Composer) : (s.setScreenA c).slots = s.slots := rfl
@[simp] theorem State.setScreenA_pixels (s : State) (c : Composer) : (s.setScreenA c).pixels = s.pixels := rfl
@[simp] theorem State.setScreenA_cameras (s : State) (c : Composer) : (s.setScreenA c).cameras = s.cameras := rfl
@[simp] theorem State.setScreenA_controls (s : State) (c : Composer) : (s.setScreenA c).controls = s.controls := rfl
@[simp] theorem State.setScreenA_doors (s : State) (c : Composer) : (s.setScreenA c).doors = s.doors := rfl
@[simp] theorem State.setScreenA_screenA (s : State) (c : Composer) : (s.setScreenA c).screenA = c := rfl
@[simp] theorem State.setScreenA_screenB (s : State) (c : Composer) : (s.setScreenA c).screenB = s.screenB := rfl
@[simp] theorem State.setScreenA_layouts (s : State) (c : Composer) : (s.setScreenA c).layouts = s.layouts := rfl
@[simp] theorem State.setScreenA_soil (s : State) (c : Composer) : (s.setScreenA c).soil = s.soil := rfl
@[simp] theorem State.setScreenA_clips (s : State) (c : Composer) : (s.setScreenA c).clips = s.clips := rfl
@[simp] theorem State.setScreenA_exporter (s : State) (c : Composer) : (s.setScreenA c).exporter = s.exporter := rfl
@[simp] theorem State.setScreenA_link (s : State) (c : Composer) : (s.setScreenA c).link = s.link := rfl

@[simp] theorem State.setScreenB_pending (s : State) (c : Composer) : (s.setScreenB c).pending = s.pending := rfl
@[simp] theorem State.setScreenB_elapsed (s : State) (c : Composer) : (s.setScreenB c).elapsed = s.elapsed := rfl
@[simp] theorem State.setScreenB_pins (s : State) (c : Composer) : (s.setScreenB c).pins = s.pins := rfl
@[simp] theorem State.setScreenB_slots (s : State) (c : Composer) : (s.setScreenB c).slots = s.slots := rfl
@[simp] theorem State.setScreenB_pixels (s : State) (c : Composer) : (s.setScreenB c).pixels = s.pixels := rfl
@[simp] theorem State.setScreenB_cameras (s : State) (c : Composer) : (s.setScreenB c).cameras = s.cameras := rfl
@[simp] theorem State.setScreenB_controls (s : State) (c : Composer) : (s.setScreenB c).controls = s.controls := rfl
@[simp] theorem State.setScreenB_doors (s : State) (c : Composer) : (s.setScreenB c).doors = s.doors := rfl
@[simp] theorem State.setScreenB_screenA (s : State) (c : Composer) : (s.setScreenB c).screenA = s.screenA := rfl
@[simp] theorem State.setScreenB_screenB (s : State) (c : Composer) : (s.setScreenB c).screenB = c := rfl
@[simp] theorem State.setScreenB_layouts (s : State) (c : Composer) : (s.setScreenB c).layouts = s.layouts := rfl
@[simp] theorem State.setScreenB_soil (s : State) (c : Composer) : (s.setScreenB c).soil = s.soil := rfl
@[simp] theorem State.setScreenB_clips (s : State) (c : Composer) : (s.setScreenB c).clips = s.clips := rfl
@[simp] theorem State.setScreenB_exporter (s : State) (c : Composer) : (s.setScreenB c).exporter = s.exporter := rfl
@[simp] theorem State.setScreenB_link (s : State) (c : Composer) : (s.setScreenB c).link = s.link := rfl

@[simp] theorem State.setCameras_pending (s : State) (v : Vector CameraRecord 14) : (s.setCameras v).pending = s.pending := rfl
@[simp] theorem State.setCameras_elapsed (s : State) (v : Vector CameraRecord 14) : (s.setCameras v).elapsed = s.elapsed := rfl
@[simp] theorem State.setCameras_pins (s : State) (v : Vector CameraRecord 14) : (s.setCameras v).pins = s.pins := rfl
@[simp] theorem State.setCameras_slots (s : State) (v : Vector CameraRecord 14) : (s.setCameras v).slots = s.slots := rfl
@[simp] theorem State.setCameras_pixels (s : State) (v : Vector CameraRecord 14) : (s.setCameras v).pixels = s.pixels := rfl
@[simp] theorem State.setCameras_cameras (s : State) (v : Vector CameraRecord 14) : (s.setCameras v).cameras = v := rfl
@[simp] theorem State.setCameras_controls (s : State) (v : Vector CameraRecord 14) : (s.setCameras v).controls = s.controls := rfl
@[simp] theorem State.setCameras_doors (s : State) (v : Vector CameraRecord 14) : (s.setCameras v).doors = s.doors := rfl
@[simp] theorem State.setCameras_screenA (s : State) (v : Vector CameraRecord 14) : (s.setCameras v).screenA = s.screenA := rfl
@[simp] theorem State.setCameras_screenB (s : State) (v : Vector CameraRecord 14) : (s.setCameras v).screenB = s.screenB := rfl
@[simp] theorem State.setCameras_layouts (s : State) (v : Vector CameraRecord 14) : (s.setCameras v).layouts = s.layouts := rfl
@[simp] theorem State.setCameras_soil (s : State) (v : Vector CameraRecord 14) : (s.setCameras v).soil = s.soil := rfl
@[simp] theorem State.setCameras_clips (s : State) (v : Vector CameraRecord 14) : (s.setCameras v).clips = s.clips := rfl
@[simp] theorem State.setCameras_exporter (s : State) (v : Vector CameraRecord 14) : (s.setCameras v).exporter = s.exporter := rfl
@[simp] theorem State.setCameras_link (s : State) (v : Vector CameraRecord 14) : (s.setCameras v).link = s.link := rfl

@[simp] theorem State.setControls_pending (s : State) (v : Vector ControlRecord 14) : (s.setControls v).pending = s.pending := rfl
@[simp] theorem State.setControls_elapsed (s : State) (v : Vector ControlRecord 14) : (s.setControls v).elapsed = s.elapsed := rfl
@[simp] theorem State.setControls_pins (s : State) (v : Vector ControlRecord 14) : (s.setControls v).pins = s.pins := rfl
@[simp] theorem State.setControls_slots (s : State) (v : Vector ControlRecord 14) : (s.setControls v).slots = s.slots := rfl
@[simp] theorem State.setControls_pixels (s : State) (v : Vector ControlRecord 14) : (s.setControls v).pixels = s.pixels := rfl
@[simp] theorem State.setControls_cameras (s : State) (v : Vector ControlRecord 14) : (s.setControls v).cameras = s.cameras := rfl
@[simp] theorem State.setControls_controls (s : State) (v : Vector ControlRecord 14) : (s.setControls v).controls = v := rfl
@[simp] theorem State.setControls_doors (s : State) (v : Vector ControlRecord 14) : (s.setControls v).doors = s.doors := rfl
@[simp] theorem State.setControls_screenA (s : State) (v : Vector ControlRecord 14) : (s.setControls v).screenA = s.screenA := rfl
@[simp] theorem State.setControls_screenB (s : State) (v : Vector ControlRecord 14) : (s.setControls v).screenB = s.screenB := rfl
@[simp] theorem State.setControls_layouts (s : State) (v : Vector ControlRecord 14) : (s.setControls v).layouts = s.layouts := rfl
@[simp] theorem State.setControls_soil (s : State) (v : Vector ControlRecord 14) : (s.setControls v).soil = s.soil := rfl
@[simp] theorem State.setControls_clips (s : State) (v : Vector ControlRecord 14) : (s.setControls v).clips = s.clips := rfl
@[simp] theorem State.setControls_exporter (s : State) (v : Vector ControlRecord 14) : (s.setControls v).exporter = s.exporter := rfl
@[simp] theorem State.setControls_link (s : State) (v : Vector ControlRecord 14) : (s.setControls v).link = s.link := rfl

@[simp] theorem State.setCam_pending (s : State) (c : Cam) (r : CameraRecord) : (s.setCam c r).pending = s.pending := rfl
@[simp] theorem State.setCam_elapsed (s : State) (c : Cam) (r : CameraRecord) : (s.setCam c r).elapsed = s.elapsed := rfl
@[simp] theorem State.setCam_pins (s : State) (c : Cam) (r : CameraRecord) : (s.setCam c r).pins = s.pins := rfl
@[simp] theorem State.setCam_slots (s : State) (c : Cam) (r : CameraRecord) : (s.setCam c r).slots = s.slots := rfl
@[simp] theorem State.setCam_pixels (s : State) (c : Cam) (r : CameraRecord) : (s.setCam c r).pixels = s.pixels := rfl
@[simp] theorem State.setCam_controls (s : State) (c : Cam) (r : CameraRecord) : (s.setCam c r).controls = s.controls := rfl
@[simp] theorem State.setCam_doors (s : State) (c : Cam) (r : CameraRecord) : (s.setCam c r).doors = s.doors := rfl
@[simp] theorem State.setCam_screenA (s : State) (c : Cam) (r : CameraRecord) : (s.setCam c r).screenA = s.screenA := rfl
@[simp] theorem State.setCam_screenB (s : State) (c : Cam) (r : CameraRecord) : (s.setCam c r).screenB = s.screenB := rfl
@[simp] theorem State.setCam_layouts (s : State) (c : Cam) (r : CameraRecord) : (s.setCam c r).layouts = s.layouts := rfl
@[simp] theorem State.setCam_soil (s : State) (c : Cam) (r : CameraRecord) : (s.setCam c r).soil = s.soil := rfl
@[simp] theorem State.setCam_clips (s : State) (c : Cam) (r : CameraRecord) : (s.setCam c r).clips = s.clips := rfl
@[simp] theorem State.setCam_exporter (s : State) (c : Cam) (r : CameraRecord) : (s.setCam c r).exporter = s.exporter := rfl
@[simp] theorem State.setCam_link (s : State) (c : Cam) (r : CameraRecord) : (s.setCam c r).link = s.link := rfl

@[simp] theorem State.setCtl_pending (s : State) (c : Cam) (r : ControlRecord) : (s.setCtl c r).pending = s.pending := rfl
@[simp] theorem State.setCtl_elapsed (s : State) (c : Cam) (r : ControlRecord) : (s.setCtl c r).elapsed = s.elapsed := rfl
@[simp] theorem State.setCtl_pins (s : State) (c : Cam) (r : ControlRecord) : (s.setCtl c r).pins = s.pins := rfl
@[simp] theorem State.setCtl_slots (s : State) (c : Cam) (r : ControlRecord) : (s.setCtl c r).slots = s.slots := rfl
@[simp] theorem State.setCtl_pixels (s : State) (c : Cam) (r : ControlRecord) : (s.setCtl c r).pixels = s.pixels := rfl
@[simp] theorem State.setCtl_cameras (s : State) (c : Cam) (r : ControlRecord) : (s.setCtl c r).cameras = s.cameras := rfl
@[simp] theorem State.setCtl_doors (s : State) (c : Cam) (r : ControlRecord) : (s.setCtl c r).doors = s.doors := rfl
@[simp] theorem State.setCtl_screenA (s : State) (c : Cam) (r : ControlRecord) : (s.setCtl c r).screenA = s.screenA := rfl
@[simp] theorem State.setCtl_screenB (s : State) (c : Cam) (r : ControlRecord) : (s.setCtl c r).screenB = s.screenB := rfl
@[simp] theorem State.setCtl_layouts (s : State) (c : Cam) (r : ControlRecord) : (s.setCtl c r).layouts = s.layouts := rfl
@[simp] theorem State.setCtl_soil (s : State) (c : Cam) (r : ControlRecord) : (s.setCtl c r).soil = s.soil := rfl
@[simp] theorem State.setCtl_clips (s : State) (c : Cam) (r : ControlRecord) : (s.setCtl c r).clips = s.clips := rfl
@[simp] theorem State.setCtl_exporter (s : State) (c : Cam) (r : ControlRecord) : (s.setCtl c r).exporter = s.exporter := rfl
@[simp] theorem State.setCtl_link (s : State) (c : Cam) (r : ControlRecord) : (s.setCtl c r).link = s.link := rfl

@[simp] theorem State.setSoilOf_pending (s : State) (c : Cam) (r : SoilRecord) : (s.setSoilOf c r).pending = s.pending := rfl
@[simp] theorem State.setSoilOf_elapsed (s : State) (c : Cam) (r : SoilRecord) : (s.setSoilOf c r).elapsed = s.elapsed := rfl
@[simp] theorem State.setSoilOf_pins (s : State) (c : Cam) (r : SoilRecord) : (s.setSoilOf c r).pins = s.pins := rfl
@[simp] theorem State.setSoilOf_slots (s : State) (c : Cam) (r : SoilRecord) : (s.setSoilOf c r).slots = s.slots := rfl
@[simp] theorem State.setSoilOf_pixels (s : State) (c : Cam) (r : SoilRecord) : (s.setSoilOf c r).pixels = s.pixels := rfl
@[simp] theorem State.setSoilOf_cameras (s : State) (c : Cam) (r : SoilRecord) : (s.setSoilOf c r).cameras = s.cameras := rfl
@[simp] theorem State.setSoilOf_controls (s : State) (c : Cam) (r : SoilRecord) : (s.setSoilOf c r).controls = s.controls := rfl
@[simp] theorem State.setSoilOf_doors (s : State) (c : Cam) (r : SoilRecord) : (s.setSoilOf c r).doors = s.doors := rfl
@[simp] theorem State.setSoilOf_screenA (s : State) (c : Cam) (r : SoilRecord) : (s.setSoilOf c r).screenA = s.screenA := rfl
@[simp] theorem State.setSoilOf_screenB (s : State) (c : Cam) (r : SoilRecord) : (s.setSoilOf c r).screenB = s.screenB := rfl
@[simp] theorem State.setSoilOf_layouts (s : State) (c : Cam) (r : SoilRecord) : (s.setSoilOf c r).layouts = s.layouts := rfl
@[simp] theorem State.setSoilOf_clips (s : State) (c : Cam) (r : SoilRecord) : (s.setSoilOf c r).clips = s.clips := rfl
@[simp] theorem State.setSoilOf_exporter (s : State) (c : Cam) (r : SoilRecord) : (s.setSoilOf c r).exporter = s.exporter := rfl
@[simp] theorem State.setSoilOf_link (s : State) (c : Cam) (r : SoilRecord) : (s.setSoilOf c r).link = s.link := rfl

@[simp] theorem State.setClip_pending (s : State) (k : ClipId) (r : Option Clip) : (s.setClip k r).pending = s.pending := rfl
@[simp] theorem State.setClip_elapsed (s : State) (k : ClipId) (r : Option Clip) : (s.setClip k r).elapsed = s.elapsed := rfl
@[simp] theorem State.setClip_pins (s : State) (k : ClipId) (r : Option Clip) : (s.setClip k r).pins = s.pins := rfl
@[simp] theorem State.setClip_slots (s : State) (k : ClipId) (r : Option Clip) : (s.setClip k r).slots = s.slots := rfl
@[simp] theorem State.setClip_pixels (s : State) (k : ClipId) (r : Option Clip) : (s.setClip k r).pixels = s.pixels := rfl
@[simp] theorem State.setClip_cameras (s : State) (k : ClipId) (r : Option Clip) : (s.setClip k r).cameras = s.cameras := rfl
@[simp] theorem State.setClip_controls (s : State) (k : ClipId) (r : Option Clip) : (s.setClip k r).controls = s.controls := rfl
@[simp] theorem State.setClip_doors (s : State) (k : ClipId) (r : Option Clip) : (s.setClip k r).doors = s.doors := rfl
@[simp] theorem State.setClip_screenA (s : State) (k : ClipId) (r : Option Clip) : (s.setClip k r).screenA = s.screenA := rfl
@[simp] theorem State.setClip_screenB (s : State) (k : ClipId) (r : Option Clip) : (s.setClip k r).screenB = s.screenB := rfl
@[simp] theorem State.setClip_layouts (s : State) (k : ClipId) (r : Option Clip) : (s.setClip k r).layouts = s.layouts := rfl
@[simp] theorem State.setClip_soil (s : State) (k : ClipId) (r : Option Clip) : (s.setClip k r).soil = s.soil := rfl
@[simp] theorem State.setClip_exporter (s : State) (k : ClipId) (r : Option Clip) : (s.setClip k r).exporter = s.exporter := rfl
@[simp] theorem State.setClip_link (s : State) (k : ClipId) (r : Option Clip) : (s.setClip k r).link = s.link := rfl

@[simp] theorem State.setComposer_pending (s : State) (i : ScreenId) (c : Composer) : (s.setComposer i c).pending = s.pending := by cases i <;> rfl
@[simp] theorem State.setComposer_elapsed (s : State) (i : ScreenId) (c : Composer) : (s.setComposer i c).elapsed = s.elapsed := by cases i <;> rfl
@[simp] theorem State.setComposer_pins (s : State) (i : ScreenId) (c : Composer) : (s.setComposer i c).pins = s.pins := by cases i <;> rfl
@[simp] theorem State.setComposer_slots (s : State) (i : ScreenId) (c : Composer) : (s.setComposer i c).slots = s.slots := by cases i <;> rfl
@[simp] theorem State.setComposer_pixels (s : State) (i : ScreenId) (c : Composer) : (s.setComposer i c).pixels = s.pixels := by cases i <;> rfl
@[simp] theorem State.setComposer_cameras (s : State) (i : ScreenId) (c : Composer) : (s.setComposer i c).cameras = s.cameras := by cases i <;> rfl
@[simp] theorem State.setComposer_controls (s : State) (i : ScreenId) (c : Composer) : (s.setComposer i c).controls = s.controls := by cases i <;> rfl
@[simp] theorem State.setComposer_doors (s : State) (i : ScreenId) (c : Composer) : (s.setComposer i c).doors = s.doors := by cases i <;> rfl
@[simp] theorem State.setComposer_layouts (s : State) (i : ScreenId) (c : Composer) : (s.setComposer i c).layouts = s.layouts := by cases i <;> rfl
@[simp] theorem State.setComposer_soil (s : State) (i : ScreenId) (c : Composer) : (s.setComposer i c).soil = s.soil := by cases i <;> rfl
@[simp] theorem State.setComposer_clips (s : State) (i : ScreenId) (c : Composer) : (s.setComposer i c).clips = s.clips := by cases i <;> rfl
@[simp] theorem State.setComposer_exporter (s : State) (i : ScreenId) (c : Composer) : (s.setComposer i c).exporter = s.exporter := by cases i <;> rfl
@[simp] theorem State.setComposer_link (s : State) (i : ScreenId) (c : Composer) : (s.setComposer i c).link = s.link := by cases i <;> rfl

@[simp] theorem State.setScreen_pending (s : State) (i : ScreenId) (r : ScreenRecord) : (s.setScreen i r).pending = s.pending := by cases i <;> rfl
@[simp] theorem State.setScreen_elapsed (s : State) (i : ScreenId) (r : ScreenRecord) : (s.setScreen i r).elapsed = s.elapsed := by cases i <;> rfl
@[simp] theorem State.setScreen_pins (s : State) (i : ScreenId) (r : ScreenRecord) : (s.setScreen i r).pins = s.pins := by cases i <;> rfl
@[simp] theorem State.setScreen_slots (s : State) (i : ScreenId) (r : ScreenRecord) : (s.setScreen i r).slots = s.slots := by cases i <;> rfl
@[simp] theorem State.setScreen_pixels (s : State) (i : ScreenId) (r : ScreenRecord) : (s.setScreen i r).pixels = s.pixels := by cases i <;> rfl
@[simp] theorem State.setScreen_cameras (s : State) (i : ScreenId) (r : ScreenRecord) : (s.setScreen i r).cameras = s.cameras := by cases i <;> rfl
@[simp] theorem State.setScreen_controls (s : State) (i : ScreenId) (r : ScreenRecord) : (s.setScreen i r).controls = s.controls := by cases i <;> rfl
@[simp] theorem State.setScreen_doors (s : State) (i : ScreenId) (r : ScreenRecord) : (s.setScreen i r).doors = s.doors := by cases i <;> rfl
@[simp] theorem State.setScreen_layouts (s : State) (i : ScreenId) (r : ScreenRecord) : (s.setScreen i r).layouts = s.layouts := by cases i <;> rfl
@[simp] theorem State.setScreen_soil (s : State) (i : ScreenId) (r : ScreenRecord) : (s.setScreen i r).soil = s.soil := by cases i <;> rfl
@[simp] theorem State.setScreen_clips (s : State) (i : ScreenId) (r : ScreenRecord) : (s.setScreen i r).clips = s.clips := by cases i <;> rfl
@[simp] theorem State.setScreen_exporter (s : State) (i : ScreenId) (r : ScreenRecord) : (s.setScreen i r).exporter = s.exporter := by cases i <;> rfl
@[simp] theorem State.setScreen_link (s : State) (i : ScreenId) (r : ScreenRecord) : (s.setScreen i r).link = s.link := by cases i <;> rfl

@[simp] theorem State.setSplit_pending (s : State) (i : ScreenId) (r : SplitRecord) : (s.setSplit i r).pending = s.pending := by cases i <;> rfl
@[simp] theorem State.setSplit_elapsed (s : State) (i : ScreenId) (r : SplitRecord) : (s.setSplit i r).elapsed = s.elapsed := by cases i <;> rfl
@[simp] theorem State.setSplit_pins (s : State) (i : ScreenId) (r : SplitRecord) : (s.setSplit i r).pins = s.pins := by cases i <;> rfl
@[simp] theorem State.setSplit_slots (s : State) (i : ScreenId) (r : SplitRecord) : (s.setSplit i r).slots = s.slots := by cases i <;> rfl
@[simp] theorem State.setSplit_pixels (s : State) (i : ScreenId) (r : SplitRecord) : (s.setSplit i r).pixels = s.pixels := by cases i <;> rfl
@[simp] theorem State.setSplit_cameras (s : State) (i : ScreenId) (r : SplitRecord) : (s.setSplit i r).cameras = s.cameras := by cases i <;> rfl
@[simp] theorem State.setSplit_controls (s : State) (i : ScreenId) (r : SplitRecord) : (s.setSplit i r).controls = s.controls := by cases i <;> rfl
@[simp] theorem State.setSplit_doors (s : State) (i : ScreenId) (r : SplitRecord) : (s.setSplit i r).doors = s.doors := by cases i <;> rfl
@[simp] theorem State.setSplit_layouts (s : State) (i : ScreenId) (r : SplitRecord) : (s.setSplit i r).layouts = s.layouts := by cases i <;> rfl
@[simp] theorem State.setSplit_soil (s : State) (i : ScreenId) (r : SplitRecord) : (s.setSplit i r).soil = s.soil := by cases i <;> rfl
@[simp] theorem State.setSplit_clips (s : State) (i : ScreenId) (r : SplitRecord) : (s.setSplit i r).clips = s.clips := by cases i <;> rfl
@[simp] theorem State.setSplit_exporter (s : State) (i : ScreenId) (r : SplitRecord) : (s.setSplit i r).exporter = s.exporter := by cases i <;> rfl
@[simp] theorem State.setSplit_link (s : State) (i : ScreenId) (r : SplitRecord) : (s.setSplit i r).link = s.link := by cases i <;> rfl

/-- The record written is the record read. -/
@[simp] theorem State.setCam_cam (s : State) (c : Cam) (r : CameraRecord) : (s.setCam c r).cam c = r := by
  simp [State.cam, State.setCam]

/-- The other cameras' records are unchanged. -/
theorem State.setCam_cam_ne (s : State) (c d : Cam) (r : CameraRecord) (h : c ≠ d) : (s.setCam c r).cam d = s.cam d := by
  have h' : c.val ≠ d.val := fun e => h (Fin.ext e)
  simp [State.cam, State.setCam, h']

@[simp] theorem State.setCtl_ctl (s : State) (c : Cam) (r : ControlRecord) : (s.setCtl c r).ctl c = r := by
  simp [State.ctl, State.setCtl]

theorem State.setCtl_ctl_ne (s : State) (c d : Cam) (r : ControlRecord) (h : c ≠ d) : (s.setCtl c r).ctl d = s.ctl d := by
  have h' : c.val ≠ d.val := fun e => h (Fin.ext e)
  simp [State.ctl, State.setCtl, h']

@[simp] theorem State.setSoilOf_soilOf (s : State) (c : Cam) (r : SoilRecord) : (s.setSoilOf c r).soilOf c = r := by
  simp [State.soilOf, State.setSoilOf]

theorem State.setSoilOf_soilOf_ne (s : State) (c d : Cam) (r : SoilRecord) (h : c ≠ d) :
    (s.setSoilOf c r).soilOf d = s.soilOf d := by
  have h' : c.val ≠ d.val := fun e => h (Fin.ext e)
  simp [State.soilOf, State.setSoilOf, h']

@[simp] theorem State.setClip_clip (s : State) (k : ClipId) (r : Option Clip) : (s.setClip k r).clip k = r := by
  simp [State.clip, State.setClip]

theorem State.setClip_clip_ne (s : State) (k j : ClipId) (r : Option Clip) (h : k ≠ j) :
    (s.setClip k r).clip j = s.clip j := by
  have h' : k.val ≠ j.val := fun e => h (Fin.ext e)
  simp [State.clip, State.setClip, h']

@[simp] theorem State.setScreen_screen (s : State) (i : ScreenId) (r : ScreenRecord) : (s.setScreen i r).screen i = r := by
  cases i <;> rfl

theorem State.setScreen_screen_ne (s : State) (i j : ScreenId) (r : ScreenRecord) (h : i ≠ j) :
    (s.setScreen i r).screen j = s.screen j := by
  cases i <;> cases j <;> first | rfl | exact absurd rfl h

@[simp] theorem State.setScreen_split (s : State) (i j : ScreenId) (r : ScreenRecord) :
    (s.setScreen i r).split j = s.split j := by
  cases i <;> cases j <;> rfl

@[simp] theorem State.setSplit_split (s : State) (i : ScreenId) (r : SplitRecord) : (s.setSplit i r).split i = r := by
  cases i <;> rfl

theorem State.setSplit_split_ne (s : State) (i j : ScreenId) (r : SplitRecord) (h : i ≠ j) :
    (s.setSplit i r).split j = s.split j := by
  cases i <;> cases j <;> first | rfl | exact absurd rfl h

@[simp] theorem State.setSplit_screen (s : State) (i j : ScreenId) (r : SplitRecord) :
    (s.setSplit i r).screen j = s.screen j := by
  cases i <;> cases j <;> rfl

/-- An update with the value held changes nothing. -/
@[simp] theorem State.setLink_self (s : State) : s.setLink s.link = s := rfl

/-- Of two updates of the link controller the later stands. -/
@[simp] theorem State.setLink_setLink (s : State) (l m : LinkController) : (s.setLink l).setLink m = s.setLink m := rfl

@[simp] theorem State.setSlots_setSlots (s : State) (l m : SlotManager) : (s.setSlots l).setSlots m = s.setSlots m := rfl

@[simp] theorem State.setSlots_self (s : State) : s.setSlots s.slots = s := rfl

end Sys2Proof.Machine
end

