-- ==== Sys2Proof/Laws/Rings.lean ====
section
/-! SUPPORT. The account of each camera's ring: no request changes its ring size and deficit entries together, but those that
establish and dissolve it (R6, R7, R20). What every request keeps. -/

-- One proof at a time: a thread for each at once is more than the memory limit lets Lean have.
set_option Elab.async false

namespace Sys2Proof.Machine.SlotManager

/-! ## The account of a ring -/

/-- The number of slots in a ring's three lists (R5). -/
def ringLength (r : Ring) : Nat := r.ready.length + r.blank.length + (if r.filling.isSome then 1 else 0)

/-- The ring size of a camera with a ring, plus its entries in the deficit queue (R6). -/
def depthOf (m : SlotManager) (c : Cam) : Option Nat := (m.ring c).map fun r => ringLength r + m.deficit.count c

theorem depthOf_none {m : SlotManager} {c : Cam} (h : m.ring c = none) : m.depthOf c = none := by simp [depthOf, h]

theorem depthOf_some {m : SlotManager} {c : Cam} {r : Ring} (h : m.ring c = some r) :
    m.depthOf c = some (ringLength r + m.deficit.count c) := by simp [depthOf, h]

theorem ringSize_add_deficitOf {m : SlotManager} {c : Cam} {n : Nat} (h : m.depthOf c = some n) :
    m.ringSize c + m.deficitOf c = n := by
  unfold depthOf at h
  cases e : m.ring c with
  | none => rw [e] at h; cases h
  | some r =>
    rw [e] at h
    simp only [ringSize, e, deficitOf, ringLength] at h ⊢
    exact Option.some.inj h

@[simp] theorem depthOf_setSlot (m : SlotManager) (i : SlotNo) (x : SlotRecord) (d : Cam) :
    (m.setSlot i x).depthOf d = m.depthOf d := rfl
@[simp] theorem depthOf_setPlace (m : SlotManager) (i : SlotNo) (x : Place) (d : Cam) :
    (m.setPlace i x).depthOf d = m.depthOf d := rfl

theorem depthOf_setRing_ne (m : SlotManager) (c d : Cam) (x : Option Ring) (h : d ≠ c) :
    (m.setRing c x).depthOf d = m.depthOf d := by
  unfold depthOf
  rw [ring_setRing_ne _ _ _ _ h]
  rfl

/-- A ring of another length. -/
theorem depthOf_setRing (m : SlotManager) (c : Cam) (x : Ring) :
    (m.setRing c (some x)).depthOf c = some (ringLength x + m.deficit.count c) := by
  unfold depthOf
  rw [ring_setRing]
  rfl

/-- A ring of the same length. -/
theorem depthOf_setRing_same {m : SlotManager} {c : Cam} {r x : Ring} (e : m.ring c = some r) (h : ringLength x = ringLength r)
    (d : Cam) : (m.setRing c (some x)).depthOf d = m.depthOf d := by
  by_cases hd : d = c
  · subst hd; rw [depthOf_setRing, depthOf_some e, h]
  · exact depthOf_setRing_ne _ _ _ _ hd

theorem depthOf_joinBlank (m : SlotManager) (c d : Cam) (i : SlotNo) :
    (m.joinBlank c i).depthOf d = if d = c then (m.depthOf d).map (· + 1) else m.depthOf d := by
  unfold joinBlank
  dsimp only
  split
  · rename_i e
    rw [ring_setSlot] at e
    rw [depthOf_setSlot]
    split
    · rename_i h; subst h; rw [depthOf_none e]; rfl
    · rfl
  · rename_i r e
    rw [ring_setSlot] at e
    split
    · rename_i h; subst h
      rw [depthOf_setRing, depthOf_some e]
      simp only [ringLength, List.length_append, List.length_cons, List.length_nil, Option.map_some, setSlot, Option.some.injEq]
      omega
    · rename_i h
      rw [depthOf_setRing_ne _ _ _ _ h, depthOf_setSlot]

/-- The account of a deficit queue that has lost its head. -/
theorem depthOf_deficit {m : SlotManager} {c : Cam} {rest : List Cam} (h : m.deficit = c :: rest) (d : Cam) :
    m.depthOf d = if d = c then (({ m with deficit := rest } : SlotManager).depthOf d).map (· + 1)
      else ({ m with deficit := rest } : SlotManager).depthOf d := by
  unfold depthOf
  change _ = if d = c then ((m.ring d).map fun r => ringLength r + rest.count d).map (· + 1)
    else (m.ring d).map fun r => ringLength r + rest.count d
  rw [h, List.count_cons]
  by_cases e : d = c
  · subst e
    cases m.ring d <;> simp [Nat.add_assoc]
  · have : (c == d) = false := by simpa using fun x => e x.symm
    simp [this, e]

theorem depthOf_giveBack (m : SlotManager) (i : SlotNo) (d : Cam) : (m.giveBack i).depthOf d = m.depthOf d := by
  unfold giveBack
  split
  · rename_i c rest h
    rw [depthOf_joinBlank, depthOf_deficit h d]
  · rfl

theorem depthOf_giveBackAll (l : List SlotNo) : ∀ (m : SlotManager) (d : Cam), (m.giveBackAll l).depthOf d = m.depthOf d := by
  induction l with
  | nil => exact fun _ _ => rfl
  | cons i l ih => exact fun m d => (ih (m.giveBack i) d).trans (depthOf_giveBack m i d)

theorem depthOf_leave (m : SlotManager) (i : SlotNo) (d : Cam) : (m.leave i).depthOf d = m.depthOf d := by
  unfold leave
  split
  · exact depthOf_giveBack m i d
  · unfold retire; split <;> rfl

theorem depthOf_leaveAll (l : List SlotNo) : ∀ (m : SlotManager) (d : Cam), (l.foldl leave m).depthOf d = m.depthOf d := by
  induction l with
  | nil => exact fun _ _ => rfl
  | cons i l ih => exact fun m d => (ih (m.leave i) d).trans (depthOf_leave m i d)

theorem depthOf_discard (m : SlotManager) (c d : Cam) : (m.discard c).depthOf d = m.depthOf d := by
  unfold discard
  split
  · rfl
  · rename_i r e
    split
    · rfl
    · rename_i i ei
      rw [depthOf_joinBlank]
      split
      · rename_i h; subst h
        rw [depthOf_setRing, depthOf_some e]
        simp only [ringLength, ei, Option.map_some, Option.isSome_some, Option.isSome_none, Bool.false_eq_true, if_false, if_true,
          Option.some.injEq]
        omega
      · rename_i h; exact depthOf_setRing_ne _ _ _ _ h

theorem depthOf_take (m : SlotManager) (c : Cam) (f : FrameFields) (d : Cam) : (m.take c f).1.depthOf d = m.depthOf d := by
  have hd := depthOf_discard m c d
  unfold take
  dsimp only
  split
  · exact hd
  · rename_i r e
    have hf := discard_filling m c r e
    split
    · rename_i i rest eb
      rw [depthOf_setSlot, depthOf_setRing_same e ?_, hd]
      simp only [ringLength, eb, hf, List.length_cons, Option.isSome_some, Option.isSome_none, Bool.false_eq_true, if_false, if_true]
      omega
    · split
      · rename_i i ei
        have hi : i ∈ r.ready := List.dropLast_subset _ (List.mem_of_find?_eq_some ei)
        have hl := List.length_erase_of_mem hi
        have hp := List.length_pos_of_mem hi
        rw [depthOf_setSlot, depthOf_setRing_same e ?_, hd]
        simp only [ringLength, hf, hl, Option.isSome_some, Option.isSome_none, Bool.false_eq_true, if_false, if_true]
        omega
      · exact hd

/-- A claimed slot that moves into its clip takes nothing from the account of its ring: a BLANK slot or a deficit entry replaces
it (R15). -/
theorem depthOf_moveIntoClip {m : SlotManager} {c c' : Cam} {i : SlotNo} {r : Ring} {f : FrameFields} {k : ClipId}
    (e : m.ring c = some r) (hi : i ∈ r.ready) (hp : (m.slot i).place = .ready c' f (some k)) (d : Cam) :
    (m.moveIntoClip c i).depthOf d = m.depthOf d := by
  have out : m.moveOut c i = (m.setPlace i (.clip c' f k)).setRing c (some { r with ready := r.ready.erase i }) := by
    unfold moveOut
    rw [hp]
    dsimp only
    rw [show (m.setPlace i (.clip c' f k)).ring c = some r from e]
  have hl := List.length_erase_of_mem hi
  have hpos := List.length_pos_of_mem hi
  have short : (m.moveOut c i).depthOf d = if d = c then (m.depthOf d).map (· - 1) else m.depthOf d := by
    rw [out]
    split
    · rename_i h; subst h
      rw [depthOf_setRing, depthOf_some e]
      simp only [ringLength, hl, Option.map_some, Option.some.injEq, setPlace, setSlot]
      omega
    · rename_i h; exact depthOf_setRing_ne _ _ _ _ h
  have pos : ∀ n, m.depthOf c = some n → n - 1 + 1 = n := by
    intro n hn
    rw [depthOf_some e] at hn
    have := Option.some.inj hn
    simp only [ringLength] at this
    omega
  have again : (if d = c then ((m.moveOut c i).depthOf d).map (· + 1) else (m.moveOut c i).depthOf d) = m.depthOf d := by
    rw [short]
    by_cases h : d = c
    · subst h
      simp only [if_true, depthOf_some e, Option.map_some, Option.some.injEq]
      exact pos _ (depthOf_some e)
    · simp only [if_neg h]
  unfold moveIntoClip replace
  split
  · rename_i j rest ef
    rw [depthOf_joinBlank]
    exact again
  · rw [← again]
    unfold depthOf
    change ((m.moveOut c i).ring d).map (fun r => ringLength r + ((m.moveOut c i).deficit ++ [c]).count d) = _
    rw [List.count_append]
    split
    · rename_i h; subst h
      cases (m.moveOut d i).ring d <;> simp [Nat.add_assoc]
    · rename_i h
      have : List.count d [c] = 0 := List.count_eq_zero.2 (by simpa using h)
      simp [this]

theorem depthOf_publish (m : SlotManager) (c d : Cam) : (m.publish c).1.depthOf d = m.depthOf d := by
  unfold publish
  split
  · rfl
  · rename_i r e
    split
    · rfl
    · rename_i i ei
      split
      · rename_i c0 f ep
        have joined : ((m.setRing c (some { r with ready := r.ready ++ [i], filling := none })).setPlace i
            (.ready c f none)).depthOf d = m.depthOf d := by
          rw [depthOf_setPlace, depthOf_setRing_same e]
          simp only [ringLength, ei, List.length_append, List.length_cons, List.length_nil, Option.isSome_some, Option.isSome_none,
            Bool.false_eq_true, if_false, if_true]
          omega
        dsimp only
        split
        · exact joined
        · rename_i old eo
          split
          · exact joined
          · rename_i v ev
            obtain ⟨g, hg⟩ : ∃ g : Cam × FrameFields × ClipId, (((m.setRing c (some { r with ready := r.ready ++ [i], filling := none })).setPlace i
                (.ready c f none)).slot old).place = .ready g.1 g.2.1 (some g.2.2) := by
              unfold moveNotice at ev
              split at ev
              · rename_i c1 f1 k1 h; exact ⟨(c1, f1, k1), h⟩
              · cases ev
            rw [← joined]
            refine depthOf_moveIntoClip (r := { r with ready := r.ready ++ [i], filling := none }) ?_ ?_ hg d
            · unfold setPlace
              rw [ring_setSlot, ring_setRing]
            · exact List.mem_append_left _ (List.mem_of_getLast? eo)
      · rfl

theorem depthOf_pinNewest (m : SlotManager) (c : Cam) (x : Reader) (d : Cam) : (m.pinNewest c x).1.depthOf d = m.depthOf d := by
  unfold pinNewest; split <;> rfl

theorem depthOf_unpin (m : SlotManager) (i : SlotNo) (x : Reader) (d : Cam) : (m.unpin i x).depthOf d = m.depthOf d := by
  unfold unpin
  dsimp only
  split
  · split
    · split
      · rw [depthOf_giveBack, depthOf_setSlot]
      · rfl
    · rfl
  · rfl

theorem depthOf_claim {m : SlotManager} (h : SlotsAccounted m) (k : ClipId) (c : Cam) (i : SlotNo) (q : Word32) (d : Cam) :
    (m.claim k c i q).1.depthOf d = m.depthOf d := by
  unfold claim
  split
  · rename_i c' f old ep
    split
    · rename_i hc
      split
      · rfl
      · split
        · dsimp only
          split
          · rfl
          · have hm : i ∈ m.members (.ready c) := (h.placed i (.ready c)).1 (by rw [ep, hc.1]; rfl)
            cases e : m.ring c with
            | none => simp [members, e] at hm
            | some r =>
              rw [members_ready e] at hm
              exact depthOf_moveIntoClip (m := { m.setPlace i (.ready c' f (some k)) with holdCount := m.holdCount + 1 })
                (c' := c') (f := f) (k := k) e hm (by
                  change ((m.setPlace i _).slot i).place = _
                  unfold setPlace
                  rw [slot_setSlot]) d
        · rfl
    · rfl
  · rfl

theorem depthOf_releaseOne (m : SlotManager) (k : ClipId) (i : SlotNo) (d : Cam) : (m.releaseOne k i).depthOf d = m.depthOf d := by
  unfold releaseOne
  split
  · split
    · rw [depthOf_leave]; rfl
    · rfl
  · split <;> rfl
  · rfl

theorem depthOf_release (k : ClipId) (l : List SlotNo) : ∀ (m : SlotManager) (d : Cam), (m.release k l).depthOf d = m.depthOf d := by
  induction l with
  | nil => exact fun _ _ => rfl
  | cons i l ih => exact fun m d => (ih (m.releaseOne k i) d).trans (depthOf_releaseOne m k i d)

theorem depthOf_joinAll (c d : Cam) (l : List SlotNo) : ∀ m : SlotManager,
    (l.foldl (fun m i => m.joinBlank c i) m).depthOf d = if d = c then (m.depthOf d).map (· + l.length) else m.depthOf d := by
  induction l with
  | nil => intro m; split <;> simp
  | cons i l ih =>
    intro m
    rw [List.foldl_cons, ih, depthOf_joinBlank]
    split
    · cases m.depthOf d <;> simp; omega
    · rfl

/-- A ring is established with its depth, and no other account changes (R7). -/
theorem depthOf_establish {m n : SlotManager} (h : SlotsAccounted m) {c : Cam} {depth : Nat} (e : m.establish c depth = some n)
    (hc : m.ring c = none) (d : Cam) : n.depthOf d = if d = c then some depth else m.depthOf d := by
  unfold establish at e
  rw [hc] at e
  dsimp only at e
  split at e
  · rename_i hl
    cases e
    rw [depthOf_joinAll]
    split
    · rename_i hd; subst hd
      rw [depthOf_setRing]
      have : m.deficit.count d = 0 := List.count_eq_zero.2 fun hm => h.deficit d hm hc
      simp only [ringLength, this, Option.map_some, List.length_take, Nat.min_eq_left hl]
      simp
    · rename_i hd; rw [depthOf_setRing_ne _ _ _ _ hd]; rfl
  · cases e

theorem depthOf_moveOut_ne (m : SlotManager) (c d : Cam) (i : SlotNo) (h : d ≠ c) : (m.moveOut c i).depthOf d = m.depthOf d := by
  unfold moveOut
  split
  · dsimp only
    split
    · rfl
    · rw [depthOf_setRing_ne _ _ _ _ h]; rfl
  · rfl

/-- A dissolution ends the camera's ring, and no other account changes (R20). -/
theorem depthOf_dissolve (m : SlotManager) (c d : Cam) :
    (m.dissolve c).1.depthOf d = if d = c then none else m.depthOf d := by
  unfold dissolve
  split
  · rename_i e
    split
    · rename_i h; subst h; exact depthOf_none e
    · rfl
  · dsimp only
    by_cases h : d = c
    · subst h; rw [if_pos rfl]; exact depthOf_none (ring_setRing _ _ _)
    · have hf : ({ m with deficit := m.deficit.filter (· != c) } : SlotManager).depthOf d = m.depthOf d := by
        unfold depthOf
        change (m.ring d).map (fun r => ringLength r + (m.deficit.filter (· != c)).count d) = _
        rw [List.count_filter (by simpa using h)]
      rw [if_neg h, depthOf_setRing_ne _ _ _ _ h, depthOf_leaveAll, depthOf_giveBackAll, depthOf_giveBackAll]
      split
      · exact hf
      · rw [depthOf_moveOut_ne _ _ _ _ h]; exact hf

/-- A dissolution ends the ring. -/
theorem ring_dissolve (m : SlotManager) (c : Cam) : (m.dissolve c).1.ring c = none := by
  unfold dissolve
  split
  · assumption
  · exact ring_setRing _ _ _

/-! ## Slots that return -/

/-- Slots that returned one after another (R4): the first went to the rings in deficit, in the order of the deficit queue, and the
others to the tail of the free pool. -/
structure GivenBack (m t : SlotManager) (l : List SlotNo) : Prop where
  pool    : t.freePool = m.freePool ++ l.drop m.deficit.length
  deficit : t.deficit = m.deficit.drop l.length
  rings   : ∀ d, t.ring d = (m.ring d).map fun x =>
    { x with blank := x.blank ++ ((m.deficit.zip l).filter fun p => decide (p.1 = d)).map (·.2) }
  joined  : ∀ d i, (d, i) ∈ m.deficit.zip l → t.slot i = ⟨.blank d, Holders.none⟩
  freed   : ∀ i ∈ l.drop m.deficit.length, t.slot i = SlotRecord.reset

theorem GivenBack.refl (m : SlotManager) : GivenBack m m [] :=
  ⟨by simp, rfl, fun d => by simp, fun _ _ h => by simp at h, fun _ h => by simp at h⟩

/-- The rings in deficit after the return of a slot. -/
theorem giveBack_rings {m : SlotManager} (h : ∀ d ∈ m.deficit, m.ring d ≠ none) (i : SlotNo) :
    ∀ d ∈ (m.giveBack i).deficit, (m.giveBack i).ring d ≠ none := by
  intro d hd
  have sub : d ∈ m.deficit := by
    unfold giveBack at hd
    split at hd
    · rename_i c rest e
      rw [e]
      refine List.mem_cons_of_mem _ ?_
      unfold joinBlank at hd
      dsimp only at hd
      split at hd <;> exact hd
    · exact hd
  unfold giveBack
  split
  · unfold joinBlank
    dsimp only
    split
    · exact h d sub
    · rename_i c _ _ _ r _
      by_cases e : d = c
      · subst e; rw [ring_setRing]; exact Option.some_ne_none _
      · rw [ring_setRing_ne _ _ _ _ e]; exact h d sub
  · exact h d sub

/-- One slot returns before the others. -/
theorem GivenBack.cons {m t : SlotManager} {i : SlotNo} {l : List SlotNo} (k : GivenBack (m.giveBack i) t l)
    (hs : t.slot i = (m.giveBack i).slot i) (hd : ∀ d ∈ m.deficit, m.ring d ≠ none) : GivenBack m t (i :: l) := by
  cases e : m.deficit with
  | nil =>
    have g := giveBack_nil i e
    have hg : (m.giveBack i).deficit = [] := by rw [g]; exact e
    have hr : ∀ d, (m.giveBack i).ring d = m.ring d := fun d => by rw [g]; rfl
    have hp : (m.giveBack i).freePool = m.freePool ++ [i] := by rw [g]
    have hi : (m.giveBack i).slot i = SlotRecord.reset := by rw [g]; exact slot_setSlot _ _ _
    refine ⟨?_, ?_, fun d => ?_, ?_, ?_⟩
    · rw [k.pool, hp, hg, e]; simp
    · rw [k.deficit, hg, e]; simp
    · rw [k.rings, hr, hg, e]; simp
    · rw [e]; exact fun _ _ h => by simp at h
    · rw [e]
      intro j hj
      simp only [List.length_nil, List.drop_zero, List.mem_cons] at hj
      rcases hj with rfl | hj
      · rw [hs, hi]
      · exact k.freed j (by rw [hg]; exact hj)
  | cons c rest =>
    have g := giveBack_cons i e
    obtain ⟨r, er⟩ := Option.ne_none_iff_exists'.1 (hd c (by rw [e]; exact List.mem_cons_self))
    have hj : m.giveBack i = (({ m with deficit := rest } : SlotManager).setSlot i ⟨.blank c, Holders.none⟩).setRing c
        (some { r with blank := r.blank ++ [i] }) := by
      rw [g]
      unfold joinBlank
      dsimp only
      rw [show (({ m with deficit := rest } : SlotManager).setSlot i ⟨.blank c, Holders.none⟩).ring c = some r from er]
    have hg : (m.giveBack i).deficit = rest := by rw [hj]; rfl
    have hr : ∀ d, (m.giveBack i).ring d = (m.ring d).map fun x => if d = c then { x with blank := x.blank ++ [i] } else x := by
      intro d
      rw [hj]
      by_cases h : d = c
      · subst h; rw [ring_setRing, er]; simp
      · rw [ring_setRing_ne _ _ _ _ h]; simp only [if_neg h]; exact (Option.map_id' (x := m.ring d)).symm
    have hp : (m.giveBack i).freePool = m.freePool := by rw [hj]; rfl
    have hi : (m.giveBack i).slot i = ⟨.blank c, Holders.none⟩ := by
      rw [hj, slot_setRing]; exact slot_setSlot _ _ _
    refine ⟨?_, ?_, fun d => ?_, ?_, ?_⟩
    · rw [k.pool, hp, hg, e]; simp
    · rw [k.deficit, hg, e]; simp
    · rw [k.rings, hr, hg, e, Option.map_map]
      congr 1
      funext x
      simp only [Function.comp_apply, List.zip_cons_cons, List.filter_cons]
      by_cases h : d = c
      · subst h; simp
      · have h' : ¬ c = d := fun x => h x.symm
        simp [h, h']
    · rw [e]
      intro d j hm
      rw [List.zip_cons_cons, List.mem_cons] at hm
      rcases hm with hm | hm
      · cases hm; rw [hs, hi]
      · exact k.joined d j (by rw [hg]; exact hm)
    · rw [e]
      intro j hm
      exact k.freed j (by rw [hg]; simpa using hm)

theorem slot_giveBackAll (l : List SlotNo) : ∀ (m : SlotManager) (j : SlotNo), j ∉ l → (m.giveBackAll l).slot j = m.slot j := by
  induction l with
  | nil => exact fun _ _ _ => rfl
  | cons i l ih =>
    intro m j h
    rw [List.mem_cons, not_or] at h
    exact (ih (m.giveBack i) j h.2).trans (slot_giveBack_ne m i j h.1)

/-- Several slots return before the others. -/
theorem GivenBack.append {t : SlotManager} {b : List SlotNo} (a : List SlotNo) : ∀ {m : SlotManager}, a.Nodup →
    (∀ d ∈ m.deficit, m.ring d ≠ none) → GivenBack (m.giveBackAll a) t b →
    (∀ i ∈ a, t.slot i = (m.giveBackAll a).slot i) → GivenBack m t (a ++ b) := by
  induction a with
  | nil => exact fun _ _ k _ => k
  | cons i a ih =>
    intro m hn hd k hs
    have hn' := List.nodup_cons.1 hn
    refine GivenBack.cons (ih hn'.2 (giveBack_rings hd i) k fun j hj => hs j (List.mem_cons_of_mem _ hj)) ?_ hd
    exact (hs i List.mem_cons_self).trans (slot_giveBackAll a (m.giveBack i) i hn'.1)

/-- READY slots that leave a ring (R20 step 4): those without a pin return, and the others retire. -/
theorem leaveAll_spec (l : List SlotNo) : ∀ {m : SlotManager}, l.Nodup → (∀ d ∈ m.deficit, m.ring d ≠ none) →
    (∀ i ∈ l, ∃ c f k, (m.slot i).place = .ready c f k) →
    GivenBack m (l.foldl leave m) (l.filter fun i => decide ((m.slot i).holders.count = 0)) ∧
    (∀ i ∈ l, (m.slot i).holders.count ≠ 0 → ∀ c f k, (m.slot i).place = .ready c f k →
      (l.foldl leave m).slot i = ⟨.retiring c f, (m.slot i).holders⟩) ∧
    ∀ i, i ∉ l → (l.foldl leave m).slot i = m.slot i := by
  induction l with
  | nil => exact fun _ _ _ => ⟨GivenBack.refl _, fun _ h => by simp at h, fun _ _ => rfl⟩
  | cons i l ih =>
    intro m hn hd hp
    have hn' := List.nodup_cons.1 hn
    have ne : ∀ j ∈ l, j ≠ i := fun j hj e => hn'.1 (e ▸ hj)
    have hs : ∀ j ∈ l, (m.leave i).slot j = m.slot j := fun j hj => slot_leave_ne m i j (ne j hj)
    have hf : (l.filter fun j => decide (((m.leave i).slot j).holders.count = 0))
        = l.filter fun j => decide ((m.slot j).holders.count = 0) := by
      refine List.filter_congr fun j hj => ?_
      rw [hs j hj]
    have hd' : ∀ d ∈ (m.leave i).deficit, (m.leave i).ring d ≠ none := by
      unfold leave
      split
      · exact giveBack_rings hd i
      · unfold retire; split <;> exact hd
    obtain ⟨k, hr, ho⟩ := ih hn'.2 hd' fun j hj => by rw [hs j hj]; exact hp j (List.mem_cons_of_mem _ hj)
    rw [hf] at k
    rw [List.foldl_cons]
    refine ⟨?_, ?_, ?_⟩
    · by_cases hc : (m.slot i).holders.count = 0
      · have hl : m.leave i = m.giveBack i := by unfold leave; rw [if_pos hc]
        rw [List.filter_cons, if_pos (by simpa using hc)]
        rw [hl] at k ho ⊢
        exact k.cons (ho i hn'.1) hd
      · rw [List.filter_cons, if_neg (by simpa using hc)]
        have hl : m.leave i = m.retire i := by unfold leave; rw [if_neg hc]
        rw [hl] at k ⊢
        have same : (m.retire i).freePool = m.freePool ∧ (m.retire i).deficit = m.deficit ∧
            ∀ d, (m.retire i).ring d = m.ring d := by unfold retire; split <;> exact ⟨rfl, rfl, fun _ => rfl⟩
        exact ⟨by rw [k.pool, same.1, same.2.1], by rw [k.deficit, same.2.1], fun d => by rw [k.rings, same.2.1, same.2.2],
          by rw [← same.2.1]; exact k.joined, by rw [← same.2.1]; exact k.freed⟩
    · intro j hj hc c f x hx
      rw [List.mem_cons] at hj
      rcases hj with rfl | hj
      · rw [ho j hn'.1]
        unfold leave retire
        rw [if_neg hc, hx]
        exact slot_setSlot _ _ _
      · rw [hr j hj (by rw [hs j hj]; exact hc) c f x (by rw [hs j hj]; exact hx), hs j hj]
    · intro j hj
      rw [List.mem_cons, not_or] at hj
      rw [ho j hj.2, slot_leave_ne m i j hj.1]


/-- Everything a dissolution does (R20): the claimed newest slot to its clip; the FILLING slot, the BLANK slots and the READY slots
without a pin to the rings in deficit and then to the free pool; the READY slots with a pin to the retiring set. -/
theorem dissolve_spec (m : SlotManager) (c : Cam) (r : Ring) (ha : SlotsAccounted m) (e : m.ring c = some r) :
      let t := (m.dissolve c).1
      let claimed := fun i : SlotNo => r.ready.getLast? = some i ∧ m.claimOf i ≠ none
      let returned := r.filling.toList ++ r.blank ++
        r.ready.filter fun i => decide ((m.slot i).holders.count = 0 ∧ ¬ claimed i)
      let owed := m.deficit.filter fun d => decide (d ≠ c)
      (∀ i f k, r.ready.getLast? = some i → (m.slot i).place = .ready c f (some k) →
        (m.dissolve c).2 = some ⟨i, c, f.sequence, k⟩ ∧ t.slot i = ⟨.clip c f k, (m.slot i).holders⟩) ∧
      ((∀ i, ¬ claimed i) → (m.dissolve c).2 = none) ∧
      (∀ i ∈ r.ready, ¬ claimed i → (m.slot i).holders.count ≠ 0 → ∀ f, (m.slot i).place = .ready c f none →
        t.slot i = ⟨.retiring c f, (m.slot i).holders⟩) ∧
      t.freePool = m.freePool ++ returned.drop owed.length ∧ t.deficit = owed.drop returned.length ∧
      (∀ d, d ≠ c → t.ring d = (m.ring d).map fun x =>
        { x with blank := x.blank ++ ((owed.zip returned).filter fun p => decide (p.1 = d)).map (·.2) }) ∧
      (∀ d i, (d, i) ∈ owed.zip returned → t.slot i = ⟨.blank d, ⟨false, false, false⟩⟩) ∧
      (∀ i ∈ returned.drop owed.length, t.slot i = ⟨.free, ⟨false, false, false⟩⟩) ∧
      ∀ i, i ∉ r.filling.toList ++ r.blank ++ r.ready → t.slot i = m.slot i := by
  intro t claimed returned owed
  -- the lists of the ring
  have place : ∀ l i, i ∈ m.members l → (m.slot i).place.list = some l := fun l i h => (ha.placed i l).2 h
  have mr : ∀ i ∈ r.ready, ∃ f k, (m.slot i).place = .ready c f k := by
    intro i hi
    have := place (.ready c) i (by rw [members_ready e]; exact hi)
    cases h : (m.slot i).place <;> rw [h] at this <;> cases this
    exact ⟨_, _, rfl⟩
  have mb : ∀ i ∈ r.blank, (m.slot i).place.list = some (.blank c) := fun i hi => place _ i (by rw [members_blank e]; exact hi)
  have mf : ∀ i ∈ r.filling.toList, (m.slot i).place.list = some (.filling c) := fun i hi =>
    place _ i (by rw [members_filling e]; exact hi)
  have nr : r.ready.Nodup := by have := ha.distinct (.ready c); rwa [members_ready e] at this
  have nb : r.blank.Nodup := by have := ha.distinct (.blank c); rwa [members_blank e] at this
  have nf : r.filling.toList.Nodup := by have := ha.distinct (.filling c); rwa [members_filling e] at this
  have dfb : ∀ i ∈ r.filling.toList, i ∉ r.blank := fun i h k => by have := mf i h; rw [mb i k] at this; cases this
  have dfr : ∀ i ∈ r.filling.toList, i ∉ r.ready := fun i h k => by
    obtain ⟨f, x, hx⟩ := mr i k; have := mf i h; rw [hx] at this; cases this
  have dbr : ∀ i ∈ r.blank, i ∉ r.ready := fun i h k => by
    obtain ⟨f, x, hx⟩ := mr i k; have := mb i h; rw [hx] at this; cases this
  have nfb : (r.filling.toList ++ r.blank).Nodup := List.nodup_append.2 ⟨nf, nb, fun a h b k x => dfb a h (x ▸ k)⟩
  have only : ∀ i ∈ r.ready, ¬ claimed i → m.claimOf i = none := by
    intro i hi hc
    obtain ⟨f, k, hp⟩ := mr i hi
    cases k with
    | none => unfold claimOf; rw [hp]
    | some k =>
      have := ha.claimed i c f k hp
      rw [newest_of_ring e] at this
      exact absurd ⟨this, by unfold claimOf; rw [hp]; exact Option.some_ne_none _⟩ hc
  let m0 : SlotManager := { m with deficit := owed }
  have hd0 : ∀ d ∈ m0.deficit, m0.ring d ≠ none := fun d h => ha.deficit d (List.mem_filter.1 h).1
  -- the tail of a dissolution, after the move of the claimed slot
  have tail : ∀ (n : SlotManager) (ready : List SlotNo), n.freePool = m.freePool → n.deficit = owed →
      (∀ d, d ≠ c → n.ring d = m.ring d) → n.ring c ≠ none →
      ready.Nodup → (∀ i ∈ ready, i ∈ r.ready ∧ ¬ claimed i) → (∀ i ∈ ready, n.slot i = m.slot i) →
      ready.filter (fun i => decide ((m.slot i).holders.count = 0))
        = r.ready.filter (fun i => decide ((m.slot i).holders.count = 0 ∧ ¬ claimed i)) →
      let u := ((ready.foldl leave ((n.giveBackAll r.filling.toList).giveBackAll r.blank))).setRing c none
      u.freePool = m.freePool ++ returned.drop owed.length ∧ u.deficit = owed.drop returned.length ∧
      (∀ d, d ≠ c → u.ring d = (m.ring d).map fun x =>
        { x with blank := x.blank ++ ((owed.zip returned).filter fun p => decide (p.1 = d)).map (·.2) }) ∧
      (∀ d i, (d, i) ∈ owed.zip returned → u.slot i = ⟨.blank d, ⟨false, false, false⟩⟩) ∧
      (∀ i ∈ returned.drop owed.length, u.slot i = ⟨.free, ⟨false, false, false⟩⟩) ∧
      (∀ i ∈ ready, (m.slot i).holders.count ≠ 0 → ∀ f, (m.slot i).place = .ready c f none →
        u.slot i = ⟨.retiring c f, (m.slot i).holders⟩) ∧
      ∀ i, i ∉ r.filling.toList ++ r.blank ++ ready → u.slot i = n.slot i := by
    intro n ready hp hdf hrd hrc nrd sub hsl hfl u
    have hd : ∀ d ∈ n.deficit, n.ring d ≠ none := by
      intro d h
      rw [hdf] at h
      by_cases x : d = c
      · subst x; exact hrc
      · rw [hrd d x]; exact ha.deficit d (List.mem_filter.1 h).1
    have both : (n.giveBackAll r.filling.toList).giveBackAll r.blank = n.giveBackAll (r.filling.toList ++ r.blank) := by
      unfold giveBackAll; rw [List.foldl_append]
    let v := n.giveBackAll (r.filling.toList ++ r.blank)
    have hv : ∀ i ∈ ready, v.slot i = m.slot i := fun i hi => by
      rw [slot_giveBackAll _ n i, hsl i hi]
      intro x
      rcases List.mem_append.1 x with x | x
      · exact dfr i x (sub i hi).1
      · exact dbr i x (sub i hi).1
    have hdv : ∀ d ∈ v.deficit, v.ring d ≠ none := by
      have := GivenBack.append (t := v) (b := []) _ nfb hd (GivenBack.refl v) (fun _ _ => rfl)
      rw [List.append_nil] at this
      intro d h
      rw [this.deficit] at h
      rw [this.rings]
      have := hd d (List.mem_of_mem_drop h)
      cases x : n.ring d with
      | none => exact absurd x this
      | some x => simp
    obtain ⟨g, hret, hoth⟩ := leaveAll_spec ready (m := v) nrd hdv (fun i hi => by
      obtain ⟨f, k, hx⟩ := mr i (sub i hi).1
      exact ⟨c, f, k, by rw [hv i hi]; exact hx⟩)
    have hfl' : (ready.filter fun i => decide ((v.slot i).holders.count = 0))
        = r.ready.filter (fun i => decide ((m.slot i).holders.count = 0 ∧ ¬ claimed i)) := by
      rw [← hfl]
      exact List.filter_congr fun i hi => by rw [hv i hi]
    rw [hfl'] at g
    have k : GivenBack n (ready.foldl leave v) returned := GivenBack.append _ nfb hd g (fun i hi => hoth i (by
      intro x
      rcases List.mem_append.1 hi with h | h
      · exact dfr i h (sub i x).1
      · exact dbr i h (sub i x).1))
    have hu : u = (ready.foldl leave v).setRing c none := by
      show ((ready.foldl leave ((n.giveBackAll r.filling.toList).giveBackAll r.blank))).setRing c none = _
      rw [both]
    rw [hu]
    refine ⟨?_, ?_, fun d x => ?_, fun d i h => ?_, fun i h => ?_, fun i hi hc f hx => ?_, fun i hi => ?_⟩
    · rw [← hp, ← hdf]; exact k.pool
    · rw [← hdf]; exact k.deficit
    · rw [ring_setRing_ne _ _ _ _ x, k.rings, hrd d x, hdf]
    · rw [slot_setRing]; exact k.joined d i (by rw [hdf]; exact h)
    · rw [slot_setRing]; exact k.freed i (by rw [hdf]; exact h)
    · rw [slot_setRing, hret i hi (by rw [hv i hi]; exact hc) c f none (by rw [hv i hi]; exact hx), hv i hi]
    · rw [slot_setRing, hoth i (fun x => hi (List.mem_append_right _ x))]
      exact slot_giveBackAll _ _ _ (fun x => hi (List.mem_append_left _ x))
  have unf : m.dissolve c = (match r.ready.getLast?.bind m.moveNotice with
      | none => ((r.ready.foldl leave ((m0.giveBackAll r.filling.toList).giveBackAll r.blank)).setRing c none, none)
      | some v => (((r.ready.erase v.slot).foldl leave (((m0.moveOut c v.slot).giveBackAll r.filling.toList).giveBackAll r.blank)).setRing c none, some v)) := by
    have ho : (m.deficit.filter (· != c)) = owed := List.filter_congr fun d _ => by by_cases h : d = c <;> simp [h]
    unfold dissolve
    rw [e]
    dsimp only
    rw [ho]
    show (_, r.ready.getLast?.bind m.moveNotice) = _
    have hmn : ({ m with deficit := owed } : SlotManager).moveNotice = m.moveNotice := rfl
    rw [hmn]
    cases r.ready.getLast?.bind m.moveNotice <;> rfl
  cases hmv : r.ready.getLast?.bind m.moveNotice with
  | none =>
    rw [hmv] at unf
    dsimp only at unf
    have nocl : ∀ i, ¬ claimed i := by
      intro i ⟨h1, h2⟩
      rw [h1] at hmv
      exact h2 (claimOf_of_moveNotice_none hmv)
    have T := tail m0 r.ready rfl rfl (fun _ _ => rfl) (by show m.ring c ≠ none; rw [e]; exact Option.some_ne_none _) nr
      (fun i h => ⟨h, nocl i⟩) (fun _ _ => rfl) (List.filter_congr fun i _ => by simp [nocl i])
    dsimp only at T
    have ht : t = (r.ready.foldl leave ((m0.giveBackAll r.filling.toList).giveBackAll r.blank)).setRing c none := by
      show (m.dissolve c).1 = _; rw [unf]
    rw [← ht] at T
    obtain ⟨a1, a2, a3, a4, a5, a6, a7⟩ := T
    refine ⟨?_, fun _ => by rw [unf], fun i hi _ hc f hx => a6 i hi hc f hx, a1, a2, a3, a4, a5, a7⟩
    intro i f k h1 h2
    exact absurd ⟨h1, by unfold claimOf; rw [h2]; exact Option.some_ne_none _⟩ (nocl i)
  | some v =>
    rw [hmv] at unf
    dsimp only at unf
    obtain ⟨i0, hl0, hm0⟩ := Option.bind_eq_some_iff.1 hmv
    obtain ⟨c0, f0, k0, hp0, hv0⟩ : ∃ c0 f0 k0, (m.slot i0).place = .ready c0 f0 (some k0) ∧ v = ⟨i0, c0, f0.sequence, k0⟩ := by
      unfold moveNotice at hm0
      split at hm0
      · rename_i a b d x; cases hm0; exact ⟨_, _, _, x, rfl⟩
      · cases hm0
    have hi0 : i0 ∈ r.ready := List.mem_of_getLast? hl0
    have hc0 : c0 = c := by obtain ⟨f, k, x⟩ := mr i0 hi0; rw [hp0] at x; cases x; rfl
    subst hc0
    have hvs : v.slot = i0 := by rw [hv0]
    rw [hvs] at unf
    have mo : m0.moveOut c0 i0 = (m0.setPlace i0 (.clip c0 f0 k0)).setRing c0 (some { r with ready := r.ready.erase i0 }) := by
      unfold moveOut
      rw [show (m0.slot i0).place = .ready c0 f0 (some k0) from hp0]
      dsimp only
      rw [show (m0.setPlace i0 (.clip c0 f0 k0)).ring c0 = some r from e]
    have cl0 : claimed i0 := ⟨hl0, by unfold claimOf; rw [hp0]; exact Option.some_ne_none _⟩
    have cl1 : ∀ i, claimed i → i = i0 := fun i h => by have := h.1; rw [hl0] at this; exact (Option.some.inj this).symm
    have ne0 : ∀ i ∈ r.ready.erase i0, i ≠ i0 := fun i h x => by subst x; exact nr.not_mem_erase h
    have sl : ∀ i, i ≠ i0 → (m0.moveOut c0 i0).slot i = m.slot i := fun i h => by
      rw [mo, slot_setRing]; exact slot_setSlot_ne _ _ _ _ h
    have T := tail (m0.moveOut c0 i0) (r.ready.erase i0) (by rw [mo]; rfl) (by rw [mo]; rfl)
      (fun d x => by rw [mo, ring_setRing_ne _ _ _ _ x]; rfl) (by rw [mo, ring_setRing]; exact Option.some_ne_none _)
      (nr.erase i0) (fun i h => ⟨List.mem_of_mem_erase h, fun x => ne0 i h (cl1 i x)⟩) (fun i h => sl i (ne0 i h)) (by
        rw [nr.erase_eq_filter, List.filter_filter]
        refine List.filter_congr fun i _ => ?_
        by_cases x : i = i0
        · subst x; simp [cl0]
        · have : ¬ claimed i := fun y => x (cl1 i y)
          simp [x, this])
    dsimp only at T
    have ht : t = ((r.ready.erase i0).foldl leave (((m0.moveOut c0 i0).giveBackAll r.filling.toList).giveBackAll r.blank)).setRing c0 none := by
      show (m.dissolve c0).1 = _; rw [unf]
    rw [← ht] at T
    obtain ⟨a1, a2, a3, a4, a5, a6, a7⟩ := T
    have t0 : t.slot i0 = ⟨.clip c0 f0 k0, (m.slot i0).holders⟩ := by
      rw [a7 i0 (by
        intro x
        rcases List.mem_append.1 x with x | x
        · rcases List.mem_append.1 x with x | x
          · exact dfr i0 x hi0
          · exact dbr i0 x hi0
        · exact ne0 i0 x rfl), mo, slot_setRing]
      exact slot_setSlot _ _ _
    refine ⟨?_, ?_, ?_, a1, a2, a3, a4, a5, ?_⟩
    · intro i f k h1 h2
      rw [hl0] at h1
      cases h1
      rw [hp0] at h2
      cases h2
      exact ⟨by rw [unf, hv0], t0⟩
    · intro h; exact absurd cl0 (h i0)
    · intro i hi hc hn f hx
      have : i ≠ i0 := fun y => hc (y ▸ cl0)
      exact a6 i ((List.mem_erase_of_ne this).2 hi) hn f hx
    · intro i hi
      have h1 : i ≠ i0 := fun y => hi (List.mem_append_right _ (y ▸ hi0))
      rw [a7 i (fun x => hi (by
        rcases List.mem_append.1 x with x | x
        · exact List.mem_append_left _ x
        · exact List.mem_append_right _ (List.mem_of_mem_erase x))), sl i h1]

/-! ## What every request keeps -/

/-- A later slot manager keeps the bounds an earlier one has, its hold limit, the agreement of its accounts, and the account of
every ring it still has. -/
structure Keeps (r m : SlotManager) : Prop extends Limits r m where
  accounted : SlotsAccounted r → SlotsAccounted m
  rings : SlotsAccounted r → ∀ c n, m.depthOf c = some n → r.depthOf c = some n

theorem Keeps.refl (m : SlotManager) : Keeps m m := ⟨Limits.refl m, id, fun _ _ _ h => h⟩

theorem discard_keeps {r m : SlotManager} (c : Cam) (h : Keeps r m) : Keeps r (m.discard c) :=
  ⟨discard_limits c h.toLimits, fun x => accounted_discard (h.accounted x) c,
   fun x d n e => h.rings x d n (by rw [← depthOf_discard]; exact e)⟩

theorem take_keeps {r m : SlotManager} (c : Cam) (f : FrameFields) (h : Keeps r m) : Keeps r (m.take c f).1 :=
  ⟨take_limits c f h.toLimits, fun x => accounted_take (h.accounted x) c f,
   fun x d n e => h.rings x d n (by rw [← depthOf_take]; exact e)⟩

theorem publish_keeps {r m : SlotManager} (c : Cam) (h : Keeps r m) : Keeps r (m.publish c).1 :=
  ⟨publish_limits c h.toLimits, fun x => accounted_publish (h.accounted x) c,
   fun x d n e => h.rings x d n (by rw [← depthOf_publish]; exact e)⟩

theorem pinNewest_keeps {r m : SlotManager} (c : Cam) (k : Reader) (h : Keeps r m) : Keeps r (m.pinNewest c k).1 :=
  ⟨pinNewest_limits c k h.toLimits, fun x => accounted_pinNewest (h.accounted x) c k,
   fun x d n e => h.rings x d n (by rw [← depthOf_pinNewest]; exact e)⟩

theorem unpin_keeps {r m : SlotManager} (i : SlotNo) (k : Reader) (h : Keeps r m) : Keeps r (m.unpin i k) :=
  ⟨unpin_limits i k h.toLimits, fun x => accounted_unpin (h.accounted x) i k,
   fun x d n e => h.rings x d n (by rw [← depthOf_unpin]; exact e)⟩

theorem claim_keeps {r m : SlotManager} (k : ClipId) (c : Cam) (i : SlotNo) (q : Word32) (h : Keeps r m) :
    Keeps r (m.claim k c i q).1 :=
  ⟨claim_limits k c i q h.toLimits, fun x => accounted_claim (h.accounted x) k c i q,
   fun x d n e => h.rings x d n (by rw [← depthOf_claim (h.accounted x)]; exact e)⟩

theorem release_keeps {r m : SlotManager} (k : ClipId) (l : List SlotNo) (h : Keeps r m) : Keeps r (m.release k l) :=
  ⟨release_limits k l h.toLimits, fun x => accounted_release (h.accounted x) k l,
   fun x d n e => h.rings x d n (by rw [← depthOf_release]; exact e)⟩

theorem dissolve_keeps {r m : SlotManager} (c : Cam) (h : Keeps r m) : Keeps r (m.dissolve c).1 :=
  ⟨dissolve_limits c h.toLimits, fun x => accounted_dissolve (h.accounted x) c, fun x d n e => by
    rw [depthOf_dissolve] at e
    split at e
    · cases e
    · exact h.rings x d n e⟩

end Sys2Proof.Machine.SlotManager

namespace Sys2Proof.Machine

/-- The states in which a camera has a ring. -/
abbrev CaptureState.HasRing (x : CaptureState) : Prop := x = .bringUp ∨ x = .searching ∨ x = .running ∨ x = .lost

theorem CaptureState.hasRing_of_takesPackets {x : CaptureState} (h : x.takesPackets = true) : x.HasRing := by
  cases x <;> simp_all [CaptureState.takesPackets, CaptureState.HasRing]

theorem CaptureState.not_hasRing_of_stopped {x : CaptureState} (h : x.stopped = true) : ¬ x.HasRing := by
  cases x <;> simp_all [CaptureState.stopped, CaptureState.HasRing]

/-- The rings of a state, by their accounts. -/
theorem ringsFit_iff (s : State) : RingsFit s ↔
    ∀ c n, s.slots.depthOf c = some n → (s.cam c).state.HasRing ∧ n = (s.cam c).setup.depth := by
  constructor
  · intro h c n e
    have hr : s.slots.ring c ≠ none := fun x => by rw [SlotManager.depthOf_none x] at e; cases e
    exact ⟨(h c hr).1, by rw [← (h c hr).2]; exact (SlotManager.ringSize_add_deficitOf e).symm⟩
  · intro h c hr
    cases e : s.slots.ring c with
    | none => exact absurd e hr
    | some r =>
      have hd := SlotManager.depthOf_some e
      exact ⟨(h c _ hd).1, (SlotManager.ringSize_add_deficitOf hd).trans (h c _ hd).2⟩

/-- A camera in any other state has no ring. -/
theorem RingsFit.ring_none {s : State} (h : RingsFit s) {c : Cam} (x : ¬ (s.cam c).state.HasRing) : s.slots.ring c = none := by
  cases e : s.slots.ring c with
  | none => rfl
  | some r => exact absurd (h c (by rw [e]; exact Option.some_ne_none r)).1 x

/-- A camera record in a state with a ring, or in the state it replaces, with the same depth. -/
theorem RingsFit.setCam {s : State} (h : RingsFit s) (c : Cam) (x : CameraRecord) (hx : s.slots.ring c = none ∨
    ((x.state.HasRing ∨ x.state = (s.cam c).state) ∧ x.setup.depth = (s.cam c).setup.depth)) : RingsFit (s.setCam c x) := by
  intro d hr
  rw [State.setCam_slots] at hr ⊢
  by_cases e : c = d
  · subst e
    rw [State.setCam_cam]
    rcases hx with hx | ⟨hx, hy⟩
    · exact absurd hx hr
    · refine ⟨hx.elim id fun z => ?_, (h c hr).2.trans hy.symm⟩
      rw [z]; exact (h c hr).1
  · rw [State.setCam_cam_ne _ _ _ _ e]; exact h d hr

/-- A slot manager with no account that the one before it has not. -/
theorem RingsFit.setSlots {s : State} (h : RingsFit s) {m : SlotManager}
    (hm : ∀ c n, m.depthOf c = some n → s.slots.depthOf c = some n) : RingsFit (s.setSlots m) :=
  (ringsFit_iff _).2 fun c n e => (ringsFit_iff s).1 h c n (hm c n e)

/-- A ring established with the depth of the setup of a camera in a state with a ring. -/
theorem RingsFit.establish {s : State} (h : RingsFit s) (ha : SlotsAccounted s.slots) {c : Cam} {m : SlotManager}
    (e : s.slots.establish c (s.cam c).setup.depth = some m) (hc : s.slots.ring c = none) (hs : (s.cam c).state.HasRing) :
    RingsFit (s.setSlots m) := by
  refine (ringsFit_iff _).2 fun d n x => ?_
  rw [State.setSlots_slots, SlotManager.depthOf_establish ha e hc] at x
  split at x
  · rename_i hd; subst hd; cases x; exact ⟨hs, rfl⟩
  · exact (ringsFit_iff s).1 h d n x

theorem ringsFit_reset : RingsFit State.reset := fun c h => absurd (SlotManager.ring_reset c) h

end Sys2Proof.Machine
end

