-- ==== Sys2Proof/Laws/Split.lean ====
section
/-! SUPPORT. What each operation of the split planner can do to the length of the split list; sorting in attention order, the entry a
joiner replaces, and readmissions. -/

-- One proof at a time: a thread for each at once is more than the memory limit lets Lean have.
set_option Elab.async false

namespace Sys2Proof.Machine

theorem length_insertByKey {α : Type} (key : α → Nat) (x : α) (l : List α) :
    (insertByKey key x l).length = l.length + 1 := by
  induction l with
  | nil => rfl
  | cons y l ih =>
    unfold insertByKey
    split
    · rfl
    · simp [ih]

theorem length_sortByKey {α : Type} (key : α → Nat) (l : List α) : (sortByKey key l).length = l.length := by
  have : ∀ acc : List α, (l.foldl (fun sorted x => insertByKey key x sorted) acc).length = acc.length + l.length := by
    induction l with
    | nil => intro acc; rfl
    | cons x l ih => intro acc; simp only [List.foldl_cons, List.length_cons]; rw [ih, length_insertByKey]; omega
  simpa [sortByKey] using this []

/-- An inserted item stands after items of keys no greater and before one of a greater key. -/
theorem insertByKey_placed {α : Type} (key : α → Nat) (x : α) (l : List α) :
    ∃ before behind, l = before ++ behind ∧ insertByKey key x l = before ++ x :: behind ∧ (∀ y ∈ before, key y ≤ key x) ∧
      ∀ y, behind.head? = some y → key x < key y := by
  induction l with
  | nil => exact ⟨[], [], rfl, rfl, nofun, nofun⟩
  | cons y l ih =>
    unfold insertByKey
    split
    · rename_i h
      exact ⟨[], y :: l, rfl, rfl, nofun, fun z e => by cases e; exact h⟩
    · rename_i h
      obtain ⟨b, k, h1, h2, h3, h4⟩ := ih
      refine ⟨y :: b, k, by rw [h1]; rfl, by rw [h2]; rfl, fun z hz => ?_, h4⟩
      rcases List.mem_cons.1 hz with rfl | hz
      · omega
      · exact h3 z hz

theorem insertByKey_perm {α : Type} (key : α → Nat) (x : α) (l : List α) : (insertByKey key x l).Perm (x :: l) := by
  obtain ⟨b, k, h1, h2, _, _⟩ := insertByKey_placed key x l
  rw [h2, h1]
  exact List.perm_middle

theorem insertByKey_sorted {α : Type} (key : α → Nat) (x : α) (l : List α) (h : l.Pairwise fun a b => key a ≤ key b) :
    (insertByKey key x l).Pairwise fun a b => key a ≤ key b := by
  induction l with
  | nil => exact List.pairwise_singleton _ _
  | cons y l ih =>
    have hy := List.pairwise_cons.1 h
    unfold insertByKey
    split
    · rename_i hx
      refine List.pairwise_cons.2 ⟨fun z hz => ?_, h⟩
      rcases List.mem_cons.1 hz with rfl | hz
      · omega
      · have := hy.1 z hz; omega
    · rename_i hx
      refine List.pairwise_cons.2 ⟨fun z hz => ?_, ih hy.2⟩
      rcases List.mem_cons.1 ((insertByKey_perm key x l).mem_iff.1 hz) with rfl | hz
      · omega
      · exact hy.1 z hz

theorem sortByKey_perm {α : Type} (key : α → Nat) (l : List α) : (sortByKey key l).Perm l := by
  have all : ∀ (l acc : List α), (l.foldl (fun sorted x => insertByKey key x sorted) acc).Perm (acc ++ l) := by
    intro l
    induction l with
    | nil => intro acc; rw [List.append_nil]; exact List.Perm.refl _
    | cons x l ih =>
      intro acc
      refine (ih _).trans (((insertByKey_perm key x acc).append_right l).trans ?_)
      exact List.perm_middle.symm
  exact all l []

theorem sortByKey_sorted {α : Type} (key : α → Nat) (l : List α) : (sortByKey key l).Pairwise fun a b => key a ≤ key b := by
  have all : ∀ (l acc : List α), acc.Pairwise (fun a b => key a ≤ key b) →
      (l.foldl (fun sorted x => insertByKey key x sorted) acc).Pairwise fun a b => key a ≤ key b := by
    intro l
    induction l with
    | nil => exact fun _ h => h
    | cons x l ih => exact fun acc h => ih _ (insertByKey_sorted key x acc h)
  exact all l [] List.Pairwise.nil

namespace SplitRecord

/-- The split list holds at most 6 entries (R104). -/
def Bounded (r : SplitRecord) : Prop := r.entries.length ≤ 6

theorem setAttention_bounded {r : SplitRecord} (c : Cam) (a : Option Attention) (h : r.Bounded) :
    (r.setAttention c a).Bounded := by simpa [Bounded, setAttention] using h

theorem putOutside_bounded {r : SplitRecord} (d : DoorUnit) (o : Outside) (h : r.Bounded) : (r.putOutside d o).Bounded := h

theorem takeOutside_bounded {r : SplitRecord} (c : Cam) (h : r.Bounded) : (r.takeOutside c).Bounded := h

theorem insert_bounded {r : SplitRecord} (d : DoorUnit) (e : SplitEntry) (h : r.entries.length < 6) :
    (r.insert d e).Bounded := by
  unfold Bounded insert
  simp only [length_insertByKey]
  omega

/-- The entry to replace is an entry of the list. -/
theorem replaced_mem {r : SplitRecord} {a : Attention} {e : SplitEntry} (h : r.replaced a = some e) : e ∈ r.entries := by
  unfold replaced at h
  split at h
  · rename_i e' he
    cases h
    exact List.mem_reverse.1 (List.mem_of_find?_eq_some he)
  · exact List.mem_reverse.1 (List.mem_filter.1 (List.mem_of_find?_eq_some h)).1

theorem length_filter_lt {r : SplitRecord} {e : SplitEntry} (h : e ∈ r.entries) :
    (r.entries.filter (·.camera != e.camera)).length < r.entries.length :=
  List.length_filter_lt_length_iff_exists.2 ⟨e, h, by simp⟩

theorem join_bounded {r : SplitRecord} (d : DoorUnit) (now : Time) (c : Cam) (a : Attention) (h : r.Bounded) :
    (r.join d now c a).Bounded := by
  unfold join
  dsimp only
  split
  · exact setAttention_bounded _ _ h
  · split
    · rename_i hl; exact insert_bounded _ _ hl
    · split
      · exact putOutside_bounded _ _ h
      · rename_i old ho
        have hlt := length_filter_lt (replaced_mem ho)
        have hb : (insert { r with entries := r.entries.filter (·.camera != old.camera) } d
            { camera := c, attention := some a, joined := now }).Bounded :=
          insert_bounded _ _ (Nat.lt_of_lt_of_le hlt h)
        split
        · exact hb
        · exact putOutside_bounded _ _ hb

theorem departure_bounded {r : SplitRecord} (c : Cam) (h : r.Bounded) : (r.departure c).Bounded :=
  setAttention_bounded c none h

theorem change_bounded {r : SplitRecord} (d : DoorUnit) (now : Time) (c : Cam) (a : Attention) (h : r.Bounded) :
    (r.change d now c a).Bounded := by
  unfold change
  split
  · exact setAttention_bounded _ _ h
  · split
    · exact join_bounded _ _ _ _ h
    · exact h

theorem apply_bounded {r : SplitRecord} (d : DoorUnit) (now : Time) (n : DoorNotice) (h : r.Bounded) :
    (r.apply d now n).Bounded := by
  cases n with
  | departure c => exact departure_bounded c h
  | change c a => exact change_bounded d now c a h
  | join c a => exact join_bounded d now c a h
  | newMap => unfold Bounded at *; simpa [apply, remap, length_sortByKey] using h

theorem readmit_bounded (d : DoorUnit) (now : Time) (n : Nat) :
    ∀ {r : SplitRecord}, r.Bounded → (r.readmit d now n).Bounded := by
  induction n with
  | zero => exact fun h => h
  | succ n ih =>
    intro r h
    unfold readmit
    split
    · split
      · exact h
      · exact ih (join_bounded _ _ _ _ h)
    · exact h

theorem batch_bounded {r : SplitRecord} (d : DoorUnit) (now : Time) (l : List DoorNotice) (h : r.Bounded) :
    (r.batch d now l).Bounded := by
  unfold batch
  refine readmit_bounded _ _ _ ?_
  induction l generalizing r with
  | nil => exact h
  | cons n l ih => exact ih (apply_bounded d now n h)

theorem cleared_bounded (r : SplitRecord) : r.cleared.Bounded := Nat.zero_le 6

theorem testHoldOver_bounded {r : SplitRecord} (a b : Nat) (h : r.Bounded) : (r.testHoldOver a b).Bounded := by
  unfold testHoldOver
  split
  · exact h
  · split
    · split
      · exact h
      · split
        · exact cleared_bounded r
        · exact h
    · exact h

theorem snapshot_bounded (r : SplitRecord) (d : DoorUnit) (now : Time) (l : List (Cam × Attention)) :
    (r.snapshot d now l).Bounded := by
  have : ∀ l : List (Cam × Attention), ∀ r : SplitRecord, r.Bounded →
      (l.foldl (fun r p => r.join d now p.1 p.2) r).Bounded := by
    intro l
    induction l with
    | nil => exact fun r h => h
    | cons p l ih => exact fun r h => ih _ (join_bounded d now p.1 p.2 h)
  exact this l _ (cleared_bounded r)

/-! ## Replacements and readmissions -/

/-- On a full list the last DEPARTED entry is replaced (R108 step 3). -/
theorem replaced_departed {r : SplitRecord} {a : Attention} {before : List SplitEntry} {old : SplitEntry} {behind : List SplitEntry}
    (h : r.entries = before ++ old :: behind) (h1 : old.attention = none) (h2 : ∀ e ∈ behind, e.attention ≠ none) :
    r.replaced a = some old := by
  have : r.entries.reverse.find? (·.attention.isNone) = some old := by
    rw [h]
    simp only [List.reverse_append, List.reverse_cons, List.append_assoc, List.find?_append]
    rw [List.find?_eq_none.2]
    · simp [h1]
    · intro x hx
      have := h2 x (List.mem_reverse.1 hx)
      simpa [Option.isNone_iff_eq_none] using this
  unfold replaced
  rw [this]

theorem foldl_max (l : List SplitEntry) : ∀ n,
    n ≤ l.foldl (fun n e => max n (classNumber e)) n ∧
    (∀ e ∈ l, classNumber e ≤ l.foldl (fun n e => max n (classNumber e)) n) ∧
    (l.foldl (fun n e => max n (classNumber e)) n = n ∨
      ∃ e ∈ l, classNumber e = l.foldl (fun n e => max n (classNumber e)) n) := by
  induction l with
  | nil => exact fun n => ⟨Nat.le_refl _, nofun, Or.inl rfl⟩
  | cons x l ih =>
    intro n
    obtain ⟨h1, h2, h3⟩ := ih (max n (classNumber x))
    rw [List.foldl_cons]
    refine ⟨by omega, fun e he => ?_, ?_⟩
    · rcases List.mem_cons.1 he with rfl | he
      · omega
      · exact h2 e he
    · rcases h3 with h3 | ⟨e, he, h3⟩
      · rcases Nat.le_total n (classNumber x) with h | h
        · exact Or.inr ⟨x, List.mem_cons_self, by omega⟩
        · exact Or.inl (by omega)
      · exact Or.inr ⟨e, List.mem_cons_of_mem _ he, h3⟩

/-- On a full list without a DEPARTED entry the last entry of the worst class is replaced, if that is worse than the joiner's
(R108 step 3). -/
theorem replaced_worst {r : SplitRecord} {a b : Attention} {before : List SplitEntry} {old : SplitEntry} {behind : List SplitEntry}
    (h : r.entries = before ++ old :: behind) (hb : old.attention = some b) (hall : ∀ e ∈ r.entries, e.attention ≠ none)
    (hw : a.cls.number < b.cls.number) (hbef : ∀ e ∈ before, ∀ x, e.attention = some x → x.cls.number ≤ b.cls.number)
    (hbeh : ∀ e ∈ behind, ∀ x, e.attention = some x → x.cls.number < b.cls.number) : r.replaced a = some old := by
  have none0 : r.entries.reverse.find? (·.attention.isNone) = none := by
    rw [List.find?_eq_none]
    intro x hx
    have := hall x (List.mem_reverse.1 hx)
    simpa using this
  have cold : classNumber old = b.cls.number := by simp [classNumber, hb]
  obtain ⟨_, f2, f3⟩ := foldl_max (r.entries.reverse.filter fun e => decide (a.cls.number < classNumber e)) 0
  have least : ∀ e ∈ r.entries, classNumber e ≤ b.cls.number := by
    intro e he
    rw [h] at he
    unfold classNumber
    split
    · omega
    · rename_i x hx
      rcases List.mem_append.1 he with he | he
      · exact hbef e he x hx
      · rcases List.mem_cons.1 he with rfl | he
        · rw [hb] at hx; cases hx; exact Nat.le_refl _
        · exact Nat.le_of_lt (hbeh e he x hx)
  have mem : old ∈ r.entries.reverse.filter fun e => decide (a.cls.number < classNumber e) := by
    rw [List.mem_filter]
    exact ⟨by rw [h]; simp, by simp [cold, hw]⟩
  have worst : (r.entries.reverse.filter fun e => decide (a.cls.number < classNumber e)).foldl
      (fun n e => max n (classNumber e)) 0 = b.cls.number := by
    apply Nat.le_antisymm
    · rcases f3 with f3 | ⟨e, he, f3⟩
      · omega
      · rw [← f3]; exact least e (List.mem_reverse.1 (List.mem_filter.1 he).1)
    · rw [← cold]; exact f2 old mem
  unfold replaced
  rw [none0]
  dsimp only
  rw [worst, h]
  simp only [List.reverse_append, List.reverse_cons, List.append_assoc, List.filter_append, List.find?_append]
  rw [List.find?_eq_none.2]
  · simp [cold, hw]
  · intro x hx
    have hm := List.mem_reverse.1 (List.mem_filter.1 hx).1
    cases ha : x.attention with
    | none => exact absurd ha (hall x (by rw [h]; simp [hm]))
    | some y =>
      have := hbeh x hm y ha
      simp [classNumber, ha]
      omega

/-- On a full list with nobody worse than the joiner no entry is replaced (R108 step 4). -/
theorem replaced_none {r : SplitRecord} {a : Attention}
    (h : ∀ e ∈ r.entries, ∃ b, e.attention = some b ∧ b.cls.number ≤ a.cls.number) : r.replaced a = none := by
  have none0 : r.entries.reverse.find? (·.attention.isNone) = none := by
    rw [List.find?_eq_none]
    intro x hx
    obtain ⟨b, hb, _⟩ := h x (List.mem_reverse.1 hx)
    simp [hb]
  have empty : (r.entries.reverse.filter fun e => decide (a.cls.number < classNumber e)) = [] := by
    rw [List.filter_eq_nil_iff]
    intro x hx
    obtain ⟨b, hb, hle⟩ := h x (List.mem_reverse.1 hx)
    simp [classNumber, hb]
    exact hle
  unfold replaced
  rw [none0]
  dsimp only
  rw [empty]
  rfl

theorem classNumber_le_four (a : AttentionClass) : a.number ≤ 4 := by cases a <;> decide

/-- The best class of the outside set is that of one of its cameras, and no other has a better one. -/
theorem foldl_min (l : List Outside) : ∀ n, n ≤ 4 →
    (l.foldl (fun n o => min n o.attention.cls.number) n ≤ n) ∧
    (∀ o ∈ l, l.foldl (fun n o => min n o.attention.cls.number) n ≤ o.attention.cls.number) ∧
    (l.foldl (fun n o => min n o.attention.cls.number) n = n ∨
      ∃ o ∈ l, l.foldl (fun n o => min n o.attention.cls.number) n = o.attention.cls.number) := by
  induction l with
  | nil => exact fun n _ => ⟨Nat.le_refl _, nofun, Or.inl rfl⟩
  | cons x l ih =>
    intro n hn
    obtain ⟨h1, h2, h3⟩ := ih (min n x.attention.cls.number) (by omega)
    rw [List.foldl_cons]
    refine ⟨by omega, fun o ho => ?_, ?_⟩
    · rcases List.mem_cons.1 ho with rfl | ho
      · omega
      · exact h2 o ho
    · rcases h3 with h3 | ⟨o, ho, h3⟩
      · by_cases h : n ≤ x.attention.cls.number
        · left; omega
        · right; exact ⟨x, List.mem_cons_self, by omega⟩
      · right; exact ⟨o, List.mem_cons_of_mem _ ho, h3⟩

/-- The camera to readmit is the first of the best class (R111). -/
theorem bestOutside_eq {r : SplitRecord} {before : List Outside} {o : Outside} {behind : List Outside}
    (h : r.outside = before ++ o :: behind) (h1 : ∀ x ∈ before, o.attention.cls.number < x.attention.cls.number)
    (h2 : ∀ x ∈ behind, o.attention.cls.number ≤ x.attention.cls.number) : r.bestOutside = some o := by
  obtain ⟨a1, a2, a3⟩ := foldl_min r.outside 4 (Nat.le_refl 4)
  have mem : o ∈ r.outside := by rw [h]; exact List.mem_append_right _ List.mem_cons_self
  have least : ∀ x ∈ r.outside, o.attention.cls.number ≤ x.attention.cls.number := by
    intro x hx
    rw [h] at hx
    rcases List.mem_append.1 hx with hx | hx
    · exact Nat.le_of_lt (h1 x hx)
    · rcases List.mem_cons.1 hx with rfl | hx
      · exact Nat.le_refl _
      · exact h2 x hx
  have best : r.outside.foldl (fun n o => min n o.attention.cls.number) 4 = o.attention.cls.number := by
    have := a2 o mem
    rcases a3 with a3 | ⟨x, hx, a3⟩
    · have := classNumber_le_four o.attention.cls; omega
    · have := least x hx; omega
  unfold bestOutside
  dsimp only
  rw [best, h, List.find?_append, List.find?_eq_none.2]
  · simp
  · intro x hx
    have := h1 x hx
    simp
    omega

theorem bestOutside_none {r : SplitRecord} (h : r.bestOutside = none) : r.outside = [] := by
  unfold bestOutside at h
  dsimp only at h
  obtain ⟨a1, a2, a3⟩ := foldl_min r.outside 4 (Nat.le_refl 4)
  rw [List.find?_eq_none] at h
  cases e : r.outside with
  | nil => rfl
  | cons x l =>
    exfalso
    have hx : x ∈ r.outside := by rw [e]; exact List.mem_cons_self
    rcases a3 with a3 | ⟨o, ho, a3⟩
    · have h1 := a2 x hx
      have h2 := classNumber_le_four x.attention.cls
      exact h x hx (by rw [a3]; simp; omega)
    · exact h o ho (by rw [a3]; simp)

/-- While a DEPARTED entry is left a join leaves the outside set as it is (R108 step 3). -/
theorem join_outside {r : SplitRecord} (d : DoorUnit) (now : Time) (c : Cam) (a : Attention)
    (h : ∃ e ∈ r.entries, e.attention = none) : (r.join d now c a).outside = r.outside := by
  unfold join
  dsimp only
  split
  · rfl
  · split
    · rfl
    · obtain ⟨e, he, hn⟩ : ∃ e, r.entries.reverse.find? (·.attention.isNone) = some e ∧ e.attention = none := by
        obtain ⟨e, he, hn⟩ := h
        cases hf : r.entries.reverse.find? (·.attention.isNone) with
        | none => have := List.find?_eq_none.1 hf e (List.mem_reverse.2 he); simp [hn] at this
        | some x => exact ⟨x, rfl, by have := List.find?_some hf; simpa using this⟩
      unfold replaced
      rw [he]
      dsimp only
      rw [hn]
      rfl

/-- Readmissions end with nobody outside or no DEPARTED entry (R111). -/
theorem readmit_end (d : DoorUnit) (now : Time) (n : Nat) : ∀ r : SplitRecord, r.outside.length ≤ n →
    (r.readmit d now n).outside = [] ∨ ∀ e ∈ (r.readmit d now n).entries, e.attention ≠ none := by
  induction n with
  | zero => exact fun r h => Or.inl (List.length_eq_zero_iff.1 (Nat.le_zero.1 h))
  | succ n ih =>
    intro r h
    unfold readmit
    split
    · rename_i hd
      have hd : ∃ e ∈ r.entries, e.attention = none := by simpa [List.any_eq_true] using hd
      split
      · rename_i hb
        exact Or.inl (bestOutside_none hb)
      · rename_i o ho
        apply ih
        rw [join_outside (r := r.takeOutside o.camera) d now _ _ hd]
        have : (r.outside.filter (·.camera != o.camera)).length < r.outside.length :=
          List.length_filter_lt_length_iff_exists.2 ⟨o, List.mem_of_find?_eq_some ho, by simp⟩
        exact Nat.le_of_lt_succ (Nat.lt_of_lt_of_le this h)
    · rename_i hd
      exact Or.inr fun e he hn => hd (List.any_eq_true.2 ⟨e, he, by rw [hn]; rfl⟩)

end SplitRecord

end Sys2Proof.Machine
end

