-- ==== Sys2Proof/Laws/Keeps.lean ====
section
/-! SUPPORT. What the blocks never touch, and the bounds they keep: one lemma for each operation the blocks are made of. -/

-- One proof at a time: a thread for each at once is more than the memory limit lets Lean have.
set_option Elab.async false

namespace Sys2Proof.Machine

theorem Part.same_refl (s : State) (x : Part) : x.same s s := by
  cases x
  case screenSetups => exact fun _ => ⟨rfl, rfl⟩
  case endMap => exact ⟨rfl, rfl⟩
  case freshness => exact ⟨rfl, rfl, rfl, rfl⟩
  case cameraSetups => exact fun _ => rfl
  all_goals rfl

theorem Part.same_trans {a b c : State} {x : Part} (h : x.same a b) (k : x.same b c) : x.same a c := by
  cases x
  case screenSetups => exact fun i => ⟨(k i).1.trans (h i).1, (k i).2.trans (h i).2⟩
  case endMap => exact ⟨k.1.trans h.1, k.2.trans h.2⟩
  case freshness =>
    exact ⟨k.1.trans h.1, k.2.1.trans h.2.1, k.2.2.1.trans h.2.2.1, k.2.2.2.trans h.2.2.2⟩
  case cameraSetups => exact fun i => (k i).trans (h i)
  all_goals exact Eq.trans k h

/-- A later state has the queue, the clock, the pins, the pixel bytes and the link's receiver, buffers, reply slot,
transmitter, rate and fault totals of an earlier one and the settings named, and keeps the bounds it has. -/
structure Keeps (p : Part → Prop) (r s : State) : Prop where
  pending  : s.pending = r.pending
  elapsed  : s.elapsed = r.elapsed
  pins     : s.pins = r.pins
  pixels   : s.pixels = r.pixels
  rate     : s.link.rate = r.link.rate
  receiver : s.link.receiver = r.link.receiver
  buffers  : s.link.buffers = r.link.buffers
  reply    : s.link.reply = r.link.reply
  tx       : s.link.tx = r.link.tx
  faults   : s.link.faults = r.link.faults
  hold     : HoldWithin r.slots → HoldWithin s.slots
  pool     : PoolOrDeficit r.slots → PoolOrDeficit s.slots
  accounts : SlotsAccounted r.slots → SlotsAccounted s.slots
  control  : ControlBounded r → ControlBounded s
  split    : SplitBounded r → SplitBounded s
  queue    : QueueDistinct r → QueueDistinct s
  setups   : SetupsInRange r → SetupsInRange s
  rings    : SlotsAccounted r.slots → RingsFit r → RingsFit s
  same     : ∀ x, p x → x.same r s

namespace Keeps

variable {p : Part → Prop}

theorem refl (s : State) : Keeps p s s :=
  ⟨rfl, rfl, rfl, rfl, rfl, rfl, rfl, rfl, rfl, rfl, id, id, id, id, id, id, id, fun _ => id, fun x _ => x.same_refl s⟩

theorem trans {a b c : State} (h : Keeps p a b) (k : Keeps p b c) : Keeps p a c :=
  ⟨k.pending.trans h.pending, k.elapsed.trans h.elapsed, k.pins.trans h.pins, k.pixels.trans h.pixels,
   k.rate.trans h.rate, k.receiver.trans h.receiver, k.buffers.trans h.buffers, k.reply.trans h.reply,
   k.tx.trans h.tx, k.faults.trans h.faults, fun x => k.hold (h.hold x), fun x => k.pool (h.pool x),
   fun x => k.accounts (h.accounts x), fun x => k.control (h.control x),
   fun x => k.split (h.split x), fun x => k.queue (h.queue x),
   fun x => k.setups (h.setups x), fun x y => k.rings (h.accounts x) (h.rings x y), fun x y => Part.same_trans (h.same x y) (k.same x y)⟩

/-- A state that agrees in every component `Keeps` speaks of. -/
theorem of_same {r s t : State} (h : Keeps p r s) (h1 : t.pending = s.pending) (h2 : t.elapsed = s.elapsed)
    (h3 : t.pins = s.pins) (h4 : t.pixels = s.pixels) (h5 : t.link = s.link) (h6 : t.slots = s.slots)
    (h7 : t.controls = s.controls) (h8 : ∀ i, t.split i = s.split i) (h9 : t.soil.queue = s.soil.queue)
    (h10 : t.cameras = s.cameras) (h11 : ∀ x, p x → x.same s t) : Keeps p r t :=
  { pending := h1.trans h.pending, elapsed := h2.trans h.elapsed, pins := h3.trans h.pins, pixels := h4.trans h.pixels,
    rate := by rw [h5]; exact h.rate, receiver := by rw [h5]; exact h.receiver, buffers := by rw [h5]; exact h.buffers,
    reply := by rw [h5]; exact h.reply, tx := by rw [h5]; exact h.tx, faults := by rw [h5]; exact h.faults,
    hold := by rw [h6]; exact h.hold, pool := by rw [h6]; exact h.pool,
    accounts := by rw [h6]; exact h.accounts,
    control := fun x c => by unfold State.ctl; rw [h7]; exact h.control x c,
    split := fun x i => by rw [h8]; exact h.split x i,
    queue := fun x => by unfold QueueDistinct; rw [h9]; exact h.queue x
    setups := fun x c => by unfold State.cam; rw [h10]; exact h.setups x c
    rings := fun x y => by unfold RingsFit State.cam; rw [h6, h10]; exact h.rings x y
    same := fun x y => Part.same_trans (h.same x y) (h11 x y) }

/-- A camera record whose setup is in range if every setup of the earlier state is, for a camera without a ring, or in a state with
a ring and of the same depth. -/
theorem putCam {r s : State} (c : Cam) (x : CameraRecord) (hx : SetupsInRange r → x.setup.InRange)
    (hp : ¬ p .cameraSetups ∨ x.setup = (s.cam c).setup) (hr : RingsFit s → s.slots.ring c = none ∨
      ((x.state.HasRing ∨ x.state = (s.cam c).state) ∧ x.setup.depth = (s.cam c).setup.depth))
    (h : Keeps p r s) : Keeps p r (s.setCam c x) := by
  have hs : SetupsInRange r → SetupsInRange (s.setCam c x) := by
    intro b d
    by_cases e : c = d
    · subst e; rw [State.setCam_cam]; exact hx b
    · rw [State.setCam_cam_ne _ _ _ _ e]; exact h.setups b d
  have hm : ∀ y, p y → y.same s (s.setCam c x) := by
    intro y hy
    cases y
    case cameraSetups =>
      intro d
      rcases hp with hp | hp
      · exact absurd hy hp
      · by_cases e : c = d
        · subst e; rw [State.setCam_cam]; exact hp
        · rw [State.setCam_cam_ne _ _ _ _ e]
    case screenSetups => intro i; cases i <;> exact ⟨rfl, rfl⟩
    case endMap => exact ⟨rfl, rfl⟩
    case freshness => exact ⟨rfl, rfl, rfl, rfl⟩
    all_goals rfl
  exact { h with setups := hs, rings := fun a b => (h.rings a b).setCam c x (hr (h.rings a b)),
                 same := fun y hy => Part.same_trans (h.same y hy) (hm y hy) }

/-- A camera record with the setup and the state of the one it replaces. -/
theorem setCam {r s : State} (c : Cam) (x : CameraRecord) (h : Keeps p r s)
    (hx : x.setup = (s.cam c).setup := by rfl) (hs : x.state = (s.cam c).state := by rfl) : Keeps p r (s.setCam c x) :=
  h.putCam c x (fun b => by rw [hx]; exact h.setups b c) (Or.inr hx) (fun _ => Or.inr ⟨Or.inr hs, by rw [hx]⟩)

/-- A camera record with the setup of the one it replaces, in a state with a ring. -/
theorem setCamLive {r s : State} (c : Cam) (x : CameraRecord) (h : Keeps p r s) (hs : x.state.HasRing)
    (hx : x.setup = (s.cam c).setup := by rfl) : Keeps p r (s.setCam c x) :=
  h.putCam c x (fun b => by rw [hx]; exact h.setups b c) (Or.inr hx) (fun _ => Or.inr ⟨Or.inl hs, by rw [hx]⟩)

/-- A camera record with the setup of the one it replaces, for a camera without a ring. -/
theorem setCamBare {r s : State} (c : Cam) (x : CameraRecord) (h : Keeps p r s) (hs : RingsFit s → s.slots.ring c = none)
    (hx : x.setup = (s.cam c).setup := by rfl) : Keeps p r (s.setCam c x) :=
  h.putCam c x (fun b => by rw [hx]; exact h.setups b c) (Or.inr hx) (fun y => Or.inl (hs y))

theorem setDoors {r s : State} (d : DoorUnit) (h : Keeps p r s)
    (h1 : ¬ p .doorMap ∨ d.map = s.doors.map := by exact Or.inr rfl)
    (h2 : ¬ p .endMap ∨ (d.endA = s.doors.endA ∧ d.endB = s.doors.endB) := by exact Or.inr ⟨rfl, rfl⟩)
    (h3 : ¬ p .doorTable ∨ d.table = s.doors.table := by exact Or.inr rfl)
    (h4 : ¬ p .freshness ∨ (d.fresh = s.doors.fresh ∧ d.period = s.doors.period ∧ d.timer = s.doors.timer
      ∧ d.lastTable = s.doors.lastTable) := by exact Or.inr ⟨rfl, rfl, rfl, rfl⟩)
    (h5 : ¬ p .cab ∨ d.cab = s.doors.cab := by exact Or.inr rfl)
    (h6 : ¬ p .attention ∨ d.attention = s.doors.attention := by exact Or.inr rfl) : Keeps p r (s.setDoors d) :=
  h.of_same rfl rfl rfl rfl rfl rfl rfl (fun i => by cases i <;> rfl) rfl rfl (fun x y => by
    cases x
    case doorMap => exact h1.resolve_left (not_not_intro y)
    case endMap => exact h2.resolve_left (not_not_intro y)
    case doorTable => exact h3.resolve_left (not_not_intro y)
    case freshness => exact h4.resolve_left (not_not_intro y)
    case cab => exact h5.resolve_left (not_not_intro y)
    case attention => exact h6.resolve_left (not_not_intro y)
    case screenSetups => intro i; cases i <;> exact ⟨rfl, rfl⟩
    case cameraSetups => exact fun _ => rfl
    all_goals rfl)

theorem setLayouts {r s : State} (l : Vector (List TileRecord) 16) (h : Keeps p r s) (hp : ¬ p .layouts) :
    Keeps p r (s.setLayouts l) :=
  h.of_same rfl rfl rfl rfl rfl rfl rfl (fun i => by cases i <;> rfl) rfl rfl
    (fun x y => by cases x <;> first | exact absurd y hp | rfl | exact fun _ => rfl | exact ⟨rfl, rfl⟩ | exact ⟨rfl, rfl, rfl, rfl⟩ | exact fun i => by cases i <;> exact ⟨rfl, rfl⟩)

theorem setClips {r s : State} (u : ClipUnit) (h : Keeps p r s) (hp : ¬ p .triggerMap ∨ u.map = s.clips.map := by exact Or.inr rfl) :
    Keeps p r (s.setClips u) :=
  h.of_same rfl rfl rfl rfl rfl rfl rfl (fun i => by cases i <;> rfl) rfl rfl (fun x y => by
    cases x
    case triggerMap => exact hp.resolve_left (not_not_intro y)
    case screenSetups => intro i; cases i <;> exact ⟨rfl, rfl⟩
    case cameraSetups => exact fun _ => rfl
    case endMap => exact ⟨rfl, rfl⟩
    case freshness => exact ⟨rfl, rfl, rfl, rfl⟩
    all_goals rfl)

theorem setClip {r s : State} (k : ClipId) (x : Option Clip) (h : Keeps p r s) : Keeps p r (s.setClip k x) :=
  h.setClips _

theorem mapClip {r s : State} (k : ClipId) (f : Clip → Clip) (h : Keeps p r s) : Keeps p r (s.mapClip k f) := h.setClip _ _

theorem setExporter {r s : State} (e : ExportEngine) (h : Keeps p r s) :
    Keeps p r (s.setExporter e) :=
  h.of_same rfl rfl rfl rfl rfl rfl rfl (fun i => by cases i <;> rfl) rfl rfl
    (fun x y => by cases x <;> first | rfl | exact fun _ => rfl | exact ⟨rfl, rfl⟩ | exact ⟨rfl, rfl, rfl, rfl⟩ | exact fun i => by cases i <;> exact ⟨rfl, rfl⟩)

theorem setScreen {r s : State} (i : ScreenId) (x : ScreenRecord) (h : Keeps p r s)
    (hp : ¬ p .screenSetups ∨ (x.setup = (s.screen i).setup ∧ x.requested = (s.screen i).requested) := by exact Or.inr ⟨rfl, rfl⟩) :
    Keeps p r (s.setScreen i x) := by
  refine h.of_same (by simp) (by simp) (by simp) (by simp) (by simp) (by simp) (by simp) (by simp) (by simp) (by simp) ?_
  intro y hy
  cases y
  case screenSetups =>
    have hp := hp.resolve_left (not_not_intro hy)
    intro j
    by_cases e : i = j
    · subst e; rw [State.setScreen_screen]; exact hp
    · rw [State.setScreen_screen_ne _ _ _ _ e]; exact ⟨rfl, rfl⟩
  case cameraSetups => intro d; simp [State.cam]
  all_goals simp [Part.same]

theorem setSoil {r s : State} (m : SoilMonitor) (hm : s.soil.queue.Nodup → m.queue.Nodup) (h : Keeps p r s)
    (hp : ¬ p .tuning ∨ m.tuning = s.soil.tuning := by exact Or.inr rfl) :
    Keeps p r (s.setSoil m) := by
  have hq : ∀ y, p y → y.same s (s.setSoil m) := by
    intro y hy
    cases y
    case tuning => exact hp.resolve_left (not_not_intro hy)
    case screenSetups => intro i; cases i <;> exact ⟨rfl, rfl⟩
    case cameraSetups => exact fun _ => rfl
    case endMap => exact ⟨rfl, rfl⟩
    case freshness => exact ⟨rfl, rfl, rfl, rfl⟩
    all_goals rfl
  exact { h with queue := fun x => hm (h.queue x), same := fun y hy => Part.same_trans (h.same y hy) (hq y hy) }

theorem setSoilOf {r s : State} (c : Cam) (x : SoilRecord) (h : Keeps p r s) : Keeps p r (s.setSoilOf c x) :=
  h.setSoil _ id

/-- A slot manager that keeps the bounds; its hold limit may differ where the hold limit is not a setting named. -/
theorem putSlots {r s : State} {m : SlotManager} (hh : HoldWithin s.slots → HoldWithin m)
    (hq : PoolOrDeficit s.slots → PoolOrDeficit m) (ha : SlotsAccounted s.slots → SlotsAccounted m)
    (hp : ¬ p .holdLimit ∨ m.holdLimit = s.slots.holdLimit)
    (hr : SlotsAccounted r.slots → RingsFit r → RingsFit (s.setSlots m))
    (h : Keeps p r s) : Keeps p r (s.setSlots m) := by
  have hm : ∀ y, p y → y.same s (s.setSlots m) := by
    intro y hy
    cases y
    case holdLimit => exact hp.resolve_left (not_not_intro hy)
    case screenSetups => intro i; cases i <;> exact ⟨rfl, rfl⟩
    case cameraSetups => exact fun _ => rfl
    case endMap => exact ⟨rfl, rfl⟩
    case freshness => exact ⟨rfl, rfl, rfl, rfl⟩
    all_goals rfl
  exact { h with hold := fun x => hh (h.hold x), pool := fun x => hq (h.pool x),
                 accounts := fun x => ha (h.accounts x),
                 rings := hr,
                 same := fun y hy => Part.same_trans (h.same y hy) (hm y hy) }

theorem setSlots {r s : State} {m : SlotManager} (hm : s.slots.Keeps m) (h : Keeps p r s) : Keeps p r (s.setSlots m) :=
  putSlots hm.hold hm.pool hm.accounted (Or.inr hm.limit)
    (fun a b => (h.rings a b).setSlots (hm.rings (h.accounts a))) h

theorem setCtl {r s : State} (c : Cam) (x : ControlRecord) (hx : (s.ctl c).queue.length ≤ 3 → x.queue.length ≤ 3)
    (h : Keeps p r s) : Keeps p r (s.setCtl c x) := by
  have hc : ControlBounded r → ControlBounded (s.setCtl c x) := by
    intro b d
    by_cases e : c = d
    · subst e; rw [State.setCtl_ctl]; exact hx (h.control b c)
    · rw [State.setCtl_ctl_ne _ _ _ _ e]; exact h.control b d
  have hm : ∀ y, p y → y.same s (s.setCtl c x) := by
    intro y _
    cases y
    case screenSetups => intro i; cases i <;> exact ⟨rfl, rfl⟩
    case cameraSetups => exact fun _ => rfl
    case endMap => exact ⟨rfl, rfl⟩
    case freshness => exact ⟨rfl, rfl, rfl, rfl⟩
    all_goals rfl
  exact { h with control := hc, same := fun y hy => Part.same_trans (h.same y hy) (hm y hy) }

theorem setSplit {r s : State} (i : ScreenId) (x : SplitRecord) (hx : (s.split i).Bounded → x.Bounded) (h : Keeps p r s) :
    Keeps p r (s.setSplit i x) :=
  { pending := by simpa using h.pending, elapsed := by simpa using h.elapsed, pins := by simpa using h.pins,
    pixels := by simpa using h.pixels, rate := by simpa using h.rate, receiver := by simpa using h.receiver,
    buffers := by simpa using h.buffers, reply := by simpa using h.reply, tx := by simpa using h.tx,
    faults := by simpa using h.faults, hold := by simpa using h.hold, pool := by simpa using h.pool,
    accounts := by simpa using h.accounts,
    control := fun b c => by have := h.control b c; simpa [State.ctl] using this,
    split := fun b j => by
      by_cases e : i = j
      · subst e; rw [State.setSplit_split]; exact hx (h.split b i)
      · rw [State.setSplit_split_ne _ _ _ _ e]; exact h.split b j,
    queue := fun b => by have := h.queue b; simpa [QueueDistinct] using this
    setups := fun b c => by have := h.setups b c; simpa [State.cam] using this
    rings := fun a b => by have := h.rings a b; simpa [RingsFit, State.cam] using this
    same := fun y hy => Part.same_trans (h.same y hy) (by
      cases y
      case screenSetups => intro j; simp
      case cameraSetups => intro d; simp [State.cam]
      all_goals simp [Part.same]) }

/-- A link controller that differs in jobs and reports, and in the settings not named. -/
theorem putLink {r s : State} {l : LinkController} (h : Keeps p r s) (h1 : l.rate = s.link.rate)
    (h2 : l.receiver = s.link.receiver) (h3 : l.buffers = s.link.buffers) (h4 : l.reply = s.link.reply)
    (h5 : l.tx = s.link.tx) (h6 : l.faults = s.link.faults) (h7 : ¬ p .masks ∨ l.masked = s.link.masked)
    (h8 : ¬ p .timeBase ∨ l.timeBase = s.link.timeBase) (h9 : ¬ p .resetAsked ∨ l.resetAsked = s.link.resetAsked) :
    Keeps p r (s.setLink l) := by
  have hm : ∀ y, p y → y.same s (s.setLink l) := by
    intro y hy
    cases y
    case masks => exact h7.resolve_left (not_not_intro hy)
    case timeBase => exact h8.resolve_left (not_not_intro hy)
    case resetAsked => exact h9.resolve_left (not_not_intro hy)
    case screenSetups => intro i; cases i <;> exact ⟨rfl, rfl⟩
    case cameraSetups => exact fun _ => rfl
    case endMap => exact ⟨rfl, rfl⟩
    case freshness => exact ⟨rfl, rfl, rfl, rfl⟩
    all_goals rfl
  exact { h with
    rate := h1.trans h.rate, receiver := h2.trans h.receiver, buffers := h3.trans h.buffers,
    reply := h4.trans h.reply, tx := h5.trans h.tx, faults := h6.trans h.faults,
    same := fun y hy => Part.same_trans (h.same y hy) (hm y hy) }

theorem setLink {r s : State} {l : LinkController} (h : Keeps p r s) (h1 : l.rate = s.link.rate := by rfl)
    (h2 : l.receiver = s.link.receiver := by rfl) (h3 : l.buffers = s.link.buffers := by rfl)
    (h4 : l.reply = s.link.reply := by rfl) (h5 : l.tx = s.link.tx := by rfl) (h6 : l.faults = s.link.faults := by rfl)
    (h7 : l.masked = s.link.masked := by rfl) (h8 : l.timeBase = s.link.timeBase := by rfl)
    (h9 : l.resetAsked = s.link.resetAsked := by rfl) : Keeps p r (s.setLink l) :=
  h.putLink h1 h2 h3 h4 h5 h6 (Or.inr h7) (Or.inr h8) (Or.inr h9)

theorem raise {r s : State} (i : ReportId) (x : ReportContent) (h : Keeps p r s) : Keeps p r (s.raise i x) :=
  h.setLink

theorem openJob {r s : State} (j : JobId) (k : JobKind) (n : Nat) (t : Byte) (h : Keeps p r s) :
    Keeps p r (s.openJob j k n t) := h.setLink

theorem endJob {r s : State} (j : JobId) (x : JobResult) (d : List Byte) (h : Keeps p r s) : Keeps p r (s.endJob j x d) := by
  unfold State.endJob LinkController.endJob
  split
  · exact h.setLink
  · exact h

theorem endJob? {r s : State} (j : Option JobId) (x : JobResult) (d : List Byte) (h : Keeps p r s) :
    Keeps p r (s.endJob? j x d) := by
  unfold State.endJob?
  split
  · exact h
  · exact h.endJob _ _ _

theorem withdraw {r s : State} (i : ReportId) (h : Keeps p r s) : Keeps p r (s.setLink (s.link.withdraw i)) := by
  unfold LinkController.withdraw
  split
  · exact h.setLink
  · exact h

theorem foldl {α : Type} {r : State} (f : State → α → State) (hf : ∀ s x, Keeps p r s → Keeps p r (f s x)) (l : List α) :
    ∀ {s}, Keeps p r s → Keeps p r (l.foldl f s) := by
  induction l with
  | nil => exact fun h => h
  | cons x l ih => exact fun h => ih (hf _ x h)

/-! ## Control side requests -/

theorem endRemoved {r s : State} (l : List QueueEntry) (h : Keeps p r s) : Keeps p r (s.endRemoved l) := by
  refine foldl _ (fun s e h => ?_) l h
  split
  · exact h.endJob _ _ _
  · exact h

theorem flushControl {r s : State} (c : Cam) (h : Keeps p r s) : Keeps p r (s.flushControl c) :=
  (h.setCtl c _ (fun _ => ControlRecord.flush_length _)).endRemoved _

theorem endPassThrough {r s : State} (w : PassCommand) (j : JobId) (e : CommandEnd) (h : Keeps p r s) :
    Keeps p r (s.endPassThrough w j e) := by
  cases e <;> exact h.endJob _ _ _

/-! ## Clips -/

theorem raiseClipReady {r s : State} (id : ClipId) (c : ClipCause) (h : Keeps p r s) : Keeps p r (s.raiseClipReady id c) := by
  unfold State.raiseClipReady
  split
  · exact h
  · exact h.raise _ _

theorem completeClip {r s : State} (id : ClipId) (c : ClipCause) (h : Keeps p r s) : Keeps p r (s.completeClip id c) := by
  unfold State.completeClip
  split
  · exact h
  · exact (h.setClip _ _).raiseClipReady _ _

theorem slotMoved {r s : State} (m : Option Moved) (h : Keeps p r s) : Keeps p r (s.slotMoved m) := by
  cases m with
  | none => exact h
  | some v => exact h.setClip _ _

theorem claimFor {r s : State} (id : ClipId) (c : Cam) (i : SlotNo) (q : Word32) (role : FrameRole) (h : Keeps p r s) :
    Keeps p r (s.claimFor id c i q role).1 := by
  have hm := SlotManager.claim_keeps id c i q (SlotManager.Keeps.refl s.slots)
  unfold State.claimFor
  dsimp only
  split
  · exact (h.setSlots hm).setClip _ _
  · exact (h.setSlots hm).setClip _ _
  · exact h

/-- The state a claim answers with, whatever the answer. -/
theorem claimFor_eq {r s t : State} {id : ClipId} {c : Cam} {i : SlotNo} {q : Word32} {role : FrameRole} {a : ClaimAnswer}
    (h : Keeps p r s) (e : s.claimFor id c i q role = (t, a)) : Keeps p r t := by
  have := h.claimFor id c i q role
  rw [e] at this
  exact this

theorem preWalk {r : State} (id : ClipId) (c : Cam) (l : List SlotNo) :
    ∀ (n : Nat) {s : State}, Keeps p r s → Keeps p r (s.preWalk id c n l) := by
  induction l with
  | nil => intro n s h; cases n <;> exact h
  | cons i l ih =>
    intro n s h
    cases n with
    | zero => exact h
    | succ n =>
      unfold State.preWalk
      split
      · split
        · rename_i e; exact ih _ (h.claimFor_eq e)
        · rename_i e; exact ih _ (h.claimFor_eq e)
        · rename_i e; exact (h.claimFor_eq e).mapClip _ _
        · rename_i e; exact ih _ (h.claimFor_eq e)
      · exact ih _ h

theorem openClip {r s : State} (id : ClipId) (k : TriggerKind) (c : Cam) (h : Keeps p r s) : Keeps p r (s.openClip id k c) := by
  unfold State.openClip
  dsimp only
  split
  · exact (preWalk _ _ _ _ (h.setClip _ _)).completeClip _ _
  · exact preWalk _ _ _ _ (h.setClip _ _)

theorem missTrigger {r s : State} (m : MissReason) (k : TriggerKind) (c : Cam) (h : Keeps p r s) :
    Keeps p r (s.missTrigger m k c) := (h.setClips _).raise _ _

theorem trigger {r s : State} (k : TriggerKind) (c : Cam) (h : Keeps p r s) : Keeps p r (s.trigger k c) := by
  unfold State.trigger
  dsimp only
  split
  · exact h
  · split
    · exact h.mapClip _ _
    · split
      · exact h.missTrigger _ _ _
      · split
        · exact h.missTrigger _ _ _
        · split
          · exact h.missTrigger _ _ _
          · exact h.openClip _ _ _

theorem testSetNext {r s : State} (id : ClipId) (h : Keeps p r s) : Keeps p r (s.testSetNext id) := by
  unfold State.testSetNext
  split
  · exact h
  · split
    · exact h
    · exact ((h.setClip _ _).completeClip _ _).endJob? _ _ _

theorem serveClip {r s : State} (c : Cam) (i : SlotNo) (q : Word32) (id : ClipId) (h : Keeps p r s) :
    Keeps p r (s.serveClip c i q id) := by
  unfold State.serveClip
  split
  · exact h
  · split
    · exact h
    · split
      · split
        · split
          · rename_i e; exact ((h.claimFor_eq e).mapClip _ _).completeClip _ _
          · rename_i e; exact h.claimFor_eq e
          · rename_i e; exact h.claimFor_eq e
          · rename_i e
            dsimp only
            split
            · exact ((h.claimFor_eq e).mapClip _ _).completeClip _ _
            · exact (h.claimFor_eq e).mapClip _ _
        · exact h
      · split
        · split
          · rename_i e; exact ((h.claimFor_eq e).mapClip _ _).testSetNext _
          · rename_i e; exact h.claimFor_eq e
          · rename_i e; exact h.claimFor_eq e
          · rename_i e; exact ((h.claimFor_eq e).mapClip _ _).testSetNext _
        · exact h
      · exact h

theorem publicationNotice {r s : State} (n : PublicationNotice) (h : Keeps p r s) :
    Keeps p r (s.publicationNotice n) :=
  foldl _ (fun _ id h => h.serveClip n.camera n.slot n.sequence id) _ (h.slotMoved _)

theorem cameraLeftClip {r s : State} (c : Cam) (id : ClipId) (h : Keeps p r s) : Keeps p r (s.cameraLeftClip c id) := by
  unfold State.cameraLeftClip
  split
  · exact h
  · split
    · exact h
    · split
      · split
        · exact (h.mapClip _ _).completeClip _ _
        · exact h
      · split
        · exact (h.mapClip _ _).testSetNext _
        · exact h
      · exact h

theorem clipNotice {r s : State} (c : Cam) (a b : CaptureState) (h : Keeps p r s) : Keeps p r (s.clipNotice c a b) := by
  unfold State.clipNotice
  split
  · exact foldl _ (fun _ id h => h.cameraLeftClip c id) _ h
  · exact h

theorem takeNewest {r : State} (id : ClipId) (l : List Cam) : ∀ {s : State}, Keeps p r s → Keeps p r (s.takeNewest id l) := by
  induction l with
  | nil => exact fun h => h
  | cons c l ih =>
    intro s h
    unfold State.takeNewest
    dsimp only
    split
    · exact ih (h.mapClip _ _)
    · split
      · split
        · rename_i e; exact foldl _ (fun _ _ h => h.mapClip _ _) _ ((h.claimFor_eq e).mapClip _ _)
        · rename_i e; exact ih ((h.claimFor_eq e).mapClip _ _)
        · rename_i e; exact ih ((h.claimFor_eq e).mapClip _ _)
        · rename_i e; exact ih ((h.claimFor_eq e).mapClip _ _)
      · exact ih (h.mapClip _ _)

/-! ## Soiling monitor -/

theorem markSoiled {r s : State} (c : Cam) (h : Keeps p r s) :
    Keeps p r ((s.setScreenA (s.screenA.markSoiled c)).setScreenB (s.screenB.markSoiled c)) :=
  h.of_same rfl rfl rfl rfl rfl rfl rfl (fun i => by cases i <;> rfl) rfl rfl
    (fun x _ => by cases x <;> first | rfl | exact fun _ => rfl | exact ⟨rfl, rfl⟩ | exact ⟨rfl, rfl, rfl, rfl⟩ | exact fun i => by cases i <;> exact ⟨rfl, rfl⟩)

theorem handSoilOn {r s : State} (c : Cam) (o : SoilState) (x : SoilCause) (h : Keeps p r s) :
    Keeps p r (s.handSoilOn c o x) := by
  unfold State.handSoilOn
  dsimp only
  split
  · exact h
  · refine raise _ _ ?_
    split
    · refine trigger _ _ ?_
      split
      · exact h.markSoiled c
      · exact h
    · split
      · exact h.markSoiled c
      · exact h

theorem changeSoil {r s : State} (c : Cam) (x : SoilRecord) (k : SoilCause) (h : Keeps p r s) :
    Keeps p r (s.changeSoil c x k) := (h.setSoilOf _ _).handSoilOn _ _ _

theorem requestHeater {r s : State} (c : Cam) (on : Bool) (h : Keeps p r s) : Keeps p r (s.requestHeater c on).1 := by
  unfold State.requestHeater
  dsimp only
  split
  · rename_i q e
    refine (h.setCtl _ _ (fun hl => ?_)).setSoilOf _ _
    rcases ControlRecord.heaterRequest_length e with x | x
    · omega
    · exact x
  · exact h.setSoilOf _ _

theorem requestHeater_eq {r s t : State} {c : Cam} {on b : Bool} (h : Keeps p r s) (e : s.requestHeater c on = (t, b)) :
    Keeps p r t := by
  have := h.requestHeater c on
  rw [e] at this
  exact this

theorem requestHeaterOff {r s : State} (c : Cam) (h : Keeps p r s) : Keeps p r (s.requestHeaterOff c) :=
  h.requestHeater c false

/-- The slot manager of a pin. -/
theorem pin_eq {m n : SlotManager} {c : Cam} {k : Reader} {i : Option SlotNo} (e : m.pinNewest c k = (n, i)) : m.Keeps n := by
  have := SlotManager.pinNewest_keeps c k (SlotManager.Keeps.refl m)
  rw [e] at this
  exact this

theorem unpin {r s : State} (i : SlotNo) (k : Reader) (h : Keeps p r s) : Keeps p r (s.setSlots (s.slots.unpin i k)) :=
  h.setSlots (SlotManager.unpin_keeps i k (SlotManager.Keeps.refl _))

theorem startExamination {r s : State} (c : Cam) (h : Keeps p r s) : Keeps p r (s.startExamination c).1 := by
  unfold State.startExamination
  split
  · exact h
  · rename_i m i e
    have hp := h.setSlots (pin_eq e)
    dsimp only
    split
    · exact hp.unpin _ _
    · split
      · split
        · exact ((hp.unpin _ _).changeSoil _ _ _).requestHeaterOff _
        · exact (hp.unpin _ _).changeSoil _ _ _
      · exact (hp.setSoilOf _ _).setSoil _ id

theorem startExamination_eq {r s t : State} {c : Cam} {x : StartResult} (h : Keeps p r s)
    (e : s.startExamination c = (t, x)) : Keeps p r t := by
  have := h.startExamination c
  rw [e] at this
  exact this

/-- Scanning the queue leaves a queue that is a part of the entries kept and the entries scanned. -/
theorem scanQueue {r : State} (l : List Cam) :
    ∀ (kept : List Cam) {s : State}, (QueueDistinct r → (kept ++ l).Nodup) → Keeps p r s →
      Keeps p r (s.scanQueue kept l).1 := by
  have setQ : ∀ {s : State} (q : List Cam), (QueueDistinct r → q.Nodup) → Keeps p r s →
      Keeps p r (s.setSoil { s.soil with queue := q }) := fun q hq h => { h with queue := hq }
  induction l with
  | nil =>
    intro kept s hn h
    unfold State.scanQueue
    exact setQ _ (fun x => by simpa using hn x) h
  | cons c l ih =>
    intro kept s hn h
    have drop : QueueDistinct r → (kept ++ l).Nodup := fun x =>
      (hn x).sublist (List.Sublist.append_left (List.sublist_cons_self c l) kept)
    have keep : QueueDistinct r → ((kept ++ [c]) ++ l).Nodup := fun x => by simpa using hn x
    unfold State.scanQueue
    split
    · split
      · rename_i e; exact setQ _ drop (h.startExamination_eq e)
      · rename_i e; exact ih _ drop (h.startExamination_eq e)
      · rename_i e; exact ih _ keep (h.startExamination_eq e)
    · split
      · exact ih _ keep h
      · exact ih _ drop h

theorem scanRotation {r : State} (l : List Cam) : ∀ {s : State}, Keeps p r s → Keeps p r (s.scanRotation l).1 := by
  induction l with
  | nil => exact fun h => h
  | cons c l ih =>
    intro s h
    unfold State.scanRotation
    split
    · have hr : Keeps p r (s.setSoil { s.soil with rotation := c }) := h.setSoil _ id
      split
      · rename_i e; exact hr.startExamination_eq e
      · rename_i e; exact ih (hr.startExamination_eq e)
      · exact ih h
    · exact ih h

theorem requestOwed {r s : State} (h : Keeps p r s) : Keeps p r s.requestOwed := by
  refine foldl _ (fun s c h => ?_) _ h
  split
  · exact h.requestHeaterOff c
  · exact h

theorem schedule {r s : State} (h : Keeps p r s) : Keeps p r s.schedule := by
  have ho := h.requestOwed
  have hn : QueueDistinct r → ([] ++ s.requestOwed.soil.queue).Nodup := fun x => by
    rw [List.nil_append]; exact ho.queue x
  have hq := scanQueue s.requestOwed.soil.queue [] hn ho
  unfold State.schedule
  dsimp only
  split
  · rename_i e; rw [e] at hq; exact hq
  · rename_i t e
    rw [e] at hq
    have hr := scanRotation (rotationOrder t.soil.rotation) hq
    split
    · rename_i e'; rw [e'] at hr; exact hr
    · rename_i e'; rw [e'] at hr; exact hr.setSoil _ id

theorem queueForExamination {r s : State} (c : Cam) (h : Keeps p r s) : Keeps p r (s.queueForExamination c) := by
  unfold State.queueForExamination
  split
  · exact h
  · rename_i hc
    have ha : Keeps p r (s.setSoil { s.soil with queue := s.soil.queue ++ [c] }) :=
      h.setSoil _ (fun x => by
        refine List.nodup_append.2 ⟨x, by simp, ?_⟩
        intro a ha b hb e
        rw [List.mem_singleton] at hb
        exact hc (hb ▸ e ▸ ha))
    dsimp only
    split
    · exact ha.schedule
    · exact ha

theorem confirm {r s : State} (c : Cam) (o : SoilState) (h : Keeps p r s) : Keeps p r (s.confirm c o) := by
  unfold State.confirm
  dsimp only
  split
  · split
    · split
      · rename_i e; exact ((h.requestHeater_eq e).setSoilOf _ _).handSoilOn _ _ _
      · rename_i e; exact ((h.requestHeater_eq e).setSoilOf _ _).handSoilOn _ _ _
    · exact (h.setSoilOf _ _).handSoilOn _ _ _
  · exact (h.setSoilOf _ _).handSoilOn _ _ _

theorem countTrial {r s : State} (c : Cam) (h : Keeps p r s) : Keeps p r (s.countTrial c) := by
  unfold State.countTrial
  dsimp only
  split
  · exact (h.changeSoil _ _ _).requestHeaterOff _
  · exact h.setSoilOf _ _

theorem applyVerdict {r s : State} (c : Cam) (v : Verdict) (h : Keeps p r s) : Keeps p r (s.applyVerdict c v) := by
  unfold State.applyVerdict
  dsimp only
  split
  · exact (h.setSoilOf _ _).confirm _ _
  · exact (h.setSoilOf _ _).confirm _ _
  · exact h.changeSoil _ _ _
  · split
    · exact (h.changeSoil _ _ _).requestHeaterOff _
    · exact (h.setSoilOf _ _).countTrial _
  · exact (h.setSoilOf _ _).countTrial _
  · exact h.countTrial _
  · split
    · exact h.changeSoil _ _ _
    · exact h.setSoilOf _ _
  · exact h.setSoilOf _ _
  · exact h.changeSoil _ _ _
  · exact h.changeSoil _ _ _
  · exact h

theorem evaluate {r s : State} (c : Cam) (h : Keeps p r s) : Keeps p r (s.evaluate c) := (h.setSoilOf _ _).applyVerdict _ _

theorem finishLearn {r s : State} (c : Cam) (g : Geometry) (h : Keeps p r s) : Keeps p r (s.finishLearn c g) := by
  unfold State.finishLearn
  dsimp only
  split <;> exact (h.changeSoil _ _ _).endJob? _ _ _

theorem loseLearn {r s : State} (c : Cam) (h : Keeps p r s) : Keeps p r (s.loseLearn c) := by
  unfold State.loseLearn
  dsimp only
  split
  · exact (h.changeSoil _ _ _).endJob? _ _ _
  · exact h

theorem addResult {r s : State} (e : Examination) (g : Geometry) (h : Keeps p r s) : Keeps p r (s.addResult e g) := by
  unfold State.addResult
  dsimp only
  split
  · split
    · exact (h.setSoilOf _ _).finishLearn _ _
    · exact h.setSoilOf _ _
  · split
    · exact (h.setSoilOf _ _).evaluate _
    · exact h.setSoilOf _ _

theorem endExamination {r s : State} (h : Keeps p r s) : Keeps p r s.endExamination := by
  unfold State.endExamination
  split
  · exact h
  · dsimp only
    refine schedule (setSoil _ id ?_)
    split
    · split
      · exact (h.unpin _ _).addResult _ _
      · exact h.unpin _ _
    · exact h.unpin _ _

theorem recheckExpired {r s : State} (h : Keeps p r s) : Keeps p r s.recheckExpired := by
  unfold State.recheckExpired
  split
  · exact h.schedule
  · exact h

theorem heaterResult {r s : State} (c : Cam) (on : Bool) (o : HeaterOutcome) (h : Keeps p r s) :
    Keeps p r (s.heaterResult c on o) := by
  unfold State.heaterResult
  dsimp only
  split
  · exact (h.changeSoil _ _ _).requestHeaterOff _
  · exact h.setSoilOf _ _

theorem wash {r s : State} (c : Cam) (h : Keeps p r s) : Keeps p r (s.wash c) := by
  unfold State.wash
  dsimp only
  split
  · exact (h.changeSoil _ _ _).queueForExamination _
  · exact (h.changeSoil _ _ _).queueForExamination _
  · exact (h.changeSoil _ _ _).queueForExamination _
  · exact ((h.changeSoil _ _ _).requestHeaterOff _).queueForExamination _
  · exact h

theorem soilStopped {r s : State} (c : Cam) (n : CaptureState) (h : Keeps p r s) : Keeps p r (s.soilStopped c n) := by
  unfold State.soilStopped
  dsimp only
  split
  · exact h.changeSoil _ _ _
  · split
    · exact (h.changeSoil _ _ _).requestHeaterOff _
    · exact h.changeSoil _ _ _
  · exact h.setSoilOf _ _

theorem soilNotice {r s : State} (c : Cam) (n : CaptureState) (h : Keeps p r s) : Keeps p r (s.soilNotice c n) := by
  unfold State.soilNotice
  split
  · exact h.loseLearn _
  · exact (h.loseLearn _).soilStopped _ _
  · exact (h.loseLearn _).soilStopped _ _
  · exact h

theorem setWatch {r s : State} (c : Cam) (a b : Bool) (h : Keeps p r s) : Keeps p r (s.setWatch c a b) := by
  unfold State.setWatch
  dsimp only
  split
  · exact h.changeSoil _ _ _
  · split
    · exact ((h.changeSoil _ _ _).endJob? _ _ _).requestHeaterOff _
    · exact (h.changeSoil _ _ _).endJob? _ _ _
  · exact h.setSoilOf _ _

theorem tune {r s : State} (t : Tuning) (h : Keeps p r s) (hp : ¬ p .tuning) : Keeps p r (s.tune t) :=
  h.setSoil _ id (Or.inl hp)

theorem beginLearn {r s : State} (c : Cam) (j : JobId) (t : Byte) (h : Keeps p r s) : Keeps p r (s.beginLearn c j t) :=
  (h.openJob _ _ _ _).changeSoil _ _ _

end Keeps

end Sys2Proof.Machine
end

