-- ==== Sys2Proof/Laws/KeepsBlocks.lean ====
section
/-! SUPPORT. What the camera ports, the screens, the door unit and the export engine never touch, and the bounds they keep. -/

-- One proof at a time: a thread for each at once is more than the memory limit lets Lean have.
set_option Elab.async false

namespace Sys2Proof.Machine

namespace Keeps

variable {p : Part → Prop}

/-! ## Camera ports -/

theorem raiseCamera {r s : State} (c : Cam) (x : CameraCause) (h : Keeps p r s) : Keeps p r (s.raiseCamera c x) := h.raise _ _

theorem raiseCameraAll {r s : State} (c : Cam) (l : List CameraCause) (h : Keeps p r s) : Keeps p r (s.raiseCameraAll c l) :=
  foldl _ (fun _ x h => h.raiseCamera c x) l h

theorem cameraNotice {r s : State} (c : Cam) (a b : CaptureState) (h : Keeps p r s) : Keeps p r (s.cameraNotice c a b) :=
  (h.soilNotice _ _).clipNotice _ _ _

theorem damageFrame {r s : State} (c : Cam) (k : DamageKind) (h : Keeps p r s) : Keeps p r (s.damageFrame c k).1 := by
  unfold State.damageFrame
  dsimp only
  split
  · exact h.setCam _ _
  · exact (h.setSlots (SlotManager.discard_keeps c (SlotManager.Keeps.refl _))).setCam _ _

theorem damageOnly {r s : State} (c : Cam) (k : DamageKind) (h : Keeps p r s) : Keeps p r (s.damageOnly c k) :=
  (h.damageFrame c k).raiseCameraAll _ _

theorem frameStartSeen {r s : State} (c : Cam) (f : FrameStart) (h : Keeps p r s) : Keeps p r (s.frameStartSeen c f).1 := by
  unfold State.frameStartSeen
  dsimp only
  split
  · exact h.setCamLive _ _ (Or.inr (Or.inr (Or.inl rfl)))
  · exact (h.setCamLive _ _ (Or.inr (Or.inr (Or.inl rfl)))).cameraNotice _ _ _

theorem takeFrame {r s : State} (c : Cam) (f : FrameStart) (h : Keeps p r s) : Keeps p r (s.takeFrame c f).1 := by
  unfold State.takeFrame
  dsimp only
  split
  · rename_i m i e
    have := SlotManager.take_keeps c
      (FrameFields.mk ((s.cam c).sequence + 1) f.number ((s.cam c).lastStart.getD s.now)
        ⟨(s.cam c).setup.width, (s.cam c).setup.height⟩) (SlotManager.Keeps.refl s.slots)
    rw [e] at this
    exact (h.setSlots this).setCam _ _
  · rename_i m e
    have := SlotManager.take_keeps c
      (FrameFields.mk ((s.cam c).sequence + 1) f.number ((s.cam c).lastStart.getD s.now)
        ⟨(s.cam c).setup.width, (s.cam c).setup.height⟩) (SlotManager.Keeps.refl s.slots)
    rw [e] at this
    exact (h.setSlots this).setCam _ _

theorem frameStart {r s : State} (c : Cam) (l : List Byte) (h : Keeps p r s) : Keeps p r (s.frameStart c l) := by
  unfold State.frameStart
  split
  · split
    · exact h
    · rename_i p e
      have h1 := h.frameStartSeen c p
      dsimp only
      refine raiseCameraAll _ _ ?_
      split <;> split
      · exact (h1.damageFrame _ _).takeFrame _ _
      · exact (h1.damageFrame _ _).damageFrame _ _
      · exact h1.takeFrame _ _
      · exact h1.damageFrame _ _
  · exact h

theorem publishFrame {r s : State} (c : Cam) (h : Keeps p r s) (hl : (s.cam c).state.HasRing) :
    Keeps p r (s.publishFrame c) := by
  have hm := h.setSlots (SlotManager.publish_keeps c (SlotManager.Keeps.refl s.slots))
  unfold State.publishFrame
  dsimp only
  have hn : ∀ n, Keeps (fun _ => True) s ((s.setSlots (s.slots.publish c).1).publicationNotice n) := fun n =>
    ((refl s).setSlots (SlotManager.publish_keeps c (SlotManager.Keeps.refl _))).publicationNotice n
  split
  · exact (hm.setCam _ _).raiseCameraAll _ _
  · rename_i n _
    exact ((hm.publicationNotice n).setCamLive _ _ (by exact hl) (by exact ((hn n).same .cameraSetups trivial c).symm)).raiseCameraAll _ _

theorem frameEnd {r s : State} (c : Cam) (l : List Byte) (h : Keeps p r s) : Keeps p r (s.frameEnd c l) := by
  unfold State.frameEnd
  dsimp only
  split
  · rename_i e
    split
    · exact h
    · split
      · exact h.publishFrame _ (CaptureState.hasRing_of_takesPackets e.1)
      · exact h.damageOnly _ _
  · exact h

theorem frameTimerExpired {r s : State} (c : Cam) (h : Keeps p r s) : Keeps p r (s.frameTimerExpired c) := by
  unfold State.frameTimerExpired
  dsimp only
  split
  · refine raiseCameraAll _ _ (cameraNotice _ _ _ (setCamLive _ _ ?_ (Or.inr (Or.inr (Or.inr rfl)))))
    split
    · exact h.damageFrame _ _
    · exact h
  · exact h

theorem admitted {r s : State} {c : Cam} {w : EntryWork} {q : ControlRecord} (e : (s.ctl c).enqueue w = some q)
    (h : Keeps p r s) : Keeps p r (s.setCtl c q) :=
  h.setCtl _ _ (fun _ => by have := ControlRecord.enqueue_length e; omega)

theorem recoveryTimerExpired {r s : State} (c : Cam) (h : Keeps p r s) : Keeps p r (s.recoveryTimerExpired c) := by
  unfold State.recoveryTimerExpired
  dsimp only
  split
  · split
    · exact h.setCam _ _
    · split
      · exact h.setCam _ _
      · rename_i e; exact (h.admitted e).setCam _ _
  · exact h

theorem dissolveRing {r s : State} (c : Cam) (h : Keeps p r s) : Keeps p r (s.dissolveRing c) :=
  (h.setSlots (SlotManager.dissolve_keeps c (SlotManager.Keeps.refl _))).slotMoved _

theorem slots_slotMoved (s : State) (m : Option Moved) : (s.slotMoved m).slots = s.slots := by cases m <;> rfl

theorem slots_endJob? (s : State) (j : Option JobId) (x : JobResult) (d : List Byte) : (s.endJob? j x d).slots = s.slots := by
  cases j <;> rfl

theorem slots_endRemoved (l : List QueueEntry) : ∀ s : State, (s.endRemoved l).slots = s.slots := by
  induction l with
  | nil => exact fun _ => rfl
  | cons e l ih => exact fun s => (ih _).trans (by dsimp only; split <;> rfl)

theorem slots_flushControl (s : State) (c : Cam) : (s.flushControl c).slots = s.slots := slots_endRemoved _ _

theorem ring_dissolveRing (s : State) (c : Cam) : (s.dissolveRing c).slots.ring c = none := by
  unfold State.dissolveRing
  dsimp only
  rw [slots_slotMoved]
  exact SlotManager.ring_dissolve _ _

theorem stopCamera {r s : State} (c : Cam) (h : Keeps p r s) : Keeps p r (s.stopCamera c) :=
  (((((((h.setCam _ _).dissolveRing _).setCam _ _).flushControl _).endJob? _ _ _).setCamBare _ _ (fun _ => by
    rw [slots_endJob?, slots_flushControl]
    exact ring_dissolveRing _ _)).cameraNotice _ _ _).raiseCamera _ _

theorem failCamera {r s : State} (c : Cam) (x : CameraCause) (h : Keeps p r s) : Keeps p r (s.failCamera c x) :=
  ((((h.setCam _ _).dissolveRing _).setCamBare _ _ (fun _ => ring_dissolveRing _ _)).cameraNotice _ _ _).raiseCamera _ _

theorem beginSearch {r s : State} (c : Cam) (q : CameraRecord) (x : CameraCause) (h : Keeps p r s)
    (hq : q.setup = (s.cam c).setup := by rfl) : Keeps p r (s.beginSearch c q x) :=
  ((h.setCamLive _ _ (Or.inr (Or.inl rfl)) (by exact hq)).cameraNotice _ _ _).raiseCamera _ _

theorem bringUpEnded {r s : State} (c : Cam) (x : Option FailCode) (h : Keeps p r s) : Keeps p r (s.bringUpEnded c x) := by
  unfold State.bringUpEnded
  dsimp only
  split
  · exact (h.beginSearch _ _ _).endJob? _ _ _
  · exact ((h.setCam _ _).failCamera _ _).endJob? _ _ _
  · exact h.beginSearch _ _ _
  · exact (h.setCam _ _).failCamera _ _
  · exact h.setCam _ _
  · exact (h.setCam _ _).raiseCameraAll _ _
  · exact h

theorem streamOffEnded {r s : State} (c : Cam) (x : Option FailCode) (h : Keeps p r s) : Keeps p r (s.streamOffEnded c x) := by
  unfold State.streamOffEnded
  dsimp only
  split
  · rename_i e
    exact ((h.setCamBare _ _ (fun y => y.ring_none (by rw [e]; decide))).cameraNotice _ _ _).raiseCamera _ _
  · exact h

/-! ## Control path -/

/-- A control record with no more entries than the one it replaces. -/
theorem setCtlLe {r s : State} (c : Cam) {q : ControlRecord} (hq : q.queue.length ≤ (s.ctl c).queue.length)
    (h : Keeps p r s) : Keeps p r (s.setCtl c q) := h.setCtl _ _ (fun x => by omega)

theorem pumpControl {r s : State} (c : Cam) (h : Keeps p r s) : Keeps p r (s.pumpControl c) := h.setCtlLe c (by simp)

theorem popControl {r s : State} (c : Cam) (h : Keeps p r s) : Keeps p r (s.popControl c) :=
  h.setCtlLe c (ControlRecord.length_popped _)

theorem endBringUpStep {r s : State} (c : Cam) (b : BringUpStep) (x : CommandEnd) (h : Keeps p r s) :
    Keeps p r (s.endBringUpStep c b x) := by
  unfold State.endBringUpStep
  split
  · exact (h.setCam _ _).setCtlLe c (by simp [State.ctl, State.setCam, State.setCameras])
  · exact h.setCtlLe c (by simp)
  · exact (h.popControl _).bringUpEnded _ _
  · exact (h.popControl _).bringUpEnded _ _

theorem endEntry {r s : State} (c : Cam) (e : QueueEntry) (x : CommandEnd) (h : Keeps p r s) : Keeps p r (s.endEntry c e x) := by
  unfold State.endEntry
  split
  · split
    · exact (h.popControl _).endPassThrough _ _ _
    · exact h.popControl _
  · split
    · exact h.endBringUpStep _ _ _
    · exact (h.popControl _).streamOffEnded _ _
    · exact (h.popControl _).heaterResult _ _ _
    · exact (h.popControl _).endPassThrough _ _ _

theorem endCommand {r s : State} (c : Cam) (x : CommandEnd) (h : Keeps p r s) : Keeps p r (s.endCommand c x) := by
  have hi : Keeps p r (s.setCtl c (s.ctl c).idled) := h.setCtlLe c (by simp)
  unfold State.endCommand
  dsimp only
  split
  · exact hi
  · exact (hi.endEntry _ _ _).pumpControl _

theorem failAttempt {r s : State} (c : Cam) (h : Keeps p r s) : Keeps p r (s.failAttempt c) := by
  unfold State.failAttempt
  split
  · exact h.setCtlLe c (by simp)
  · exact h.endCommand _ _

theorem cameraResponse {r s : State} (c : Cam) (l : List Byte) (h : Keeps p r s) : Keeps p r (s.cameraResponse c l) := by
  unfold State.cameraResponse
  split
  · exact h
  · split
    · exact h.failAttempt _
    · exact h.endCommand _ _

theorem responseTimerExpired {r s : State} (c : Cam) (h : Keeps p r s) : Keeps p r (s.responseTimerExpired c) := by
  unfold State.responseTimerExpired
  split
  · exact h.failAttempt _
  · exact h

theorem commandLastByteSent {r s : State} (c : Cam) (h : Keeps p r s) : Keeps p r (s.commandLastByteSent c) :=
  h.setCtlLe c (by simp)

/-! ## Screens -/

theorem raiseView {r s : State} (i : ScreenId) (x : ViewCause) (h : Keeps p r s) : Keeps p r (s.raiseView i x) := h.raise _ _

theorem forceEnd {r s : State} (i : ScreenId) (h : Keeps p r s) : Keeps p r (s.forceEnd i) := by
  unfold State.forceEnd
  split
  · exact (h.setScreen _ _).raiseView _ _
  · exact h

theorem resolveTile {r s : State} (i : ScreenId) (t : BuiltTile) (h : Keeps p r s) : Keeps p r (s.resolveTile i t).1 := by
  unfold State.resolveTile
  dsimp only
  split
  · exact h
  · split
    · exact h
    · split
      · exact h
      · split
        · exact h
        · rename_i e; exact h.setSlots (pin_eq e)

theorem resolveTiles {r : State} (i : ScreenId) (l : List BuiltTile) :
    ∀ {s : State}, Keeps p r s → Keeps p r (s.resolveTiles i l).1 := by
  induction l with
  | nil => exact fun h => h
  | cons t l ih => exact fun h => ih (h.resolveTile i t)

theorem startOutputFrame {r s : State} (i : ScreenId) (anew : Bool) (h : Keeps p r s) :
    Keeps p r (s.startOutputFrame i anew) := by
  have h1 : Keeps p r (s.setScreen i { s.screen i with frameCount := (s.screen i).frameCount + 1 }) := h.setScreen _ _
  unfold State.startOutputFrame
  dsimp only
  split
  · exact (h1.resolveTiles i _).setScreen _ _
  · exact ((h1.resolveTiles i _).setScreen _ _).raiseView _ _

theorem unpinAll {m n : SlotManager} (k : Reader) (l : List SlotNo) (h : m.Keeps n) :
    m.Keeps (l.foldl (fun m i => m.unpin i k) n) := by
  induction l generalizing n with
  | nil => exact h
  | cons i l ih => exact ih (SlotManager.unpin_keeps i k h)

theorem endOutputFrame {r s : State} (i : ScreenId) (h : Keeps p r s) : Keeps p r (s.endOutputFrame i) :=
  (h.setSlots (unpinAll _ _ (SlotManager.Keeps.refl _))).setScreen _ _

theorem outputFrameEnds {r s : State} (i : ScreenId) (h : Keeps p r s) : Keeps p r (s.outputFrameEnds i) := by
  unfold State.outputFrameEnds
  split
  · exact (h.endOutputFrame _).startOutputFrame _ _
  · exact h

theorem cutOutputFrame {r s : State} (i : ScreenId) (h : Keeps p r s) : Keeps p r (s.cutOutputFrame i) := by
  unfold State.cutOutputFrame
  split
  · exact (h.endOutputFrame _).startOutputFrame _ _
  · exact h

theorem holdOverExpired {r s : State} (i : ScreenId) (h : Keeps p r s) : Keeps p r (s.holdOverExpired i) := by
  unfold State.holdOverExpired
  split
  · exact h.setSplit _ _ (fun _ => SplitRecord.cleared_bounded _)
  · exact h

/-! ## Door unit -/

theorem plannerBatch {r s : State} (i : ScreenId) (l : List DoorNotice) (h : Keeps p r s) : Keeps p r (s.plannerBatch i l) := by
  have h1 := h.setSplit i _ (SplitRecord.batch_bounded s.doors s.now l)
  unfold State.plannerBatch
  dsimp only
  refine setSplit _ _ (SplitRecord.testHoldOver_bounded _ _) ?_
  split
  · exact h1.forceEnd _
  · exact h1

theorem handNotices {r s : State} (l : List DoorNotice) (h : Keeps p r s) : Keeps p r (s.handNotices l) := by
  unfold State.handNotices
  split
  · exact h
  · split
    · exact h
    · exact h.plannerBatch _ _

theorem handSnapshot {r s : State} (h : Keeps p r s) : Keeps p r s.handSnapshot := by
  unfold State.handSnapshot
  split
  · exact h
  · exact h.setSplit _ _ (fun _ => SplitRecord.snapshot_bounded _ _ _ _)

theorem handJoins {r s : State} (l : List Cam) (h : Keeps p r s) : Keeps p r (s.handJoins l) :=
  foldl _ (fun _ c h => h.queueForExamination c) l h

theorem recomputeAttention {r s : State} (l : List DoorNotice) (h : Keeps p r s) (hp : ¬ p .attention) :
    Keeps p r (s.recomputeAttention l) :=
  ((h.setDoors _ (h6 := Or.inl hp)).handNotices _).handJoins _

theorem recomputeToSnapshot {r s : State} (h : Keeps p r s) (hp : ¬ p .attention) : Keeps p r s.recomputeToSnapshot :=
  ((h.setDoors _ (h6 := Or.inl hp)).handSnapshot).handJoins _

theorem doorTrigger {r s : State} (i : Door) (x : DoorState) (h : Keeps p r s) : Keeps p r (s.doorTrigger i x) := by
  unfold State.doorTrigger
  split
  · exact h.trigger _ _
  · exact h.trigger _ _
  · exact h

theorem raiseDoorStale {r s : State} (h : Keeps p r s) : Keeps p r s.raiseDoorStale := h.raise _ _

theorem writeDoorMap {r s : State} (m : Vector DoorMapRecord 12) (h : Keeps p r s) (hp : ¬ p .doorMap)
    (ha : ¬ p .attention) : Keeps p r (s.writeDoorMap m) := by
  have h1 := h.setDoors { s.doors with map := m } (h1 := Or.inl hp)
  unfold State.writeDoorMap
  dsimp only
  split
  · exact h1.recomputeAttention _ ha
  · exact h1

theorem writeDoorTable {r s : State} (f : Door → DoorState) (h : Keeps p r s) (hp : ¬ p .doorTable)
    (hf : ¬ p .freshness) (ha : ¬ p .attention) : Keeps p r (s.writeDoorTable f) := by
  unfold State.writeDoorTable
  dsimp only
  refine foldl _ (fun s i h => ?_) _ ?_
  · split
    · exact h
    · exact h.doorTrigger _ _
  · split
    · exact (h.setDoors _ (h3 := Or.inl hp) (h4 := Or.inl hf)).recomputeAttention _ ha
    · exact ((h.setDoors _ (h3 := Or.inl hp) (h4 := Or.inl hf)).recomputeToSnapshot ha).raiseDoorStale

theorem writeDoor {r s : State} (i : Door) (x : DoorState) (h : Keeps p r s) (hp : ¬ p .doorTable)
    (ha : ¬ p .attention) : Keeps p r (s.writeDoor i x) := by
  unfold State.writeDoor
  dsimp only
  split
  · exact h
  · exact ((h.setDoors _ (h3 := Or.inl hp)).recomputeAttention _ ha).doorTrigger _ _

theorem freshnessExpired {r s : State} (h : Keeps p r s) (hf : ¬ p .freshness) (ha : ¬ p .attention) :
    Keeps p r s.freshnessExpired := by
  have h1 := h.setDoors { s.doors with fresh := false, timer := none, attention := noAttention } (h4 := Or.inl hf)
    (h6 := Or.inl ha)
  unfold State.freshnessExpired
  dsimp only
  split
  · refine raiseDoorStale ?_
    split
    · exact h1
    · exact h1.setSplit _ _ (fun _ => SplitRecord.cleared_bounded _)
  · exact h

theorem setFreshness {r s : State} (n : Nat) (h : Keeps p r s) (hf : ¬ p .freshness) : Keeps p r (s.setFreshness n) := by
  unfold State.setFreshness
  dsimp only
  split
  · exact h.setDoors _ (h4 := Or.inl hf)
  · exact h.setDoors _ (h4 := Or.inl hf)

theorem setCab {r s : State} (x : Cab) (h : Keeps p r s) (hp : ¬ p .cab) (ha : ¬ p .attention) :
    Keeps p r (s.setCab x) := by
  have h1 := h.setDoors { s.doors with cab := x } (h5 := Or.inl hp)
  unfold State.setCab
  dsimp only
  split
  · exact h
  · split
    · split
      · exact h1.recomputeToSnapshot ha
      · exact h1
    · have h2 : ∀ i, Keeps p r ((s.setDoors { s.doors with cab := x }).setSplit i
          ((s.setDoors { s.doors with cab := x }).split i).cleared) :=
        fun i => h1.setSplit _ _ (fun _ => SplitRecord.cleared_bounded _)
      split
      · exact ((h2 _).cutOutputFrame _).recomputeToSnapshot ha
      · exact (h2 _).cutOutputFrame _

theorem setScreenSetup {r s : State} (i : ScreenId) (x : ScreenSetup) (h : Keeps p r s) (hp : ¬ p .screenSetups)
    (ha : ¬ p .attention) : Keeps p r (s.setScreenSetup i x) := by
  have h1 := h.setScreen i { s.screen i with setup := x } (Or.inl hp)
  unfold State.setScreenSetup State.showReleasedChanged
  dsimp only
  split
  · split
    · exact h1.recomputeAttention _ ha
    · exact h1
  · exact h1

/-! ## Export engine -/

theorem returnClip {r s : State} (k : ClipId) (h : Keeps p r s) : Keeps p r (s.returnClip k) := h.completeClip _ _

theorem stageOrWait {r s : State} (h : Keeps p r s) : Keeps p r s.stageOrWait := by
  unfold State.stageOrWait
  dsimp only
  split
  · exact h
  · split
    · exact h
    · split
      · split
        · exact h
        · exact h.setExporter _
      · split
        · exact h.setExporter _
        · exact h

theorem fillEnds {r s : State} (h : Keeps p r s) : Keeps p r s.fillEnds := by
  unfold State.fillEnds
  dsimp only
  split
  · exact (h.setExporter _).stageOrWait
  · exact h

theorem transmissionEnds {r s : State} (h : Keeps p r s) : Keeps p r s.transmissionEnds := by
  unfold State.transmissionEnds
  dsimp only
  split
  · exact h.setExporter _
  · split
    · exact h.setExporter _
    · split
      · exact ((h.endJob _ _ _).setExporter _).returnClip _
      · exact (h.setExporter _).stageOrWait

theorem stallExpired {r s : State} (h : Keeps p r s) : Keeps p r s.stallExpired := by
  unfold State.stallExpired
  dsimp only
  split
  · exact h
  · split
    · exact ((h.endJob _ _ _).setExporter _).returnClip _
    · exact h

theorem abortExport {r s : State} (e : ExportRecord) (h : Keeps p r s) : Keeps p r (s.abortExport e) :=
  ((h.endJob _ _ _).setExporter _).returnClip _

theorem beginExport {r s : State} (e : ExportRecord) (t : Byte) (h : Keeps p r s) : Keeps p r (s.beginExport e t) := by
  unfold State.beginExport
  exact (((h.openJob _ _ _ _).mapClip _ _).setExporter _).stageOrWait

theorem releaseClip {r s : State} (k : ClipId) (x : Clip) (h : Keeps p r s) : Keeps p r (s.releaseClip k x) := by
  have last : ∀ {s : State}, Keeps p r s → Keeps p r
      (((s.setSlots (s.slots.release k (x.frames.map (·.slot)))).setLink
        ((s.setSlots (s.slots.release k (x.frames.map (·.slot)))).link.withdraw (.clipReady k))).setClip k none) :=
    fun h => ((h.setSlots (SlotManager.release_keeps _ _ (SlotManager.Keeps.refl _))).withdraw _).setClip _ _
  unfold State.releaseClip
  dsimp only
  split
  · split
    · exact last ((h.abortExport _).endJob? _ _ _)
    · exact last (h.endJob? _ _ _)
  · split
    · exact last (h.abortExport _)
    · exact last h

end Keeps

end Sys2Proof.Machine
end

