-- ==== Sys2Proof/Laws/KeepsRequests.lean ====
section
/-! SUPPORT. What a served request never touches, and the bounds it keeps. -/

-- One proof at a time: a thread for each at once is more than the memory limit lets Lean have.
set_option Elab.async false

namespace Sys2Proof.Machine

namespace Keeps

variable {p : Part → Prop}

theorem openedJob {r s : State} {c : Cam} {q : ControlRecord} {w : EntryWork} (j : JobId) (k : JobKind) (n : Nat) (t : Byte)
    (e : (s.ctl c).enqueue w = some q) (h : Keeps p r s) : Keeps p r ((s.openJob j k n t).setCtl c q) :=
  (h.openJob j k n t).setCtl _ _ (fun _ => by have := ControlRecord.enqueue_length e; omega)

theorem serveReportMask {r s : State} (t : Byte) (b : List Byte) (h : Keeps p r s)
    (hp : ¬ p .masks) : Keeps p r (serveReportMask s t b).1 := by
  unfold Machine.serveReportMask
  dsimp only
  split
  · exact h
  · exact h.putLink rfl rfl rfl rfl rfl rfl (Or.inl hp) (Or.inr rfl) (Or.inr rfl)

theorem serveSlotQuery {r s : State} (t : Byte) (b : List Byte) (h : Keeps p r s) : Keeps p r (serveSlotQuery s t b).1 := by
  unfold Machine.serveSlotQuery
  dsimp only
  split
  · exact h
  · split <;> exact h

theorem serveHoldLimitSet {r s : State} (t : Byte) (b : List Byte) (h : Keeps p r s)
    (hp : ¬ p .holdLimit) :
    Keeps p r (serveHoldLimitSet s t b).1 := by
  unfold Machine.serveHoldLimitSet
  dsimp only
  split
  · exact h
  · split
    · exact h
    · exact h.putSlots (fun _ => ⟨by simp only; omega, by simp only; omega⟩) id
        (fun x => SlotManager.accounted_of_places x (fun _ => rfl) x.pins rfl rfl rfl rfl) (Or.inl hp)
        (fun a b => (h.rings a b).setSlots fun _ _ e => e)

theorem serveCameraSetup {r s : State} (t : Byte) (b : List Byte) (h : Keeps p r s)
    (hp : ¬ p .cameraSetups) :
    Keeps p r (serveCameraSetup s t b).1 := by
  unfold Machine.serveCameraSetup
  split
  · exact h
  · split
    · exact h
    · rename_i e
      split
      · rename_i hs
        exact h.putCam _ _ (fun _ => by exact e) (Or.inl hp)
          (fun y => Or.inl (y.ring_none (CaptureState.not_hasRing_of_stopped hs)))
      · exact h

/-- The state changes of an accepted CAMERA_START (R27). -/
theorem startedCamera {r s : State} {c : Cam} {m : SlotManager} {q : ControlRecord} {w : EntryWork} {j : JobId} {t : Byte}
    (h : Keeps p r s) (hs : ¬ (s.cam c).state.stopped = false)
    (em : s.slots.establish c (s.cam c).setup.depth = some m) (e : (s.ctl c).enqueue w = some q) :
    Keeps p r ((((s.setSlots m).openJob j .cameraStart c.val t).setCtl c q).setCam c ((s.cam c).started j)) := by
  have hn : RingsFit s → s.slots.ring c = none := fun y =>
    y.ring_none (CaptureState.not_hasRing_of_stopped (by simpa using hs))
  let u := ((s.openJob j .cameraStart c.val t).setCtl c q).setCam c ((s.cam c).started j)
  have h2 : Keeps p r u := (h.openedJob _ _ _ _ e).setCamBare _ _ hn
  have hl := SlotManager.establish_limits c _ (SlotManager.Limits.refl s.slots) em
  have hu : u.cam c = (s.cam c).started j := State.setCam_cam _ _ _
  have h3 : Keeps p r (u.setSlots m) :=
    putSlots hl.hold hl.pool (fun x => SlotManager.accounted_establish x c _ em) (Or.inr hl.limit)
      (fun a b => (h2.rings a b).establish (h2.accounts a) (by rw [hu]; exact em) (hn (h.rings a b))
        (by rw [hu]; exact Or.inl rfl)) h2
  exact h3

theorem serveCameraStart {r s : State} (t : Byte) (b : List Byte) (h : Keeps p r s) :
    Keeps p r (serveCameraStart s t b).1 := by
  unfold Machine.serveCameraStart
  dsimp only
  split
  · exact h
  · split
    · exact h
    · rename_i hs
      split
      · exact h
      · rename_i e
        split
        · exact h
        · split
          · exact h
          · rename_i em
            refine raiseCameraAll _ _ (cameraNotice _ _ _ (h.startedCamera hs em e))

theorem serveCameraStop {r s : State} (t : Byte) (b : List Byte) (h : Keeps p r s) : Keeps p r (serveCameraStop s t b).1 := by
  unfold Machine.serveCameraStop
  split
  · exact h
  · split
    · exact h
    · exact h
    · exact h
    · exact h.stopCamera _

theorem serveCameraQuery {r s : State} (t : Byte) (b : List Byte) (h : Keeps p r s) :
    Keeps p r (serveCameraQuery s t b).1 := by
  unfold Machine.serveCameraQuery
  split <;> exact h

theorem serveCameraCommand {r s : State} (t : Byte) (b : List Byte) (h : Keeps p r s) :
    Keeps p r (serveCameraCommand s t b).1 := by
  unfold Machine.serveCameraCommand
  split
  · exact h
  · exact h
  · split
    · exact h
    · split
      · exact h
      · split
        · exact h
        · split
          · exact h
          · split
            · exact h
            · rename_i e; exact h.openedJob _ _ _ _ e

theorem serveDoorMap {r s : State} (t : Byte) (b : List Byte) (h : Keeps p r s)
    (hp : ¬ p .doorMap) (ha : ¬ p .attention) : Keeps p r (serveDoorMap s t b).1 := by
  unfold Machine.serveDoorMap
  split
  · exact h
  · exact h.writeDoorMap _ hp ha

theorem serveEndMap {r s : State} (t : Byte) (b : List Byte) (h : Keeps p r s)
    (hp : ¬ p .endMap) : Keeps p r (serveEndMap s t b).1 := by
  unfold Machine.serveEndMap
  split
  · exact h
  · exact h
  · exact h.setDoors _ (h2 := Or.inl hp)

theorem serveDoorTable {r s : State} (t : Byte) (b : List Byte) (h : Keeps p r s)
    (hp : ¬ p .doorTable) (hf : ¬ p .freshness) (ha : ¬ p .attention) : Keeps p r (serveDoorTable s t b).1 := by
  unfold Machine.serveDoorTable
  split
  · exact h
  · exact h.writeDoorTable (fun d => (bodyState b d.val).getD .locked) hp hf ha

theorem serveDoorChange {r s : State} (t : Byte) (b : List Byte) (h : Keeps p r s)
    (hp : ¬ p .doorTable) (ha : ¬ p .attention) : Keeps p r (serveDoorChange s t b).1 := by
  unfold Machine.serveDoorChange
  split
  · exact h
  · exact h
  · split
    · exact h.writeDoor _ _ hp ha
    · exact h

theorem serveDoorFreshnessSet {r s : State} (t : Byte) (b : List Byte) (h : Keeps p r s)
    (hf : ¬ p .freshness) :
    Keeps p r (serveDoorFreshnessSet s t b).1 := by
  unfold Machine.serveDoorFreshnessSet
  dsimp only
  split
  · exact h
  · exact h.setFreshness _ hf

theorem serveCabSet {r s : State} (t : Byte) (b : List Byte) (h : Keeps p r s)
    (hp : ¬ p .cab) (ha : ¬ p .attention) : Keeps p r (serveCabSet s t b).1 := by
  unfold Machine.serveCabSet
  split
  · exact h
  · exact h.setCab _ hp ha

theorem serveScreenSetup {r s : State} (t : Byte) (b : List Byte) (h : Keeps p r s)
    (hp : ¬ p .screenSetups) (ha : ¬ p .attention) :
    Keeps p r (serveScreenSetup s t b).1 := by
  unfold Machine.serveScreenSetup
  dsimp only
  split
  · exact h
  · split
    · exact h
    · split
      · exact h
      · exact h.setScreenSetup _ _ hp ha

theorem serveLayoutWrite {r s : State} (t : Byte) (b : List Byte) (h : Keeps p r s)
    (hp : ¬ p .layouts) :
    Keeps p r (serveLayoutWrite s t b).1 := by
  unfold Machine.serveLayoutWrite
  split
  · exact h
  · exact h
  · split
    · exact h
    · split
      · exact h
      · split
        · exact h
        · exact h.setLayouts _ hp

theorem serveLayoutSelect {r s : State} (t : Byte) (b : List Byte) (h : Keeps p r s)
    (hp : ¬ p .screenSetups) :
    Keeps p r (serveLayoutSelect s t b).1 := by
  unfold Machine.serveLayoutSelect
  dsimp only
  split
  · exact h
  · exact h
  · exact h.setScreen _ _ (Or.inl hp)

theorem serveLayoutForce {r s : State} (t : Byte) (b : List Byte) (h : Keeps p r s) :
    Keeps p r (serveLayoutForce s t b).1 := by
  unfold Machine.serveLayoutForce
  dsimp only
  split
  · exact h
  · exact h
  · exact h.setScreen _ _

theorem serveScreenQuery {r s : State} (t : Byte) (b : List Byte) (h : Keeps p r s) :
    Keeps p r (serveScreenQuery s t b).1 := by
  unfold Machine.serveScreenQuery
  split <;> exact h

theorem serveLayoutQuery {r s : State} (t : Byte) (b : List Byte) (h : Keeps p r s) :
    Keeps p r (serveLayoutQuery s t b).1 := by
  unfold Machine.serveLayoutQuery
  split <;> exact h

theorem serveSoilSetup {r s : State} (t : Byte) (b : List Byte) (h : Keeps p r s) : Keeps p r (serveSoilSetup s t b).1 := by
  unfold Machine.serveSoilSetup
  split
  · exact h
  · exact h
  · exact h
  · exact h.setWatch _ _ _

theorem serveSoilTune {r s : State} (t : Byte) (b : List Byte) (h : Keeps p r s)
    (hp : ¬ p .tuning) : Keeps p r (serveSoilTune s t b).1 := by
  unfold Machine.serveSoilTune
  split
  · exact h
  · exact h.tune _ hp

theorem serveSoilLearn {r s : State} (t : Byte) (b : List Byte) (h : Keeps p r s) : Keeps p r (serveSoilLearn s t b).1 := by
  unfold Machine.serveSoilLearn
  dsimp only
  split
  · exact h
  · split
    · exact h
    · split
      · exact h
      · split
        · exact h
        · split
          · exact h
          · split
            · exact h
            · exact h.beginLearn _ _ _

theorem serveWashDone {r s : State} (t : Byte) (b : List Byte) (h : Keeps p r s) : Keeps p r (serveWashDone s t b).1 := by
  unfold Machine.serveWashDone
  dsimp only
  split
  · exact h
  · exact foldl _ (fun _ c h => h.wash c) _ h

theorem serveSoilQuery {r s : State} (t : Byte) (b : List Byte) (h : Keeps p r s) : Keeps p r (serveSoilQuery s t b).1 := by
  unfold Machine.serveSoilQuery
  split <;> exact h

theorem serveTriggerMapSet {r s : State} (t : Byte) (b : List Byte) (h : Keeps p r s)
    (hp : ¬ p .triggerMap) :
    Keeps p r (serveTriggerMapSet s t b).1 := by
  unfold Machine.serveTriggerMapSet
  split
  · exact h
  · exact h.setClips _ (Or.inl hp)

theorem serveClipTake {r s : State} (t : Byte) (b : List Byte) (h : Keeps p r s) : Keeps p r (serveClipTake s t b).1 := by
  unfold Machine.serveClipTake
  dsimp only
  split
  · exact h
  · split
    · exact h
    · split
      · split
        · exact h
        · exact ((h.openJob _ _ _ _).setClip _ _).testSetNext _
      · exact (takeNewest _ _ (h.setClip _ _)).completeClip _ _

theorem serveClipRelease {r s : State} (t : Byte) (b : List Byte) (h : Keeps p r s) :
    Keeps p r (serveClipRelease s t b).1 := by
  unfold Machine.serveClipRelease
  split
  · exact h
  · split
    · exact h
    · exact h.releaseClip _ _

theorem serveClipQuery {r s : State} (t : Byte) (b : List Byte) (h : Keeps p r s) : Keeps p r (serveClipQuery s t b).1 := by
  unfold Machine.serveClipQuery
  split <;> exact h

theorem serveExport {r s : State} (t : Byte) (b : List Byte) (h : Keeps p r s) : Keeps p r (serveExport s t b).1 := by
  unfold Machine.serveExport
  split
  · exact h
  · exact h
  · split
    · exact h
    · split
      · exact h
      · split
        · exact h
        · split
          · exact h
          · split
            · exact h
            · dsimp only; exact h.beginExport _ _

theorem serveExportAbort {r s : State} (t : Byte) (b : List Byte) (h : Keeps p r s) :
    Keeps p r (serveExportAbort s t b).1 := by
  unfold Machine.serveExportAbort
  split
  · exact h
  · split
    · exact h
    · exact h.abortExport _

/-- A served request, whatever its kind. -/
theorem serve {r s : State} (k : RequestKind) (t : Byte) (b : List Byte) (h : Keeps p r s)
    (hw : ∀ x, requestWrites k x = true → ¬ p x) : Keeps p r (serve k s t b).1 := by
  cases k
  case partInfo => exact h
  case linkQuery => exact h
  case reportMask => exact h.serveReportMask t b (hw .masks rfl)
  case timeSet => exact h.putLink rfl rfl rfl rfl rfl rfl (Or.inr rfl) (Or.inl (hw .timeBase rfl)) (Or.inr rfl)
  case reset => exact h.putLink rfl rfl rfl rfl rfl rfl (Or.inr rfl) (Or.inr rfl) (Or.inl (hw .resetAsked rfl))
  case slotQuery => exact h.serveSlotQuery t b
  case holdLimitSet => exact h.serveHoldLimitSet t b (hw .holdLimit rfl)
  case cameraSetup => exact h.serveCameraSetup t b (hw .cameraSetups rfl)
  case cameraStart => exact h.serveCameraStart t b
  case cameraStop => exact h.serveCameraStop t b
  case cameraQuery => exact h.serveCameraQuery t b
  case cameraCommand => exact h.serveCameraCommand t b
  case doorMap => exact h.serveDoorMap t b (hw .doorMap rfl) (hw .attention rfl)
  case endMap => exact h.serveEndMap t b (hw .endMap rfl)
  case doorTable => exact h.serveDoorTable t b (hw .doorTable rfl) (hw .freshness rfl) (hw .attention rfl)
  case doorChange => exact h.serveDoorChange t b (hw .doorTable rfl) (hw .attention rfl)
  case doorFreshnessSet => exact h.serveDoorFreshnessSet t b (hw .freshness rfl)
  case cabSet => exact h.serveCabSet t b (hw .cab rfl) (hw .attention rfl)
  case doorQuery => exact h
  case screenSetup => exact h.serveScreenSetup t b (hw .screenSetups rfl) (hw .attention rfl)
  case layoutWrite => exact h.serveLayoutWrite t b (hw .layouts rfl)
  case layoutSelect => exact h.serveLayoutSelect t b (hw .screenSetups rfl)
  case layoutForce => exact h.serveLayoutForce t b
  case screenQuery => exact h.serveScreenQuery t b
  case layoutQuery => exact h.serveLayoutQuery t b
  case soilSetup => exact h.serveSoilSetup t b
  case soilTune => exact h.serveSoilTune t b (hw .tuning rfl)
  case soilLearn => exact h.serveSoilLearn t b
  case washDone => exact h.serveWashDone t b
  case soilQuery => exact h.serveSoilQuery t b
  case triggerMapSet => exact h.serveTriggerMapSet t b (hw .triggerMap rfl)
  case clipTake => exact h.serveClipTake t b
  case clipRelease => exact h.serveClipRelease t b
  case clipQuery => exact h.serveClipQuery t b
  case exportClip => exact h.serveExport t b
  case exportAbort => exact h.serveExportAbort t b

end Keeps

end Sys2Proof.Machine
end

