-- ==== Sys2Proof/Laws/Memory.lean ====
section
/-! SUPPORT. The frame store's bytes: what a write reads back, and the canonical form every write keeps. -/

-- One proof at a time: a thread for each at once is more than the memory limit lets Lean have.
set_option Elab.async false

namespace Sys2Proof.Machine

namespace Memory

/-- A list above a bound is above every lower bound. -/
theorem wfAbove_weaken {l b : Nat} {m : List Host.Cell} (h : wfAbove (some b) m = true) (hl : l ≤ b) :
    wfAbove (some l) m = true := by
  cases m with
  | nil => rfl
  | cons c m =>
    obtain ⟨a, v⟩ := c
    simp only [wfAbove, Bool.and_eq_true, decide_eq_true_eq] at h ⊢
    exact ⟨⟨by omega, h.1.2⟩, h.2⟩

theorem wfAbove_none {b : Nat} {m : List Host.Cell} (h : wfAbove (some b) m = true) : wfAbove none m = true := by
  cases m with
  | nil => rfl
  | cons c m =>
    obtain ⟨a, v⟩ := c
    simp only [wfAbove, Bool.and_eq_true] at h ⊢
    exact ⟨⟨trivial, h.1.2⟩, h.2⟩

/-- Below the least cell every byte reads as an unlisted one. -/
theorem read_below {b : Nat} {m : List Host.Cell} (h : wfAbove (some b) m = true) : ∀ a, a ≤ b → read m a = unlisted := by
  induction m generalizing b with
  | nil => exact fun _ _ => rfl
  | cons c m ih =>
    obtain ⟨k, v⟩ := c
    simp only [wfAbove, Bool.and_eq_true, decide_eq_true_eq] at h
    intro a ha
    unfold read
    rw [if_neg (by omega)]
    exact ih h.2 a (by omega)

/-- A bound lies below an address. -/
def above (l : Option Nat) (a : Nat) : Bool := match l with | none => true | some b => decide (b < a)

theorem wfAbove_cons (l : Option Nat) (a : Nat) (v : Byte) (m : List Host.Cell) :
    wfAbove l ((a, v) :: m) = true ↔ above l a = true ∧ v ≠ unlisted ∧ wfAbove (some a) m = true := by
  cases l <;> simp [wfAbove, above, and_assoc]

theorem write_above {l : Option Nat} {m : List Host.Cell} (a : Nat) (v : Byte) (h : wfAbove l m = true)
    (low : above l a = true) : wfAbove l (write m a v) = true := by
  induction m generalizing l with
  | nil =>
    unfold write
    split
    · rfl
    · rename_i hv; exact (wfAbove_cons ..).2 ⟨low, hv, rfl⟩
  | cons c m ih =>
    obtain ⟨k, w⟩ := c
    have h' := (wfAbove_cons ..).1 h
    unfold write
    split
    · rename_i hk
      split
      · exact h
      · rename_i hv
        exact (wfAbove_cons ..).2 ⟨low, hv, (wfAbove_cons ..).2 ⟨decide_eq_true hk, h'.2⟩⟩
    · split
      · rename_i hk e
        subst e
        split
        · cases l with
          | none => exact wfAbove_none h'.2.2
          | some b => exact wfAbove_weaken h'.2.2 (Nat.le_of_lt (of_decide_eq_true low))
        · rename_i hv
          exact (wfAbove_cons ..).2 ⟨low, hv, h'.2.2⟩
      · rename_i hk hne
        exact (wfAbove_cons ..).2 ⟨h'.1, h'.2.1, ih h'.2.2 (decide_eq_true (by omega))⟩

/-- A write keeps the canonical form. -/
theorem wf_write {m : List Host.Cell} (a : Nat) (v : Byte) (h : wf m = true) : wf (write m a v) = true :=
  write_above a v h rfl

/-- Writing bytes keeps the canonical form. -/
theorem wf_writeBytes {m : List Host.Cell} (a : Nat) (l : List Byte) (h : wf m = true) : wf (writeBytes m a l) = true := by
  induction l generalizing m a with
  | nil => exact h
  | cons v l ih => exact ih _ (wf_write a v h)

theorem read_write_above {l : Option Nat} {m : List Host.Cell} (a : Nat) (v : Byte) (h : wfAbove l m = true) (b : Nat) :
    read (write m a v) b = if b = a then v else read m b := by
  induction m generalizing l with
  | nil =>
    unfold write
    split
    · rename_i hv; subst hv; simp [read]
    · simp only [read]
      by_cases e : a = b
      · simp [e]
      · rw [if_neg e, if_neg (fun x => e x.symm)]
  | cons c m ih =>
    obtain ⟨k, w⟩ := c
    simp only [wfAbove, Bool.and_eq_true, Bool.not_eq_true', beq_eq_false_iff_ne] at h
    unfold write
    split
    · rename_i hk
      split
      · rename_i hv
        by_cases e : b = a
        · subst e
          rw [if_pos rfl]
          unfold read
          rw [if_neg (by omega), read_below h.2 b (by omega)]
          exact hv.symm
        · rw [if_neg e]
      · by_cases e : a = b
        · subst e; simp [read]
        · rw [if_neg (fun x => e x.symm)]
          conv => lhs; unfold read
          rw [if_neg e]
    · split
      · rename_i e
        subst e
        split
        · rename_i hv
          by_cases e : b = a
          · subst e; rw [if_pos rfl, read_below h.2 b (Nat.le_refl b)]; exact hv.symm
          · rw [if_neg e]
            conv => rhs; unfold read
            rw [if_neg (fun x => e x.symm)]
        · by_cases e : a = b
          · subst e; simp [read]
          · rw [if_neg (fun x => e x.symm)]
            simp only [read, if_neg e]
      · rename_i hk hne
        unfold read
        by_cases e : k = b
        · rw [if_pos e, if_neg (fun x => by omega), if_pos e]
        · rw [if_neg e, if_neg e]; exact ih h.2

/-- A byte reads back after a write to a canonical store; every other byte reads as before. -/
theorem read_write {m : List Host.Cell} (a : Nat) (v : Byte) (h : wf m = true) (b : Nat) :
    read (write m a v) b = if b = a then v else read m b := read_write_above a v h b

/-- Bytes outside the ones written read as before. -/
theorem read_writeBytes_outside {m : List Host.Cell} (a : Nat) (l : List Byte) (h : wf m = true) (b : Nat)
    (hb : b < a ∨ a + l.length ≤ b) : read (writeBytes m a l) b = read m b := by
  induction l generalizing m a with
  | nil => rfl
  | cons v l ih =>
    rw [List.length_cons] at hb
    unfold writeBytes
    rw [ih _ (wf_write a v h) (by omega), read_write a v h, if_neg (by omega)]

/-- The bytes written read back in order. -/
theorem read_writeBytes {m : List Host.Cell} (a : Nat) (l : List Byte) (h : wf m = true) (k : Nat) (hk : k < l.length) :
    read (writeBytes m a l) (a + k) = l[k] := by
  induction l generalizing m a k with
  | nil => exact absurd hk (Nat.not_lt_zero k)
  | cons v l ih =>
    unfold writeBytes
    cases k with
    | zero => rw [read_writeBytes_outside _ _ (wf_write a v h) _ (by omega), read_write a v h]; simp
    | succ k =>
      have := ih (a + 1) (wf_write a v h) k (by simpa using hk)
      rw [Nat.add_assoc, Nat.add_comm 1 k] at this
      simpa using this

end Memory

end Sys2Proof.Machine
end

