-- ==== Sys2Proof/Laws/Bounds.lean ====
section
/-! SUPPORT. The bounds that the link, the line store, the resets and the end of an event keep. -/

-- One proof at a time: a thread for each at once is more than the memory limit lets Lean have.
set_option Elab.async false

namespace Sys2Proof.Machine

/-- A later state has the queue of an earlier one and every bound the earlier one has. -/
structure Bounds (r s : State) : Prop where
  pending : s.pending = r.pending
  pixels  : PixelsCanonical r → PixelsCanonical s
  hold    : HoldWithin r.slots → HoldWithin s.slots
  pool    : PoolOrDeficit r.slots → PoolOrDeficit s.slots
  accounts : SlotsAccounted r.slots → SlotsAccounted s.slots
  control : ControlBounded r → ControlBounded s
  split   : SplitBounded r → SplitBounded s
  queue   : QueueDistinct r → QueueDistinct s
  buffers : BuffersBounded r → BuffersBounded s
  setups  : SetupsInRange r → SetupsInRange s
  rings   : SlotsAccounted r.slots → RingsFit r → RingsFit s

namespace Bounds

theorem refl (s : State) : Bounds s s := ⟨rfl, id, id, id, id, id, id, id, id, id, fun _ => id⟩

theorem trans {a b c : State} (h : Bounds a b) (k : Bounds b c) : Bounds a c :=
  ⟨k.pending.trans h.pending, fun x => k.pixels (h.pixels x), fun x => k.hold (h.hold x), fun x => k.pool (h.pool x),
   fun x => k.accounts (h.accounts x), fun x => k.control (h.control x),
   fun x => k.split (h.split x), fun x => k.queue (h.queue x), fun x => k.buffers (h.buffers x),
   fun x => k.setups (h.setups x), fun x y => k.rings (h.accounts x) (h.rings x y)⟩

theorem of_keeps {r s : State} (h : Keeps (fun _ => False) r s) : Bounds r s :=
  ⟨h.pending, fun x => by unfold PixelsCanonical; rw [h.pixels]; exact x, h.hold, h.pool, h.accounts, h.control, h.split, h.queue,
   fun x => by unfold BuffersBounded; rw [h.buffers]; exact x, h.setups, h.rings⟩

/-- The operations of a block after an event's own. -/
theorem keeps {r s t : State} (k : Keeps (fun _ => False) s t) (h : Bounds r s) : Bounds r t := h.trans (of_keeps k)

/-- A link whose buffers hold no more than 2 requests if they did. -/
theorem setLink {r s : State} {l : LinkController} (hl : s.link.buffers.length ≤ 2 → l.buffers.length ≤ 2)
    (h : Bounds r s) : Bounds r (s.setLink l) := { h with buffers := fun x => hl (h.buffers x) }

theorem setPins {r s : State} (p : Pins) (h : Bounds r s) : Bounds r (s.setPins p) := { h with }

theorem setElapsed {r s : State} (n : Nat) (h : Bounds r s) : Bounds r (s.setElapsed n) := { h with }

theorem setExporter {r s : State} (e : ExportEngine) (h : Bounds r s) : Bounds r (s.setExporter e) := { h with }

/-! ## The link -/

@[simp] theorem buffers_receptionFault (l : LinkController) (k : LinkFaultKind) (b : List Byte) :
    (l.receptionFault k b).buffers = l.buffers := rfl

theorem store_buffers (l : LinkController) (r : Request) (h : l.buffers.length ≤ 2) : (l.store r).buffers.length ≤ 2 := by
  unfold LinkController.store
  split
  · simp; omega
  · exact h

theorem frameEnds_buffers (l : LinkController) (b : List Byte) (h : l.buffers.length ≤ 2) :
    (l.frameEnds b).buffers.length ≤ 2 := by
  unfold LinkController.frameEnds
  dsimp only
  split
  · exact h
  · split
    · exact h
    · split
      · exact h
      · split
        · exact h
        · exact store_buffers _ _ h

theorem append_buffers (l : LinkController) (b : Byte) (g : Timer) : (l.append b g).buffers = l.buffers := by
  unfold LinkController.append
  dsimp only
  split <;> rfl

theorem character_buffers (l : LinkController) (b : Byte) (x : Bool) (g : Timer) (h : l.buffers.length ≤ 2) :
    (l.character b x g).buffers.length ≤ 2 := by
  unfold LinkController.character
  dsimp only
  split
  · split <;> exact h
  · split
    · split <;> exact h
    · split
      · split
        · exact h
        · exact frameEnds_buffers _ _ h
      · split
        · exact h
        · rw [append_buffers]; exact h
  · split
    · exact h
    · split
      · exact h
      · rw [append_buffers]; exact h

theorem rxCharacter {r s : State} (b : Byte) (x : Bool) (h : Bounds r s) : Bounds r (s.rxCharacter b x) :=
  h.setLink (character_buffers _ _ _ _)

theorem gapExpired {r s : State} (h : Bounds r s) : Bounds r s.gapExpired := by
  unfold State.gapExpired
  split
  · exact h.setLink id
  · exact h

theorem requestArrives {r s : State} (q : Request) (h : Bounds r s) : Bounds r (s.requestArrives q) := by
  unfold State.requestArrives
  split
  · exact h.setLink id
  · exact h.setLink (store_buffers _ _)

theorem place {r s : State} (q : Request) (a : Answer) (x : Bool) (h : Bounds r s) : Bounds r (s.place q a x) :=
  h.setLink id

theorem decode {r s : State} (q : Request) (h : Bounds r s) : Bounds r (s.decode q) := by
  unfold State.decode
  dsimp only
  split
  · exact h.place _ _ _
  · split
    · exact (h.keeps ((Keeps.refl s).serve _ _ _ (fun _ _ => id))).place _ _ _
    · exact h.place _ _ _

theorem decodeIfDue {r s : State} (h : Bounds r s) : Bounds r s.decodeIfDue := by
  unfold State.decodeIfDue
  split
  · split
    · exact h
    · rename_i e
      refine decode _ (h.setLink (fun x => ?_))
      rw [e, List.length_cons] at x
      exact Nat.le_of_succ_le x
  · exact h

theorem sendIfDue {r s : State} (h : Bounds r s) : Bounds r s.sendIfDue := by
  unfold State.sendIfDue
  dsimp only
  split
  · split
    · exact h.setLink id
    · split
      · exact h.setLink id
      · split
        · exact (h.setLink (by intro x; exact x)).setExporter _
        · exact h
  · exact h

theorem settle {r s : State} (h : Bounds r s) : Bounds r s.settle := h.decodeIfDue.sendIfDue.decodeIfDue

/-! ## The line store -/

theorem storeLine {r s : State} (c : Cam) (l : Line) (h : Bounds r s) : Bounds r (s.storeLine c l) := by
  have hp : ∀ a, Bounds r (s.setPixels (Memory.writeBytes s.pixels a l.pixels)) := fun a =>
    { h with pixels := fun x => Memory.wf_writeBytes _ _ (h.pixels x) }
  unfold State.storeLine
  dsimp only
  split
  · exact h.keeps ((Keeps.refl _).setCam _ _)
  · exact (hp _).keeps ((Keeps.refl _).setCam _ _)

theorem linePacket {s t : State} (c : Cam) (p : List Byte) (e : s.linePacket c p = .next t) : Bounds s t := by
  unfold State.linePacket at e
  dsimp only at e
  split at e
  · split at e
    · cases e; exact of_keeps ((Keeps.refl _).damageOnly _ _)
    · split at e
      · cases e; exact of_keeps ((Keeps.refl _).damageOnly _ _)
      · split at e
        · cases e; exact of_keeps ((Keeps.refl _).damageOnly _ _)
        · split at e
          · cases e
          · cases e; exact (refl _).storeLine _ _
  · cases e; exact refl _

/-! ## Resets and boundaries -/

theorem atReset (s : State) (x : ResetCause) (rate : LinkRate) : Bounds s (s.atReset x rate) :=
  { pending := rfl, pixels := id,
    hold := fun _ => (by decide : (0 : Nat) ≤ 32 ∧ 32 ≤ 64), pool := fun _ => Or.inr rfl,
    accounts := fun _ => SlotManager.accounted_reset,
    control := fun _ c => by simp [State.atReset, State.ctl, State.reset, ControlRecord.reset]
    split := fun _ i => by
      cases i
      · exact (by decide : (State.reset.split .a).entries.length ≤ 6)
      · exact (by decide : (State.reset.split .b).entries.length ≤ 6)
    queue := fun _ => List.nodup_nil
    buffers := fun _ => by unfold BuffersBounded; exact Nat.zero_le 2
    setups := fun _ c => by simp [State.atReset, State.cam, State.reset, Setup.InRange, CameraRecord.reset]; decide
    rings := fun _ _ => ringsFit_reset }

theorem makeReset {r s : State} (x : ResetCause) (rate : LinkRate) (h : Bounds r s) : Bounds r (s.makeReset x rate) :=
  (h.trans (atReset _ _ _)).keeps (((Keeps.refl _).startOutputFrame _ _).startOutputFrame _ _)

theorem frameBoundary {r s : State} (x : Straps) (h : Bounds r s) : Bounds r (s.frameBoundary x) := by
  have free : ∀ l : LinkController, ∀ i, (l.freeSent i).buffers = l.buffers := by
    intro l i
    unfold LinkController.freeSent
    split
    · split <;> rfl
    · rfl
  unfold State.frameBoundary
  dsimp only
  split
  · exact h
  · split
    · exact (h.setLink (by intro x; exact x)).makeReset _ _
    · exact h.setLink id
    · refine (h.setLink (by intro x; exact x)).setLink (fun y => ?_)
      rw [free]; exact y
    · exact (h.setLink (by intro x; exact x)).keeps (Keeps.refl _).transmissionEnds

theorem tick {r s : State} (h : Bounds r s) : Bounds r s.tick := (h.setElapsed _).setLink id

end Bounds

end Sys2Proof.Machine
end

