-- ==== Sys2Proof/Laws/Characters.lean ====
section
/-! SUPPORT. The bits of the characters on RX and TX (R173). -/

namespace Sys2Proof.Machine

@[simp] theorem characterBits_length (b : Byte) : (characterBits b).length = 10 := rfl

theorem characters_length (l : List Byte) : (l.flatMap characterBits).length = 10 * l.length := by
  induction l with
  | nil => rfl
  | cons b l ih => rw [List.flatMap_cons, List.length_append, characterBits_length, ih, List.length_cons]; omega

/-- Bit `k` of the character that follows some characters stands ten places further for each of them. -/
theorem characters_bit (before : List Byte) (b : Byte) (after : List Byte) {k : Nat} (hk : k < 10) :
    ((before ++ b :: after).flatMap characterBits)[10 * before.length + k]? = (characterBits b)[k]? := by
  rw [List.flatMap_append, List.getElem?_append_right (by rw [characters_length]; omega), characters_length,
    List.flatMap_cons, List.getElem?_append_left (by rw [characterBits_length]; omega), Nat.add_sub_cancel_left]

@[simp] theorem txLevel_none (s : State) : s.txLevel none = true := by
  unfold State.txLevel
  split
  · contradiction
  · rfl

end Sys2Proof.Machine
end

