-- ==== Sys2Proof/Laws/Clips.lean ====
section
/-! SUPPORT. The clip unit's operations leave the soiling monitor as it stands. -/

namespace Sys2Proof.Machine

theorem State.claimFor_soil (s : State) (id : ClipId) (c : Cam) (i : SlotNo) (q : Word32) (x : FrameRole) :
    (s.claimFor id c i q x).1.soil = s.soil := by
  unfold State.claimFor
  dsimp only
  generalize s.slots.claim id c i q = a
  rcases a with ⟨m, _ | _ | _ | _ | _⟩ <;> rfl

theorem State.completeClip_soil (s : State) (id : ClipId) (x : ClipCause) : (s.completeClip id x).soil = s.soil := by
  unfold State.completeClip State.raiseClipReady
  split
  · rfl
  · split <;> rfl

theorem State.preWalk_soil (id : ClipId) (c : Cam) (l : List SlotNo) : ∀ (s : State) (n : Nat), (s.preWalk id c n l).soil = s.soil := by
  induction l with
  | nil => intro s n; cases n <;> rfl
  | cons i rest ih =>
    intro s n
    cases n with
    | zero => rfl
    | succ n =>
      unfold State.preWalk
      split
      · rename_i f _ _
        have h := State.claimFor_soil s id c i f.sequence .pre
        split
        · rename_i e; rw [ih, ← h, e]
        · rename_i e; rw [ih, ← h, e]
        · rename_i e; rw [e] at h; exact h
        · rename_i e; rw [ih, ← h, e]
      · exact ih s (n + 1)

theorem State.trigger_soil (s : State) (k : TriggerKind) (c : Cam) : (s.trigger k c).soil = s.soil := by
  unfold State.trigger
  dsimp only
  split
  · rfl
  · split
    · rfl
    · split
      · rfl
      · split
        · rfl
        · split
          · rfl
          · unfold State.openClip
            dsimp only
            split
            · rw [State.completeClip_soil, State.preWalk_soil]; rfl
            · rw [State.preWalk_soil]; rfl

end Sys2Proof.Machine
end

