-- ==== Sys2Proof/Laws/Picture.lean ====
section
/-! SUPPORT. What the drawing of a picture can do, whatever the free values of its rounding and of its glyphs are (R97). -/

namespace Sys2Proof.Machine

/-- A scaled length is less than one pixel from the exact one. -/
theorem scaledLength_near {length numerator denominator : Nat} (pos : 0 < denominator) :
    denominator * scaledLength length numerator denominator < length * numerator + denominator ∧
    length * numerator < denominator * scaledLength length numerator denominator + denominator := by
  have parts := Nat.div_add_mod (length * numerator) denominator
  have rest := Nat.mod_lt (length * numerator) pos
  simp only [scaledLength, Nat.mul_add]
  by_cases exact : length * numerator % denominator = 0
  · simp [exact]; omega
  · cases Config.roundsUp length numerator denominator <;> simp [exact] <;> omega

/-- A scaled length whose exact value is at most a whole number is at most that number. -/
theorem scaledLength_le {length numerator denominator side : Nat} (fits : length * numerator ≤ side * denominator) :
    scaledLength length numerator denominator ≤ side := by
  rcases Nat.eq_zero_or_pos denominator with rfl | pos
  · have zero : length * numerator = 0 := Nat.le_zero.mp fits
    simp only [scaledLength, zero]
    simp
  · have near := (scaledLength_near (length := length) (numerator := numerator) pos).1
    have below : denominator * scaledLength length numerator denominator < denominator * (side + 1) := by
      rw [Nat.mul_add, Nat.mul_comm denominator side]; omega
    exact Nat.lt_succ_iff.mp (Nat.lt_of_mul_lt_mul_left below)

/-- A scaled length at its own scale is the length. -/
@[simp] theorem scaledLength_self {length denominator : Nat} (pos : 0 < denominator) :
    scaledLength length denominator denominator = length := by
  simp [scaledLength, pos]

/-- A fitted frame fits within its rectangle. -/
theorem fittedSize_fits (g : Geometry) (w h : Nat) : (fittedSize g w h).1 ≤ w ∧ (fittedSize g w h).2 ≤ h := by
  unfold fittedSize
  split
  · exact ⟨Nat.le_refl _, scaledLength_le (by rw [Nat.mul_comm]; assumption)⟩
  · exact ⟨scaledLength_le (by rw [Nat.mul_comm]; omega), Nat.le_refl _⟩

/-- A fitted frame has one side of its rectangle and keeps its proportions to less than a pixel of the other. -/
theorem fittedSize_proportions {g : Geometry} {w h : Nat} (wide : 0 < g.width) (high : 0 < g.height) :
    let size := fittedSize g w h
    (size.1 = w ∧ g.width * size.2 < g.height * w + g.width ∧ g.height * w < g.width * size.2 + g.width) ∨
    (size.2 = h ∧ g.height * size.1 < g.width * h + g.height ∧ g.width * h < g.height * size.1 + g.height) := by
  unfold fittedSize
  split
  · exact .inl ⟨rfl, scaledLength_near wide⟩
  · exact .inr ⟨rfl, scaledLength_near high⟩

/-- A frame in a rectangle of its own size keeps its size. -/
theorem fittedSize_self {g : Geometry} (wide : 0 < g.width) : fittedSize g g.width g.height = (g.width, g.height) := by
  simp [fittedSize, Nat.mul_comm, scaledLength_self wide]

/-- A centred length lies within the longer one, its two margins equal but for the odd pixel. -/
theorem centred_margins {outer inner : Nat} (le : inner ≤ outer) :
    centred outer inner + inner ≤ outer ∧ centred outer inner ≤ outer - inner - centred outer inner + 1 ∧
    outer - inner - centred outer inner ≤ centred outer inner + 1 := by
  unfold centred
  by_cases odd : (outer - inner) % 2 = 1
  · cases Config.oddPixelBefore outer inner <;> simp [odd] <;> omega
  · simp [odd]; omega

/-- The pixels a rectangle covers. -/
theorem Rect.has_iff {r : Rect} {x y : Nat} :
    r.has x y = true ↔ r.x ≤ x ∧ x < r.x + r.w ∧ r.y ≤ y ∧ y < r.y + r.h := by
  simp [Rect.has, and_assoc]

@[simp] theorem State.drawTile_covers (s : State) (t : ResolvedTile) : (s.drawTile t).covers = t.rect := rfl
@[simp] theorem State.drawTile_label (s : State) (t : ResolvedTile) : (s.drawTile t).label = t.label := rfl
@[simp] theorem State.drawTile_markers (s : State) (t : ResolvedTile) :
    (s.drawTile t).markers = t.markers.drawn t.overflow := rfl

/-- A tile without a slot draws no camera frame. -/
theorem State.drawTile_empty {s : State} {t : ResolvedTile} (slot : t.slot = none) : (s.drawTile t).picture = none := by
  simp [State.drawTile, slot]

/-- A tile without markers or label draws its camera frame where that stands, and blank elsewhere. -/
theorem State.tilePixel_bare {s : State} {t : DrawnTile} (markers : t.markers = []) (label : t.label = []) (x y : Nat) :
    s.tilePixel t x y = match t.picture with
      | none => .blank
      | some (slot, r) => if r.has x y then s.framePixel slot r.w r.h (x - r.x) (y - r.y) else .blank := by
  simp only [State.tilePixel, DrawnTile.markersAt, DrawnTile.labelAt, markers, label]
  rfl

end Sys2Proof.Machine
end

