-- ==== Sys2Proof/Laws/Settle.lean ====
section
/-! SUPPORT. What the end of an event does: the arbiter's decision alone while no request waits; one decoding and its reply for
a request that is taken at its arrival. -/

-- One proof at a time: a thread for each at once is more than the memory limit lets Lean have.
set_option Elab.async false

namespace Sys2Proof.Machine

/-- No request is decoded while none waits, the reply slot is occupied or a RESET waits (R177). -/
theorem decodeIfDue_held {s : State} (h : s.link.buffers = [] ∨ s.link.reply.isSome = true ∨ s.link.resetAsked = true) :
    s.decodeIfDue = s := by
  unfold State.decodeIfDue
  rcases h with h | h | h
  · rw [h, ite_self]
  · rw [Option.isNone_eq_false_iff.2 h]
    rfl
  · rw [h, Bool.not_true, Bool.and_false]
    rfl

theorem decodeIfDue_empty {s : State} (h : s.link.buffers = []) : s.decodeIfDue = s := decodeIfDue_held (.inl h)

theorem decodeIfDue_taken {s : State} {r : Request} {rest : List Request} (h1 : s.link.reply = none)
    (h2 : s.link.resetAsked = false) (h3 : s.link.buffers = r :: rest) :
    s.decodeIfDue = (s.setLink { s.link with buffers := rest }).decode r := by
  unfold State.decodeIfDue
  rw [h1, h2, h3]
  rfl

theorem sendIfDue_noSend {s : State} (h : s.link.tx.isSome = true ∨ s.pins.ready = false) : s.sendIfDue = s := by
  unfold State.sendIfDue
  dsimp only
  split
  · rename_i e
    rw [Bool.and_eq_true] at e
    rcases h with h | h
    · cases ht : s.link.tx with
      | none => rw [ht] at h; cases h
      | some x => rw [ht] at e; cases e.1
    · rw [h] at e; cases e.2
  · rfl

theorem sendIfDue_buffers (s : State) : s.sendIfDue.link.buffers = s.link.buffers := by
  unfold State.sendIfDue
  dsimp only
  split
  · split
    · rfl
    · split
      · rfl
      · split <;> rfl
  · rfl

theorem settle_unasked {s : State} (h : s.link.buffers = []) : s.settle = s.sendIfDue := by
  unfold State.settle
  rw [decodeIfDue_empty h, decodeIfDue_empty (by rw [sendIfDue_buffers]; exact h)]

/-- While no request waits, the state after an event of a block is what the block made of it, followed by the arbiter's
decision. -/
theorem event_unasked {s t : State} (h : s.Unasked) {p : Part → Prop} (k : Keeps p s t) : s.event t = .next t.sendIfDue := by
  unfold State.event State.whenRunning
  rw [h.running, settle_unasked (by rw [k.buffers]; exact h.noneWaiting)]
  rfl

/-- A request of a legal body, taken at its arrival, is served by its block and answered in the same event. -/
theorem request_taken {s : State} (kind : RequestKind) (tag : Byte) (body : List Byte) (h : s.TakesRequest)
    (hb : body.length ≤ 1040) (hl : legalLength kind body = true) :
    s.request (kindCode kind) tag body
      = .next ((serve kind s tag body).1.replied kind tag (serve kind s tag body).2) := by
  have hk : kindOfCode (kindCode kind) = some kind := by cases kind <;> decide
  have ha : s.requestArrives { kind := kindCode kind, tag := tag, body := body }
      = s.setLink { s.link with buffers := [{ kind := kindCode kind, tag := tag, body := body }] } := by
    unfold State.requestArrives LinkController.store
    dsimp only
    rw [if_neg (by omega), h.noneWaiting]
    rfl
  have hs : ∀ b, (s.setLink { s.link with buffers := b }).setLink
      { (s.setLink { s.link with buffers := b }).link with buffers := [] } = s := by
    intro b
    have : s = s.setLink { s.link with buffers := [] } := by
      rw [← h.noneWaiting]; rfl
    conv => rhs; rw [this]
    rfl
  have hd : (s.requestArrives { kind := kindCode kind, tag := tag, body := body }).decodeIfDue
      = (serve kind s tag body).1.place { kind := kindCode kind, tag := tag, body := [] }
          (serve kind s tag body).2 (kind == .reset) := by
    rw [ha, decodeIfDue_taken (r := { kind := kindCode kind, tag := tag, body := body }) (rest := [])
      (by exact h.noReply) (by exact h.noReset) rfl, hs]
    unfold State.decode
    dsimp only
    rw [hk]
    dsimp only
    rw [hl]
    rfl
  have kb : (serve kind s tag body).1.link.buffers = [] := by
    rw [((Keeps.refl (p := fun _ => False) s).serve kind tag body (fun _ _ => id)).buffers]; exact h.noneWaiting
  unfold State.request State.event State.whenRunning State.settle
  rw [h.running, hd, decodeIfDue_empty]
  · rfl
  · rw [sendIfDue_buffers]; exact kb

/-- A request row's command is its kind's request. -/
theorem exec_requestOfKind (kind : RequestKind) (tag : Byte) (body : List Byte) (s : State) :
    exec (requestOfKind kind tag body) s = s.request (kindCode kind) tag body := by
  cases kind <;> rfl

end Sys2Proof.Machine
end

