-- ==== Sys2Proof/Laws/Step.lean ====
section
/-! SUPPORT. What every command, and so every step, keeps of the state before it. -/

-- One proof at a time: a thread for each at once is more than the memory limit lets Lean have.
set_option Elab.async false

namespace Sys2Proof.Machine

/-- A command keeps the queue and every bound. -/
theorem exec_bounds {c : Instr} {s t : State} (h : exec c s = .next t) : Bounds s t := by
  have ev : ∀ {n : State}, Bounds s n → s.event n = .next t → Bounds s t := by
    intro n k e
    unfold State.event State.whenRunning at e
    cases e
    split
    · exact Bounds.refl _
    · exact k.settle
  have wr : ∀ {n : State}, Bounds s n → s.whenRunning n = .next t → Bounds s t := by
    intro n k e
    unfold State.whenRunning at e
    cases e
    split
    · exact Bounds.refl _
    · exact k
  have rq : ∀ k g b, s.request k g b = .next t → Bounds s t := fun k g b e => ev ((Bounds.refl s).requestArrives _) e
  have K := fun {n : State} (k : Keeps (fun _ => False) s n) => Bounds.of_keeps k
  cases c with
  | powerOn x => 
    cases h; split
    · exact (Bounds.refl s).makeReset _ _
    · exact ((Bounds.refl s).makeReset _ _).settle
  | resetLineAssert => cases h; exact ((Bounds.refl s).setPins _).setLink id
  | resetLine x => 
    cases h; split
    · exact (((Bounds.refl s).setPins _).makeReset _ _).settle
    · exact Bounds.refl s
  | timeBaseTick => exact wr (Bounds.refl s).tick h
  | rxCharacter b x => exact ev ((Bounds.refl s).rxCharacter _ _) h
  | gapTimerExpiry => exact ev (Bounds.refl s).gapExpired h
  | rdyRise =>
    cases h; split
    · exact (Bounds.refl s).setPins _
    · exact ((Bounds.refl s).setPins _).settle
  | rdyFall => cases h; exact (Bounds.refl s).setPins _
  | frameBoundary x => exact ev ((Bounds.refl s).frameBoundary _) h
  | frameStart c p => exact ev (K ((Keeps.refl s).frameStart _ _)) h
  | linePacket c p => 
    change execLinePacket c p s = _ at h
    unfold execLinePacket at h
    split at h
    · cases h; exact Bounds.refl _
    · split at h
      · rename_i e; cases h; exact (Bounds.linePacket _ _ e).settle
      · cases h
      · cases h
  | frameEnd c p => exact ev (K ((Keeps.refl s).frameEnd _ _)) h
  | frameTimerExpiry c => exact ev (K ((Keeps.refl s).frameTimerExpired _)) h
  | recoveryTimerExpiry c => exact ev (K ((Keeps.refl s).recoveryTimerExpired _)) h
  | cameraResponse c p => exact ev (K ((Keeps.refl s).cameraResponse _ _)) h
  | responseTimerExpiry c => exact ev (K ((Keeps.refl s).responseTimerExpired _)) h
  | freshnessTimerExpiry => exact ev (K ((Keeps.refl s).freshnessExpired id id)) h
  | outputFrameEnd i => exact ev (K ((Keeps.refl s).outputFrameEnds _)) h
  | holdOverTimerExpiry i => exact ev (K ((Keeps.refl s).holdOverExpired _)) h
  | idleRecheckTimerExpiry => exact ev (K (Keeps.refl s).recheckExpired) h
  | examinationEnd => exact ev (K (Keeps.refl s).endExamination) h
  | fillEnd => exact ev (K (Keeps.refl s).fillEnds) h
  | stallTimerExpiry => exact ev (K (Keeps.refl s).stallExpired) h
  | commandLastByteSent c => exact wr (K ((Keeps.refl s).commandLastByteSent _)) h
  | _ => exact rq _ _ _ h

/-- A step that ends in a next state keeps every bound. -/
theorem step_bounds {s t : State} (h : step s = .next t) :
    (PixelsCanonical s → PixelsCanonical t) ∧ (HoldWithin s.slots → HoldWithin t.slots) ∧
    (PoolOrDeficit s.slots → PoolOrDeficit t.slots) ∧ (SlotsAccounted s.slots → SlotsAccounted t.slots) ∧
    (ControlBounded s → ControlBounded t) ∧ (SplitBounded s → SplitBounded t) ∧ (QueueDistinct s → QueueDistinct t) ∧
    (BuffersBounded s → BuffersBounded t) ∧ (SetupsInRange s → SetupsInRange t) ∧
    (SlotsAccounted s.slots → RingsFit s → RingsFit t) := by
  unfold step at h
  split at h
  · cases h; exact ⟨id, id, id, id, id, id, id, id, id, fun _ => id⟩
  · have b := exec_bounds h
    exact ⟨b.pixels, b.hold, b.pool, b.accounts, b.control, b.split, b.queue, b.buffers, b.setups, b.rings⟩

end Sys2Proof.Machine
end

