-- ==== Sys2Proof/Tests/Slice0.lean ====
section
/-! SUPPORT. The model's own tests: ill-formed commands, check codes, small steps worked by hand from the spec, and for every
statement a state and operands that meet its hypotheses. -/

namespace Sys2Proof.Tests

open Sys2Proof.Machine

-- One evaluation at a time: each runs in the kernel, and all of them at once would need a thread each.
set_option Elab.async false

/-! ## Helpers -/

/-- The next state of an outcome. -/
def sOf (o : Host.Outcome State Fault Refusal) : State :=
  match o with
  | .next t => t
  | _ => State.reset

/-- The body of the reply in the reply slot. -/
def replyBody (o : Host.Outcome State Fault Refusal) : Option (List Byte) := (sOf o).link.reply.map (·.body)

/-- The state after reset with a change to the camera record of camera 0. -/
def camera (f : CameraRecord → CameraRecord) : State := State.reset.setCam 0 (f (State.reset.cam 0))

/-- The state after reset with a change to the link controller. -/
def linked (f : LinkController → LinkController) : State := State.reset.setLink (f State.reset.link)

/-- The state after reset with RESET_N low. -/
def held : State := State.reset.setPins { ready := false, resetLow := true }

/-- The state after reset with RDY high. -/
def ready : State := State.reset.setPins { ready := true, resetLow := false }

/-- The state after reset with every job entry RUNNING. -/
def noJob : State :=
  linked fun l => { l with jobs := Vector.ofFn fun _ => .running { kind := .soilLearn, subject := 0, tag := 0 } }

/-- The state after reset while FRESH, with a cab active. -/
def fresh (cab : Cab) : State := State.reset.setDoors { State.reset.doors with fresh := true, cab := cab }

/-- A frame of camera 0. -/
def frame (n : Word32) : FrameFields := { sequence := n, number := 0, time := 0, geometry := ⟨640, 480⟩ }

/-- Slots 12 and 13 READY and slot 14 FILLING in camera 3's ring, as at the start of the first worked sequence of spec/01. -/
def ringed : SlotManager :=
  let m := SlotManager.reset
  let m := { m with freePool := (List.finRange 160).filter fun i => i.val ≥ 40 }
  let m := m.setSlot 12 ⟨.ready 3 (frame 100) none, Holders.none⟩
  let m := m.setSlot 13 ⟨.ready 3 (frame 101) none, Holders.none⟩
  let m := m.setSlot 14 ⟨.filling 3 (frame 102), Holders.none⟩
  m.setRing 3 (some { ready := [12, 13], blank := [], filling := some 14 })

/-! ## Ill-formed commands are refused -/

theorem test_wf_longBody : (Instr.partInfo 0 (List.replicate 1041 0)).wellFormed = false := by decide +kernel
theorem test_wf_longestBody : (Instr.partInfo 0 (List.replicate 1040 0)).wellFormed = true := by decide +kernel
theorem test_wf_longBodyUnknown : (Instr.unknownKindRequest 0x7F 0 (List.replicate 1041 0)).wellFormed = false := by decide +kernel
theorem test_wf_listedKind : (Instr.unknownKindRequest 0x10 0 []).wellFormed = false := by decide +kernel
theorem test_wf_unlistedKind : (Instr.unknownKindRequest 0x06 0 []).wellFormed = true := by decide +kernel
theorem test_wf_event : Instr.rdyRise.wellFormed = true := by decide +kernel

/-! ## Check codes and codings (R174, R191, section 11.6) -/

/-- The check value of the CRC-16 with polynomial 1021h and initial value FFFFh over the digits 1 to 9. -/
theorem test_crc16 : crc16 [0x31, 0x32, 0x33, 0x34, 0x35, 0x36, 0x37, 0x38, 0x39] = 0x29B1#16 := by decide +kernel
/-- The check value of the CRC-8 with polynomial 07h and initial value 00h over the digits 1 to 9. -/
theorem test_crc8 : crc8 [0x31, 0x32, 0x33, 0x34, 0x35, 0x36, 0x37, 0x38, 0x39] = 0xF4#8 := by decide +kernel
theorem test_highByteFirst : bytes4 0x01020304 = [1, 2, 3, 4] ∧ field4 [1, 2, 3, 4] 0 = 0x01020304 := by decide +kernel
theorem test_wireEscapes : wireFrame 0x04 0x5A [0x5B] =
    [0x5A, 0x04, 0x5B, 0x7A, 0x00, 0x01, 0x5B, 0x7B] ++ escapeBytes (bytes2 (crc16 [0x04, 0x5A, 0, 1, 0x5B]).toNat) ++ [0x5A] := by
  decide +kernel
/-- 5Ah on the line: start bit, 0101 1010 from its last digit on, stop bit; a low stop bit is read with its byte. -/
theorem test_characterBits : characterBits 0x5A = [false, false, true, false, true, true, false, true, false, true]
    ∧ readCharacter (characterBits 0x5A) = some (0x5A, true)
    ∧ readCharacter [false, true, false, false, false, false, false, false, true, false] = some (0x81, false) := by
  decide +kernel
theorem test_heaterCommand : (LaneCommand.heater true).bytes = [0x05, 0x01, crc8 [0x05, 0x01]] := by decide +kernel
theorem test_configureCommand : (LaneCommand.configure 1280 800 25).bytes
    = [0x02, 0x05, 0x00, 0x03, 0x20, 0x19, crc8 [0x02, 0x05, 0x00, 0x03, 0x20, 0x19]] := by decide +kernel
theorem test_noWord : decodeTableWord 8 0x5A = none := by decide +kernel

/-! ## The link, worked by hand (spec/10) -/

/-- A whole request received character by character is decoded at its closing delimiter and answered in the same event. -/
theorem test_requestOnTheWire :
    let frame := wireFrame 0x1D 7 [1]
    let s := frame.foldl (fun s b => sOf (exec (.rxCharacter b true) s)) State.reset
    s.doors.cab = .a ∧ s.link.reply = some { kind := 0x9D, tag := 7, body := [0x00], ofReset := false } := by decide +kernel

theorem test_unknownKind : (sOf (exec (.unknownKindRequest 0x06 9 []) State.reset)).link.reply
    = some { kind := 0x80, tag := 9, body := [0x02], ofReset := false } := by decide +kernel
theorem test_badLength : replyBody (exec (.timeSet 0 [1, 2, 3]) State.reset) = some [0x03] := by decide +kernel
theorem test_timeSet : (sOf (exec (.timeSet 0 [1, 2, 3, 4]) State.reset)).link.timeBase = 0x01020304#32
    ∧ replyBody (exec (.timeSet 0 [1, 2, 3, 4]) State.reset) = some [0, 0, 0, 0, 0] := by decide +kernel
theorem test_reportMask : (sOf (exec (.reportMask 0 [2, 1, 7]) State.reset)).link.masked = 0x82#8
    ∧ replyBody (exec (.reportMask 0 [2, 1, 5]) State.reset) = some [0x04, 2] := by decide +kernel
theorem test_startLeavesFirst : (sOf (exec .rdyRise State.reset)).link.tx.map (fun f => (f.kind, f.body.take 3))
    = some (0x40#8, [0#8, 1#8, 0#8]) := by decide +kernel
theorem test_tickWraps : (sOf (exec .timeBaseTick (linked fun l => { l with timeBase := 0xFFFFFFFF }))).link.timeBase
    = 0#32 := by decide +kernel
theorem test_linkQueryLength : (State.reset.link.linkQuery).length = 32 + 100 + 1 + 12 + 1 + 4 := by decide +kernel
theorem test_slotQuery : replyBody (exec (.slotQuery 0 [160]) State.reset) = some [0x04, 0]
    ∧ (replyBody (exec (.slotQuery 0 [0xFF]) State.reset)).map (·.take 2) = some [0x00, 160] := by decide +kernel
theorem test_resetRequest : (sOf (exec (.reset 3 []) State.reset)).link.resetAsked = true
    ∧ (sOf (exec (.frameBoundary ⟨true, true⟩)
        (linked fun l => { l with tx := some ⟨.reply true, 0x85, 0, [0]⟩ }))).link.rate = .mbaud12 := by decide +kernel
theorem test_firstStarts : (sOf (exec (.powerOn ⟨false, true⟩) held)).screenA.screen.frameCount = 1
    ∧ (sOf (exec (.powerOn ⟨false, true⟩) held)).screenB.screen.view.mode = .unconfigured := by decide +kernel

/-! ## Frame store, cameras and the control path, worked by hand (spec/01 to spec/03) -/

/-- The first worked sequence of spec/01: the claim leaves slot 13 in its ring, the publication moves it, the release
retires it while screen B holds its pin. -/
theorem test_claimThenPublish :
    let m := (ringed.pinNewest 3 .screenB).1
    let claimed := m.claim 0 3 13 101
    let published := claimed.1.publish 3
    claimed.2 = .grantedInRing ∧ claimed.1.holdCount = 1
      ∧ published.2 = some ⟨3, 14, 102, 0, some ⟨13, 3, 101, 0⟩⟩
      ∧ published.1.ring 3 = some { ready := [12, 14], blank := [40], filling := none }
      ∧ (published.1.release 0 [13]).slot 13 = ⟨.retiring 3 (frame 101), ⟨false, true, false⟩⟩
      ∧ ((published.1.release 0 [13]).unpin 13 .screenB).freePool.getLast? = some 13 := by decide +kernel

theorem test_cameraSetup : replyBody (exec (.cameraSetup 0 [0, 2, 0x80, 1, 0xE0, 25, 3, 0, 39, 0, 0]) State.reset)
      = some [0x04, 5]
    ∧ replyBody (exec (.cameraSetup 0 [13, 5, 0, 3, 32, 30, 8, 7, 208, 0xEA, 0x60]) State.reset) = some [0x00] := by
  decide +kernel
theorem test_cameraStart :
    let t := sOf (exec (.cameraStart 5 [3]) State.reset)
    t.link.reply.map (·.body) = some [0x01, 0] ∧ (t.cam 3).state = .bringUp ∧ (t.ctl 3).inFlight = some .identify
      ∧ t.slots.ring 3 = some { ready := [], blank := [0, 1, 2], filling := none }
      ∧ (t.link.report (.cameraState 3)).pending = true := by decide +kernel
theorem test_cameraStop :
    let t := sOf (exec (.cameraStop 0 [0]) (sOf (exec (.cameraStart 5 [0]) State.reset)))
    t.link.buffers.length = 1 := by decide +kernel
theorem test_frameStart :
    let packet : List Byte := [0, 9, 2, 0x80, 1, 0xE0]
    let s := (camera fun r => { r with state := .searching }).setSlots ((State.reset.slots.establish 0 3).getD State.reset.slots)
    let t := sOf (exec (.frameStart 0 (packet ++ [crc8 (0x01 :: packet)])) s)
    (t.cam 0).state = .running ∧ (t.cam 0).receive = .receiving ∧ t.slots.fillingSlot 0 = some 0
      ∧ (t.cam 0).sequence = 1 := by decide +kernel
theorem test_linePacketLength :
    let packet : List Byte := [0, 0, 7, 7]
    let s := ((camera fun r => { r with state := .running, receive := .receiving }).setSlots
      (((State.reset.slots.establish 0 3).getD State.reset.slots).take 0 (frame 1)).1)
    let t := sOf (exec (.linePacket 0 (packet ++ bytes2 (crc16 packet).toNat)) s)
    (t.cam 0).lastDamage = some .length ∧ t.slots.fillingSlot 0 = none := by decide +kernel
theorem test_pixelBytes :
    let m := Memory.writeBytes [] 10 [7, 0, 8]
    m = [(10, 7), (12, 8)] ∧ Memory.read m 11 = 0#8 ∧ Memory.read m 12 = 8#8
      ∧ Memory.writeBytes m 12 [0] = [(10, 7)] := by decide +kernel
theorem test_frameEnd :
    let s := ((camera fun r => { r with state := .running, receive := .receiving, nextLine := 480 }).setSlots
      (((State.reset.slots.establish 0 3).getD State.reset.slots).take 0 (frame 1)).1)
    let t := sOf (exec (.frameEnd 0 [1, 0xE0, crc8 [0x03, 1, 0xE0]]) s)
    (t.cam 0).publishedTotal = 1 ∧ t.slots.newest 0 = some 0 := by decide +kernel
theorem test_frameTimeout :
    let t := sOf (exec (.frameTimerExpiry 0) (camera fun r => { r with state := .running, frameTimer := some 0 }))
    (t.cam 0).state = .lost ∧ (t.cam 0).recoveryTimer = some 2000 := by decide +kernel
theorem test_responseResent :
    let s := State.reset.setCtl 0 ⟨[⟨.streamOff, true, false⟩], some .streamOff, .first, some 0, 0⟩
    let t := sOf (exec (.responseTimerExpiry 0) s)
    (t.ctl 0).attempt = .second ∧ ((sOf (exec (.commandLastByteSent 0) t)).ctl 0).responseTimer = some 20 := by decide +kernel

/-! ## Doors, screens, soiling, clips and export, worked by hand (spec/04 to spec/09) -/

/-- A change to OBSTRUCTED while cab A is active joins the door's camera and shows pattern ONE. -/
theorem test_doorChange :
    let map := State.reset.doors.map.set 0 { side := .left, rank := 0, camera := some 7, alternate := none }
    let s := (fresh .a).setDoors { (fresh .a).doors with map := map }
    let t := sOf (exec (.doorChange 0 [0, 4]) s)
    (t.split .a).entries.map (·.camera) = [7] ∧ (t.split .a).pattern = some .one
      ∧ (t.selectView .a).mode = .split := by decide +kernel
theorem test_doorTable : (sOf (exec (.doorTable 0 [0, 1, 2, 3, 4, 5, 0, 0, 0, 0, 0, 0]) State.reset)).doors.fresh = true
    ∧ replyBody (exec (.doorTable 0 [0, 1, 2, 3, 4, 5, 6, 0, 0, 0, 0, 0]) State.reset) = some [0x04, 6] := by decide +kernel
theorem test_freshnessSet : replyBody (exec (.doorFreshnessSet 0 [0, 199]) State.reset) = some [0x04, 0]
    ∧ (sOf (exec (.doorFreshnessSet 0 [0, 200]) (fresh .none))).doors.timer = some 200 := by decide +kernel
theorem test_freshnessExpiry : (sOf (exec .freshnessTimerExpiry
    ((fresh .a).setDoors { (fresh .a).doors with timer := some 0 }))).doors.fresh = false := by decide +kernel
theorem test_layoutWrite :
    let body : List Byte := [15, 1, 0, 0, 0, 0, 5, 0, 3, 0x20, 0x40, 0xFF, 2, 0x41, 0x42]
    (sOf (exec (.layoutWrite 0 body) State.reset)).layouts[15]
        = [{ rect := ⟨0, 0, 1280, 800⟩, source := .front, alternate := none, label := [0x41, 0x42] }]
      ∧ replyBody (exec (.layoutWrite 0 (body.take 14)) State.reset) = some [0x03]
      ∧ replyBody (exec (.layoutWrite 0 (body.take 12 ++ [2, 0x41, 0x7F])) State.reset) = some [0x04, 8] := by decide +kernel
theorem test_layoutForceHeld : replyBody (exec (.layoutForce 0 [0, 3])
    (State.reset.setScreenA { State.reset.screenA with
      screen := { State.reset.screenA.screen with setup := { State.reset.screenA.screen.setup with enable := false } } }))
    = some [0x00, 0x01, 0x00] := by decide +kernel
theorem test_outputFrame : (sOf (exec (.outputFrameEnd .b) State.reset)).screenB.screen.period = ⟨33, 30, 0⟩ := by decide +kernel
theorem test_sixthTile : Pattern.rect .six 1280 800 5 = ⟨852, 400, 428, 400⟩ := by decide +kernel
theorem test_zones : zoneRect ⟨640, 200⟩ 47 = { x := 560, y := 165, w := 80, h := 35 } := by decide +kernel
theorem test_soilLearnRefused : replyBody (exec (.soilLearn 0 [0]) State.reset) = some [0x05] := by decide +kernel
theorem test_washDone : replyBody (exec (.washDone 0 [0]) State.reset) = some [0x04, 0]
    ∧ replyBody (exec (.washDone 0 [2, 13, 14]) State.reset) = some [0x04, 2] := by decide +kernel
theorem test_clipTakeNewest : replyBody (exec (.clipTake 0 [1, 0, 1]) State.reset) = some [0x00, 0, 0, 2] := by decide +kernel
theorem test_clipTakeTwice : replyBody (exec (.clipTake 0 [2, 5, 5, 1]) State.reset) = some [0x04, 2] := by decide +kernel
theorem test_triggerMap : replyBody (exec (.triggerMapSet 0 [1, 8, 8, 1, 9, 0, 0, 0, 0]) State.reset) = some [0x04, 4] := by
  decide +kernel
theorem test_exportNoClip : replyBody (exec (.exportClip 0 [0, 0, 1, 1, 0]) State.reset) = some [0x05] := by decide +kernel
theorem test_imageSize : imageSize ⟨1280, 800⟩ 4 .luma = 64000 ∧ imageSize ⟨1280, 800⟩ 1 .full = 2048000 := by decide +kernel

/-! ## States and operands that meet the hypotheses of the statements -/

/-- The state after reset takes a request at its arrival. -/
theorem takes : State.reset.TakesRequest := ⟨rfl, rfl, rfl, rfl⟩

/-- In the state after reset no request waits. -/
theorem unasked : State.reset.Unasked := ⟨rfl, rfl⟩

/-- The state after reset with a receiver. -/
def rx (state : RxState) (bytes : List Byte) (gap : Timer) : State := linked fun l => { l with receiver := ⟨state, bytes, gap⟩ }

/-- The state after reset with a frame in transmission. -/
def sending (f : TxFrame) : State := linked fun l => { l with tx := some f }

/-- The state after reset with a number of requests waiting and the reply slot occupied. -/
def waiting (n : Nat) : State :=
  linked fun l => { l with buffers := List.replicate n ⟨1, 0, []⟩, reply := some ⟨0x81, 0, [], false⟩ }

/-- A frame of kind 01h without a body. -/
def shortFrame : List Byte := [1, 0, 0, 0] ++ bytes2 (crc16 [1, 0, 0, 0]).toNat

theorem test_hyps_StepTakesFront : (State.reset.setPending [.rdyFall]).pending = [.rdyFall] ∧ State.reset.pending = [] :=
  ⟨rfl, rfl⟩
theorem test_hyps_ResetsRestore : held.pins.resetLow = true ∧ State.reset.pins.resetLow = false
    ∧ (sending ⟨.reply true, 0x85, 0, [0]⟩).link.tx = some ⟨.reply true, 0x85, 0, [0]⟩
    ∧ (sending ⟨.reply true, 0x85, 0, [0]⟩).pins.resetLow = false := ⟨rfl, rfl, rfl, rfl⟩
theorem test_hyps_PinsClockAndHold : State.reset.pins.resetLow = false ∧ held.pins.resetLow = true ∧ (∀ x, Instr.timeBaseTick ≠ .powerOn x)
    ∧ Instr.timeBaseTick ≠ .resetLineAssert ∧ (∀ x, Instr.timeBaseTick ≠ .resetLine x) ∧ Instr.timeBaseTick ≠ .rdyRise
    ∧ Instr.timeBaseTick ≠ .rdyFall := ⟨rfl, rfl, nofun, nofun, nofun, nofun, nofun⟩
theorem test_hyps_ReceiverTable :
    (∀ state bytes gap, (rx state bytes gap).Unasked ∧ (rx state bytes gap).link.receiver = ⟨state, bytes, gap⟩)
      ∧ (ready.Unasked ∧ ready.link.tx = none ∧ ready.pins.ready = true)
      ∧ ¬(true = true ∧ 0x5B#8 = 0x5A#8) ∧ 0x00#8 ≠ 0x5A#8 ∧ 0x00#8 ≠ 0x5B#8
      ∧ (List.replicate 1045 0#8).length < 1046 ∧ 1046 ≤ (List.replicate 1046 0#8).length ∧ [0#8] ≠ []
      ∧ (∃ d, (rx .collect [0] (some 0)).link.receiver.gap = some d ∧ d ≤ (rx .collect [0] (some 0)).elapsed)
      ∧ (∀ d, (rx .collect [0] (some 1)).link.receiver.gap = some d → (rx .collect [0] (some 1)).elapsed < d)
      ∧ (let checked := fun bytes => { (rx .collect bytes none).link with receiver := ⟨.collect, [], none⟩ }.frameEnds bytes
         (checked [0]).buffers = [] ∧ (checked shortFrame).buffers ≠ []
          ∧ ({ waiting 0 with link := { (waiting 0).link with receiver := ⟨.collect, shortFrame, none⟩ } }).link.reply.isSome = true
          ∧ (waiting 0).pins.ready = false ∧ (linked fun l => { l with resetAsked := true }).link.resetAsked = true)
      ∧ ((rx .collect shortFrame none).pins.resetLow = false ∧ ([] : List Byte).length ≤ 1040
        ∧ shortFrame = (1#8 :: 0 :: (bytes2 0 ++ [])) ++ bytes2 (crc16 (1#8 :: 0 :: (bytes2 0 ++ []))).toNat
        ∧ 1#8 = kindCode .partInfo ∧ kindOfCode 0x06#8 = none) :=
  ⟨fun _ _ _ => ⟨⟨rfl, rfl⟩, rfl⟩, ⟨⟨rfl, rfl⟩, rfl, rfl⟩, by decide, by decide, by decide, by decide +kernel, by decide +kernel, by decide,
    ⟨0, rfl, Nat.le_refl 0⟩, fun d h => by cases h; decide +kernel, by decide +kernel, by decide +kernel⟩
theorem test_hyps_ReceptionFaults :
    let wrong := [1, 0, 0, 1] ++ bytes2 (crc16 [1, 0, 0, 1]).toNat
    [1#8, 0, 0, 0, 0].length < 6 ∧ 6 ≤ [1#8, 0, 0, 0, 0, 0].length
      ∧ (crc16 ([1, 0, 0, 0, 0, 0].take 4)).toNat ≠ field2 [1, 0, 0, 0, 0, 0] 4
      ∧ 6 ≤ wrong.length ∧ (crc16 (wrong.take (wrong.length - 2))).toNat = field2 wrong (wrong.length - 2)
      ∧ field2 wrong 2 ≠ wrong.length - 6
      ∧ 6 ≤ shortFrame.length ∧ (crc16 (shortFrame.take (shortFrame.length - 2))).toNat = field2 shortFrame (shortFrame.length - 2)
      ∧ field2 shortFrame 2 = shortFrame.length - 6 ∧ 2 ≤ (waiting 2).link.buffers.length
      ∧ (waiting 1).link.buffers.length < 2 := by decide +kernel
theorem test_hyps_WireRoundTrip : (List.replicate 1040 0#8).length ≤ 1040 ∧ (waiting 1).link.buffers.length < 2
    ∧ (waiting 1).link.receiver.state = .hunt ∧ (rx .collect [] none).link.receiver.state = .collect
    ∧ (rx .collect [] none).link.receiver.bytes = []
    ∧ (List.replicate (wireFrame 1 0 [0x5A]).length (none : Timer)).length = (wireFrame 1 0 [0x5A]).length
    ∧ (held.pins.resetLow = true ∧ ([true] ++ List.replicate 9 false).head? = some true ∧ (List.replicate 9 false).length ≠ 10)
    ∧ (let s := sending ⟨.data, 0x60, 0, []⟩
       s.pins.resetLow = false ∧ s.link.tx = some ⟨.data, 0x60, 0, []⟩ ∧ s.link.tx.map (·.bits.length) = some 80
        ∧ wireFrame 0x60 0 [] = [0x5A] ++ 0x60 :: (wireFrame 0x60 0 []).drop 2) := by
  decide +kernel
theorem test_hyps_RequestsAndReplies :
    ((waiting 1).pins.resetLow = false ∧ ([] : List Byte).length ≤ 1040 ∧ (waiting 1).link.reply.isSome = true
      ∧ (waiting 1).pins.ready = false ∧ (waiting 1).link.buffers.length < 2 ∧ 2 ≤ (waiting 2).link.buffers.length)
    ∧ (linked fun l => { l with resetAsked := true }).link.resetAsked = true
    ∧ (State.reset.link.reply = none ∧ Answer.ok [] ≠ .unknownKind ∧ State.reset.pins.ready = false)
    ∧ (ready.link.reply = none ∧ ready.link.tx = none ∧ ready.pins.ready = true)
    ∧ State.reset.TakesRequest ∧ kindOfCode 0x06#8 = none ∧ legalLength .holdLimitSet [] = false
    ∧ (legalLength .holdLimitSet [7, 7] = false ∧ legalLength .holdLimitSet [7] = true)
    ∧ (legalLength .reportMask [8, 1] = false ∧ legalLength .reportMask [1, 8] = true ∧ legalLength .washDone [0, 1] = false
      ∧ legalLength .clipTake [1, 13] = false ∧ legalLength .clipTake [1, 13, 2] = true)
    ∧ (let tile := List.replicate 10 0#8
       legalLength .layoutWrite (15 :: 1 :: (tile ++ [2, 0x20, 0x7E])) = true
        ∧ legalLength .layoutWrite (15 :: 1 :: (tile ++ [2, 0x20])) = false
        ∧ legalLength .layoutWrite (15 :: 1 :: (tile ++ [0, 0x20])) = false
        ∧ ([(tile, [0x20#8, 0x7E])] : List (List Byte × List Byte)).length < 256
        ∧ (∀ t ∈ [(tile, [0x20#8, 0x7E])], t.1.length = 10 ∧ t.2.length < 256)) :=
  ⟨by decide +kernel, rfl, by decide +kernel, by decide +kernel, takes, by decide +kernel, by decide +kernel, by decide +kernel,
    by decide +kernel, by decide +kernel⟩
theorem test_hyps_RaiseAndWithdraw :
    ReportId.view .a ≠ .linkFault ∧ (State.reset.link.report .start).pending = true
      ∧ (State.reset.link.report .linkFault).pending = false ∧ ready.link.tx = none ∧ ready.pins.ready = true
      ∧ ready.link.reply = none ∧ ready.link.nextReport = some .start
      ∧ (ready.link.report .start).content = some (.start .powerOn Config.revision .mbaud1_5) :=
  ⟨by decide, rfl, rfl, rfl, rfl, rfl, by decide +kernel, rfl⟩
/-- The state after reset with RDY high, START sent, an export READING and two halves. -/
def blocksWait (half0 half1 : Half) : State :=
  (ready.setLink (ready.link.withdraw .start)).setExporter
    ⟨some { phase := .reading, clip := 0, job := 0, firstFrame := 0, frameCount := 1, scale := 1, content := .luma,
            nextFrame := none, nextOffset := 0, nextSequence := 1, blocksSent := 0, stall := none },
      half0, half1⟩
theorem test_hyps_Arbiter :
    State.reset.link.nextReport = some .start ∧ (linked fun l => l.withdraw .start).link.nextReport = none
      ∧ (State.reset.pins.resetLow = false ∧ State.reset.link.buffers = [])
      ∧ (sending ⟨.data, 0x60, 0, []⟩).link.tx.isSome = true
      ∧ ((waiting 0).link.buffers = [] ∧ (waiting 0).link.tx = none ∧ (waiting 0).link.reply = some ⟨0x81, 0, [], false⟩)
      ∧ (ready.link.tx = none ∧ ready.pins.ready = true ∧ ready.link.reply = none ∧ ready.link.nextReport = some .start)
      ∧ ((waiting 0).setPins ready.pins).link.reply = some ⟨0x81, 0, [], false⟩
      ∧ (∀ h0 h1, (blocksWait h0 h1).pins = ready.pins ∧ (blocksWait h0 h1).link.buffers = []
        ∧ (blocksWait h0 h1).link.tx = none ∧ (blocksWait h0 h1).link.reply = none
        ∧ (blocksWait h0 h1).link.nextReport = none ∧ (blocksWait h0 h1).exporter.job.isSome = true
        ∧ (blocksWait h0 h1).exporter.half0 = h0 ∧ (blocksWait h0 h1).exporter.half1 = h1)
      ∧ (∀ x, Half.full ⟨0, 1, 0, [1]⟩ = .full x → (Block.mk 0 0 0 [1]).sequence < x.sequence)
      ∧ (∀ b, Half.empty ≠ .full b) ∧ (linked fun l => l.withdraw .start).exporter.job = none
      ∧ ((waiting 1).pins.resetLow = false ∧ (waiting 1).link.tx = none ∧ (waiting 1).link.reply = some ⟨0x81, 0, [], false⟩
        ∧ (waiting 1).link.resetAsked = false ∧ (waiting 1).link.buffers = [⟨1, 0, []⟩])
      ∧ State.reset.TakesRequest ∧ State.reset.pins.ready = false := by
  refine ⟨by decide +kernel, by decide +kernel, by decide +kernel, by decide +kernel, by decide +kernel, by decide +kernel,
    by decide +kernel, ?_, ?_, nofun, by decide +kernel, by decide +kernel, takes, rfl⟩
  · intro h0 h1
    have h : (linked fun l => l.withdraw .start).link.nextReport = none := by decide +kernel
    exact ⟨rfl, rfl, rfl, rfl, h, rfl, rfl, rfl⟩
  · intro x h
    cases h
    decide
/-- RDY_RISE sends the FULL half of lower block sequence, which becomes SENDING. -/
theorem test_lowerBlockLeaves :
    (sOf (exec .rdyRise (blocksWait (.full ⟨0, 2, 0, [9]⟩) (.full ⟨0, 1, 0, [8]⟩)))).exporter.half1 = .sending ⟨0, 1, 0, [8]⟩
      ∧ (sOf (exec .rdyRise (blocksWait (.full ⟨0, 2, 0, [9]⟩) (.full ⟨0, 1, 0, [8]⟩)))).link.tx.map (·.kind) = some 0x60#8 := by
  decide +kernel
/-- A request that waits is answered when the reply before it leaves. -/
theorem test_waitingRequestDecoded : (sOf (exec .rdyRise (waiting 1))).link.reply.map (·.kind) = some 0x81#8
    ∧ (sOf (exec .rdyRise (waiting 1))).link.buffers = [] := by decide +kernel
theorem test_hyps_JobTable : State.reset.link.freeJob = some 0 ∧ noJob.link.freeJob = none
    ∧ (∀ j : JobId, noJob.link.jobs[j] = .running ⟨.soilLearn, 0, 0⟩)
    ∧ State.reset.link.jobs[(0 : JobId)] = .free := by decide +kernel
theorem test_hyps_FrameBoundary :
    let done := linked fun l =>
      { l with tx := some ⟨.report (.jobDone 7), 0x44, 0, []⟩, jobs := l.jobs.set 7 (.doneUnsent ⟨.clipTake, 0, 0⟩) }
    State.reset.pins.resetLow = false ∧ State.reset.pins.ready = false ∧ State.reset.link.buffers = []
      ∧ ((waiting 2).link.buffers.length = 2 ∧ (waiting 2).link.reply.isSome = true ∧ (waiting 2).pins.ready = false)
      ∧ (linked fun l => { l with resetAsked := true }).link.resetAsked = true
      ∧ State.reset.link.tx = none ∧ (sending ⟨.reply false, 0x81, 0, []⟩).link.tx = some ⟨.reply false, 0x81, 0, []⟩
      ∧ done.link.tx = some ⟨.report (.jobDone 7), 0x44, 0, []⟩ ∧ done.link.jobs[(7 : JobId)] = .doneUnsent ⟨.clipTake, 0, 0⟩
      ∧ (∀ j, ReportId.view .a ≠ .jobDone j)
      ∧ (sending ⟨.report (.view .a), 0x43, 0, []⟩).link.tx = some ⟨.report (.view .a), 0x43, 0, []⟩
      ∧ (sending ⟨.data, 0x60, 0, []⟩).link.tx = some ⟨.data, 0x60, 0, []⟩
      ∧ (let up := (sending ⟨.reply false, 0x81, 0, []⟩).setPins { ready := true, resetLow := false }
         up.pins.resetLow = false ∧ up.pins.ready = true ∧ up.link.tx = some ⟨.reply false, 0x81, 0, []⟩) := by decide +kernel
theorem test_hyps_QueriesChangeNothing : State.reset.TakesRequest
    ∧ ((159#8).toNat = (159 : SlotNo).val ∧ 160 ≤ (160#8).toNat ∧ (160#8) ≠ 0xFF#8)
    ∧ ((13#8).toNat = (13 : Cam).val ∧ 13 < (14#8).toNat) ∧ 1 < (2#8).toNat
    ∧ ((15#8).toNat = (15 : LayoutNo).val ∧ 15 < (16#8).toNat) ∧ ((7#8).toNat = (7 : ClipId).val ∧ 7 < (8#8).toNat)
    ∧ (ringed.ring 3 = some ⟨[12, 13], [], some 14⟩ ∧ ringed.ring 4 = none ∧ State.reset.clip 7 = none) :=
  ⟨takes, by decide, by decide, by decide, by decide, by decide, by decide +kernel⟩
theorem test_hyps_LinkSettings : State.reset.TakesRequest
    ∧ ([1#8, 2, 3, 4, 6, 7].length ≤ 6 ∧ ∀ b ∈ [1#8, 2, 3, 4, 6, 7], b.toNat ∈ [1, 2, 3, 4, 6, 7])
    ∧ (6 < [1#8, 1, 1, 1, 1, 1, 1].length ∧ [1#8, 1, 1, 1, 1, 1, 1].length < 256)
    ∧ (([1#8, 2, 3, 4, 6].length + 1 + ([] : List Byte).length ≤ 6) ∧ (∀ x ∈ [1#8, 2, 3, 4, 6], x.toNat ∈ [1, 2, 3, 4, 6, 7])
      ∧ (5#8).toNat ∉ [1, 2, 3, 4, 6, 7]) := ⟨takes, by decide⟩

/-- A slot manager with one slot in use, slot 5, and a ring of camera 3. -/
def lone (p : Place) (h : Holders) (r : Ring) : SlotManager := (SlotManager.reset.setSlot 5 ⟨p, h⟩).setRing 3 (some r)

/-- Camera 3's ring of three READY slots, the oldest pinned by screen A when asked. -/
def fullRing (pinned : Bool) : SlotManager :=
  ((ringed.setSlot 14 ⟨.ready 3 (frame 102) none, Holders.none⟩).setSlot 12
    ⟨.ready 3 (frame 100) none, ⟨pinned, false, false⟩⟩).setRing 3 (some ⟨[12, 13, 14], [], none⟩)

theorem test_hyps_DiscardAndTake :
    (SlotManager.reset.ring 0 = none ∧ (fullRing true).ring 3 = some ⟨[12, 13, 14], [], none⟩
      ∧ ringed.ring 3 = some ⟨[12, 13], [], some 14⟩)
    ∧ ((ringed.discard 3).ring 3 = some ⟨[12, 13], [14], none⟩)
    ∧ (((fullRing true).discard 3).ring 3 = some ⟨[12] ++ 13 :: [14], [], none⟩
      ∧ (∀ j ∈ [(12 : SlotNo)], 0 < (((fullRing true).discard 3).slot j).holders.count
        ∨ ((fullRing true).discard 3).claimOf j ≠ none)
      ∧ ¬(0 < (((fullRing true).discard 3).slot 13).holders.count ∨ ((fullRing true).discard 3).claimOf 13 ≠ none))
    ∧ (let m := (fullRing true).setRing 3 (some ⟨[12, 14], [], none⟩)
       (m.discard 3).ring 3 = some ⟨[12, 14], [], none⟩
        ∧ ∀ j ∈ [(12 : SlotNo), 14].dropLast, 0 < ((m.discard 3).slot j).holders.count ∨ (m.discard 3).claimOf j ≠ none) := by
  decide +kernel
theorem test_hyps_Pins :
    let retiring := fun h => lone (.retiring 3 (frame 1)) h ⟨[], [], none⟩
    SlotManager.reset.ring 3 = none ∧ (retiring Holders.none).ring 3 = some ⟨[], [], none⟩
      ∧ (fullRing true).ring 3 = some ⟨[12, 13] ++ [14], [], none⟩
      ∧ ((fullRing true).slot 12).holders.has .screenA = true ∧ ((fullRing true).slot 12).holders.has .screenB = false
      ∧ (∀ c f, ((fullRing true).slot 12).place ≠ .retiring c f)
      ∧ ((retiring ⟨true, false, false⟩).slot 5 = ⟨.retiring 3 (frame 1), ⟨true, false, false⟩⟩
        ∧ (⟨true, false, false⟩ : Holders).count = 1 ∧ (⟨true, true, true⟩ : Holders).count = 3) := by
  refine ⟨by decide +kernel, by decide +kernel, by decide +kernel, by decide +kernel, by decide +kernel, ?_, by decide +kernel⟩
  have h : ((fullRing true).slot 12).place = .ready 3 (frame 100) none := by decide +kernel
  intro c f
  rw [h]
  nofun
theorem test_hyps_ReturnsAndRings :
    SlotManager.reset.deficit = [] ∧ ({ ringed with deficit := [3] }.deficit = [3] ∧ (ringed.ring 3).isSome = true)
      ∧ (SlotManager.reset.ring 3 = none ∧ { SlotManager.reset with freePool := [0, 1, 2] }.freePool.length = 3) := by
  decide +kernel
theorem test_hyps_ClaimsAndPublications :
    let claimed := lone (.ready 3 (frame 7) (some 2)) Holders.none ⟨[5], [], none⟩
    let one := lone (.ready 3 (frame 7) none) Holders.none ⟨[5], [], none⟩
    let two := lone (.ready 3 (frame 7) none) Holders.none ⟨[5, 6], [], none⟩
    let filling := fun ready m => (m : SlotManager).setRing 3 (some ⟨ready, [], some 14⟩)
    ((one.slot 5).place = .ready 3 (frame 7) none ∧ (frame 7).sequence = 7 ∧ (frame 7).sequence ≠ 8)
      ∧ (claimed.slot 5).place = .ready 3 (frame 7) (some 2)
      ∧ { one with holdCount := 32 }.holdLimit ≤ { one with holdCount := 32 }.holdCount
      ∧ { one with holdCount := 31 }.holdCount < { one with holdCount := 31 }.holdLimit
      ∧ (one.ring 3 = some ⟨[5], [], none⟩ ∧ [(5 : SlotNo)].getLast? = some 5)
      ∧ (two.ring 3 = some ⟨[5, 6], [], none⟩ ∧ [(5 : SlotNo), 6].getLast? ≠ some 5)
      ∧ ({ two with freePool := [] }.freePool = [] ∧ two.freePool ≠ [])
      ∧ (SlotManager.reset.ring 3 = none ∧ (fullRing true).ring 3 = some ⟨[12, 13, 14], [], none⟩)
      ∧ ((filling [] ringed).ring 3 = some ⟨[], [], some 14⟩ ∧ (ringed.slot 14).place = .filling 3 (frame 102))
      ∧ ([(12 : SlotNo), 13].getLast? = some 13 ∧ ringed.claimOf 13 = none
        ∧ (ringed.setSlot 13 ⟨.ready 3 (frame 101) (some 0), Holders.none⟩).claimOf 13 = some 0) := by decide +kernel
theorem test_hyps_ReleaseAndDissolve :
    let clip := fun h => lone (.clip 3 (frame 1) 7) h ⟨[], [], none⟩
    let ready := lone (.ready 3 (frame 1) (some 7)) Holders.none ⟨[5], [], none⟩
    ((clip Holders.none).slot 5 = ⟨.clip 3 (frame 1) 7, Holders.none⟩ ∧ Holders.none.count = 0)
      ∧ ((clip ⟨true, false, false⟩).slot 5).holders.count ≠ 0 ∧ (ready.slot 5).place = .ready 3 (frame 1) (some 7)
      ∧ (SlotManager.reset.slot 5).place = .free ∧ SlotManager.reset.ring 3 = none
      ∧ ((ready.ring 3) = some ⟨[5], [], none⟩ ∧ [(5 : SlotNo)].getLast? = some 5 ∧ ready.claimOf 5 = some 7) := by
  decide +kernel

/-- The frame store with no free slot: camera 3 with slot 14 FILLING, 15 BLANK, 12 READY and pinned, 13 READY and 16 its newest
with a claim of clip 7; camera 5 with slot 20 READY and two deficit entries; every other slot in clip 0. -/
def crowded : SlotManager :=
  let place : SlotNo → SlotRecord := fun i =>
    if i = 12 then ⟨.ready 3 (frame 1) none, ⟨true, false, false⟩⟩ else if i = 13 then ⟨.ready 3 (frame 2) none, Holders.none⟩
    else if i = 14 then ⟨.filling 3 (frame 4), Holders.none⟩ else if i = 15 then ⟨.blank 3, Holders.none⟩
    else if i = 16 then ⟨.ready 3 (frame 3) (some 7), ⟨false, true, false⟩⟩
    else if i = 20 then ⟨.ready 5 (frame 9) none, Holders.none⟩ else ⟨.clip 0 (frame 0) 0, Holders.none⟩
  { (SlotManager.reset.setRing 3 (some ⟨[12, 13, 16], [15], some 14⟩)).setRing 5 (some ⟨[20], [], none⟩) with
    records := Vector.ofFn place, freePool := [], deficit := [5, 3, 5], holdCount := 155 }

/-- Every list of slots. -/
def lists : List SlotList :=
  .free :: (List.finRange 14).flatMap fun c => [.blank c, .filling c, .ready c]

theorem mem_lists (l : SlotList) : l ∈ lists := by
  cases l with
  | free => exact List.mem_cons_self
  | blank c => exact List.mem_cons_of_mem _ (List.mem_flatMap.2 ⟨c, List.mem_finRange c, by simp⟩)
  | filling c => exact List.mem_cons_of_mem _ (List.mem_flatMap.2 ⟨c, List.mem_finRange c, by simp⟩)
  | ready c => exact List.mem_cons_of_mem _ (List.mem_flatMap.2 ⟨c, List.mem_finRange c, by simp⟩)

theorem crowded_accounted : SlotsAccounted crowded where
  placed := by
    have h : ∀ l ∈ lists, ∀ i : SlotNo, (crowded.slot i).place.list = some l ↔ i ∈ crowded.members l := by decide +kernel
    exact fun i l => h l (mem_lists l) i
  distinct := by
    have h : ∀ l ∈ lists, (crowded.members l).Nodup := by decide +kernel
    exact fun l => h l (mem_lists l)
  pins := by
    have h : ∀ i : SlotNo, (match (crowded.slot i).place with
      | .free => decide ((crowded.slot i).holders = Holders.none)
      | .blank _ => decide ((crowded.slot i).holders = Holders.none)
      | .filling _ _ => decide ((crowded.slot i).holders = Holders.none)
      | .retiring _ _ => decide ((crowded.slot i).holders.count ≠ 0)
      | _ => true) = true := by decide +kernel
    intro i
    have := h i
    unfold SlotRecord.pinsFit
    split at this <;> simp_all
  claimed := by
    have h : ∀ i : SlotNo, (match (crowded.slot i).place with
      | .ready c _ (some _) => decide (crowded.newest c = some i)
      | _ => true) = true := by decide +kernel
    intro i c f k e
    have := h i
    rw [e] at this
    simpa using this
  deficit := by decide +kernel
  held := by decide +kernel

/-- A dissolution, worked by hand: the claimed slot goes to its clip, the FILLING and the BLANK slot to camera 5, slot 13 to the
free pool, and the pinned slot 12 retires. -/
theorem test_dissolve :
    let t := crowded.dissolve 3
    t.2 = some ⟨16, 3, 3, 7⟩ ∧ t.1.slot 16 = ⟨.clip 3 (frame 3) 7, ⟨false, true, false⟩⟩
      ∧ t.1.ring 5 = some ⟨[20], [14, 15], none⟩ ∧ t.1.freePool = [13] ∧ t.1.deficit = []
      ∧ t.1.slot 12 = ⟨.retiring 3 (frame 1), ⟨true, false, false⟩⟩ := by decide +kernel
theorem test_hyps_ReleaseAndDissolve_ring : SlotsAccounted crowded ∧ crowded.ring 3 = some ⟨[12, 13, 16], [15], some 14⟩
    ∧ (crowded.slot 16).place = .ready 3 (frame 3) (some 7) ∧ crowded.claimOf 12 = none
    ∧ (crowded.slot 12).holders.count ≠ 0 ∧ (crowded.slot 12).place = .ready 3 (frame 1) none
    ∧ ((fullRing true).ring 3 = some ⟨[12, 13, 14], [], none⟩ ∧ (fullRing true).claimOf 14 = none) :=
  ⟨crowded_accounted, by decide +kernel⟩
theorem test_hyps_HoldLimitSet :
    let s := fun n => State.reset.setSlots { SlotManager.reset with holdCount := n }
    State.reset.TakesRequest ∧ (s 64).TakesRequest ∧ (s 33).TakesRequest ∧ 64 < (65#8).toNat
      ∧ ((63#8).toNat ≤ 64 ∧ (63#8).toNat < (s 64).slots.holdCount)
      ∧ ((64#8).toNat ≤ 64 ∧ (s 64).slots.holdCount ≤ (64#8).toNat)
      ∧ (s 32).slots.holdLimit ≤ (s 32).slots.holdCount :=
  ⟨takes, ⟨rfl, rfl, rfl, rfl⟩, ⟨rfl, rfl, rfl, rfl⟩, by decide +kernel⟩

/-- The body of a CAMERA_SETUP. -/
def setupBody (n w h rate depth timeout interval : Nat) : List Byte :=
  [byteOf n] ++ bytes2 w ++ bytes2 h ++ [byteOf rate, byteOf depth] ++ bytes2 timeout ++ bytes2 interval

/-- Every clause of CameraSetup at a boundary value of its range, with what it answers. -/
theorem test_hyps_CameraSetup : State.reset.TakesRequest ∧ (setupBody 13 1280 800 30 8 2000 60000).length = 11
    ∧ (let answer := fun body => replyBody (exec (.cameraSetup 0 body) State.reset)
       answer (setupBody 14 640 480 25 3 200 0) = some [0x04, 0]
        ∧ answer (setupBody 13 1281 480 25 3 200 0) = some [0x04, 1] ∧ answer (setupBody 0 640 192 25 3 200 0) = some [0x04, 2]
        ∧ answer (setupBody 0 640 480 9 3 200 0) = some [0x04, 3] ∧ answer (setupBody 0 640 480 25 9 200 0) = some [0x04, 4]
        ∧ answer (setupBody 0 640 480 25 3 49 0) = some [0x04, 5] ∧ answer (setupBody 0 640 480 25 3 200 499) = some [0x04, 6]
        ∧ answer (setupBody 0 640 480 19 3 50 500) = some [0x04, 5] ∧ answer (setupBody 0 320 200 20 2 50 500) = some [0x00]
        ∧ answer (setupBody 13 1280 800 30 8 2000 60000) = some [0x00])
    ∧ (let busy := camera fun r => { r with state := .stopping }
       busy.TakesRequest ∧ replyBody (exec (.cameraSetup 0 (setupBody 0 640 480 25 3 200 0)) busy) = some [0x05]) :=
  ⟨takes, by decide +kernel, by decide +kernel, ⟨rfl, rfl, rfl, rfl⟩, by decide +kernel⟩

/-- The state after reset with a control record of camera 0. -/
def control (queue : List QueueEntry) (inFlight : Option LaneCommand) (attempt : Attempt) (timer : Timer) (unsent : Nat) :
    State := State.reset.setCtl 0 ⟨queue, inFlight, attempt, timer, unsent⟩

/-- A stream-off that has started. -/
def offEntry : QueueEntry := ⟨.streamOff, true, false⟩

theorem test_hyps_CameraStart :
    let full := fun n => control (List.replicate n offEntry) (some .streamOff) .first none 0
    let work := EntryWork.bringUp 640 480 25 .identify
    (∀ n, (full n).TakesRequest) ∧ noJob.TakesRequest ∧ (∀ f, (camera f).TakesRequest)
      ∧ ((13#8).toNat = (13 : Cam).val ∧ 13 < (14#8).toNat)
      ∧ ((camera fun r => { r with state := .lost }).cam 0).state = .lost
      ∧ ((full 3).cam 0).state = .off ∧ 3 ≤ ((full 3).ctl 0).queue.length ∧ ((full 2).ctl 0).queue.length < 3
      ∧ noJob.link.freeJob = none ∧ ((noJob.ctl 0).queue.length < 3) ∧ State.reset.link.freeJob = some 0
      ∧ { SlotManager.reset with freePool := [0, 1] }.establish 0 3 = none
      ∧ ((State.reset.ctl 0).enqueue work).isSome = true ∧ ((State.reset.slots.establish 0 3).isSome = true) :=
  ⟨fun _ => ⟨rfl, rfl, rfl, rfl⟩, ⟨rfl, rfl, rfl, rfl⟩, fun _ => ⟨rfl, rfl, rfl, rfl⟩, by decide +kernel⟩
theorem test_hyps_CameraStop : (offEntry.work = .streamOff ∧ EntryWork.streamOff ≠ .passThrough .status 0
    ∧ (QueueEntry.mk (.passThrough .status 0) false false).work = .passThrough .status 0) ∧ (∀ f, (camera f).TakesRequest) ∧ ((13#8).toNat = (13 : Cam).val ∧ 13 < (14#8).toNat)
    ∧ (State.reset.cam 0).state = .off ∧ ∀ x, ((camera fun r => { r with state := x }).cam 0).state = x :=
  ⟨⟨rfl, nofun, rfl⟩, fun _ => ⟨rfl, rfl, rfl, rfl⟩, by decide, by decide +kernel, fun x => by cases x <;> decide +kernel⟩
theorem test_hyps_CameraCommand :
    let pass : QueueEntry := ⟨.passThrough .status 0, false, false⟩
    let s := fun l => control l (some .streamOff) .first none 0
    let watched := State.reset.setSoilOf 0 { State.reset.soilOf 0 with watch := true }
    (∀ l, (s l).TakesRequest) ∧ noJob.TakesRequest ∧ watched.TakesRequest ∧ (∀ f, (camera f).TakesRequest)
      ∧ ((13#8).toNat = (13 : Cam).val ∧ 13 < (14#8).toNat) ∧ (4#8 ≠ 1#8 ∧ 4#8 ≠ 5#8 ∧ 4#8 ≠ 6#8) ∧ (2#8 ≠ 0#8 ∧ 2#8 ≠ 1#8)
      ∧ ((camera fun r => { r with state := .stopping }).cam 0).state = .stopping
      ∧ ((watched.soilOf 0).watch = true ∧ (watched.cam 0).state ≠ .stopping) ∧ (State.reset.soilOf 0).watch = false
      ∧ (∃ e ∈ ((s [pass]).ctl 0).queue, e.isPassThrough = true)
      ∧ (3 ≤ ((s [offEntry, offEntry, offEntry]).ctl 0).queue.length
        ∧ ∀ e ∈ ((s [offEntry, offEntry, offEntry]).ctl 0).queue, e.isPassThrough = false)
      ∧ noJob.link.freeJob = none ∧ State.reset.link.freeJob = some 0
      ∧ ((State.reset.ctl 0).enqueue (.passThrough .identify 0)).isSome = true :=
  ⟨fun _ => ⟨rfl, rfl, rfl, rfl⟩, ⟨rfl, rfl, rfl, rfl⟩, ⟨rfl, rfl, rfl, rfl⟩, fun _ => ⟨rfl, rfl, rfl, rfl⟩, by decide +kernel⟩
theorem test_hyps_ControlQueue :
    let heater : QueueEntry := ⟨.heater false, false, false⟩
    3 ≤ [offEntry, offEntry, offEntry].length ∧ ((State.reset.ctl 0).queue = [] ∧ (State.reset.ctl 0).inFlight = none)
      ∧ ([offEntry, offEntry].length < 3 ∧ some LaneCommand.streamOff ≠ none)
      ∧ (∀ e ∈ [offEntry] ++ ([] : List QueueEntry), e.unsentHeater = false)
      ∧ [offEntry, heater] = [offEntry] ++ heater :: []
      ∧ (offEntry.started = true ∧ heater.started = false) := by decide +kernel
theorem test_hyps_HealthCounts :
    let r := { CameraRecord.reset with damagedTotal := 0xFFFFFFFE, publishedTotal := 0xFFFFFFFE, skippedTotal := 0xFFFFFFFE }
    r.damagedTotal ≠ 0xFFFFFFFF#32 ∧ r.publishedTotal ≠ 0xFFFFFFFF#32 ∧ r.skippedTotal ≠ 0xFFFFFFFF#32
      ∧ ({ r with degraded := true }.degraded ≠ r.degraded ∧ { r with starved := true }.starved ≠ r.starved)
      ∧ healthCauses r { r with degraded := true, starved := true } = [.health, .health] := by decide +kernel
theorem test_hyps_FrameStart :
    let s := (camera fun r => { r with state := .searching }).setSlots ((State.reset.slots.establish 0 3).getD State.reset.slots)
    let check := crc8 [0x01#8, 0, 9, 2, 0x80, 1, 0xE0]
    (∀ f m, ((camera f).setSlots m).Unasked) ∧ (State.reset.cam 0).state = .off ∧ (s.cam 0).state = .searching
      ∧ (check ^^^ 1#8) ≠ check ∧ ([] : List Byte).length ≠ 7
      ∧ (nat2 0x02 0x80 = (s.cam 0).setup.width ∧ nat2 0x01 0xE0 = (s.cam 0).setup.height ∧ nat2 0x01 0xE1 ≠ (s.cam 0).setup.height)
      ∧ (s.slots.take 0 (frame 1)).2 = some 0 ∧ (State.reset.slots.take 0 (frame 1)).2 = none :=
  ⟨fun _ _ => ⟨rfl, rfl⟩, by decide +kernel⟩
/-- Every 16-bit number is the field of two bytes. -/
theorem nat2_reaches (x : BitVec 16) : ∃ high low : Byte, nat2 high low = x.toNat := by
  refine ⟨byteOf (x.toNat / 256), byteOf x.toNat, ?_⟩
  have := x.isLt
  simp only [nat2, byteOf, BitVec.toNat_ofNat]
  omega
theorem test_hyps_LinePacket :
    let s := ((camera fun r => { r with setup := ⟨320, 200, 25, 3, 200, 2000⟩, state := .running, receive := .receiving }).setSlots
      (((State.reset.slots.establish 0 3).getD State.reset.slots).take 0 (frame 1)).1)
    let zeros := List.replicate 640 0#8
    s.Unasked ∧ (∃ k1 k0, nat2 k1 k0 = (crc16 (0 :: 0 :: zeros)).toNat) ∧ setupFault (s.cam 0).setup = none ∧ (s.cam 0).state = .running ∧ (s.cam 0).receive = .receiving
      ∧ (State.reset.cam 0).receive ≠ .receiving
      ∧ zeros.length = 2 * (s.cam 0).setup.width ∧ (zeros.drop 1).length ≠ 2 * (s.cam 0).setup.width
      ∧ (nat2 0 0 = (s.cam 0).nextLine ∧ nat2 0 0 < (s.cam 0).setup.height) ∧ nat2 0 1 ≠ (s.cam 0).nextLine
      ∧ (s.slots.ring 0).bind (·.filling) = some 0 :=
  ⟨⟨rfl, rfl⟩, nat2_reaches _, by decide +kernel⟩
theorem test_hyps_FrameEnd :
    let s := ((camera fun r => { r with state := .running, receive := .receiving, nextLine := 480 }).setSlots
      (((State.reset.slots.establish 0 3).getD State.reset.slots).take 0 (frame 1)).1)
    let check := crc8 [0x03#8, 1, 0xE0]
    s.Unasked ∧ (s.cam 0).state = .running ∧ (s.cam 0).receive = .receiving ∧ (State.reset.cam 0).receive ≠ .receiving
      ∧ check ^^^ 1#8 ≠ check ∧ ([] : List Byte).length ≠ 3
      ∧ (nat2 1 0xE0 = (s.cam 0).setup.height ∧ (s.cam 0).nextLine = (s.cam 0).setup.height)
      ∧ nat2 1 0xDF ≠ (s.cam 0).setup.height
      ∧ (s.slots.publish 0).2.isSome = true ∧ (State.reset.slots.publish 0).2 = none :=
  ⟨⟨rfl, rfl⟩, by decide +kernel⟩
theorem test_hyps_CameraTimers :
    let timed := fun (state : CaptureState) (n : Nat) => camera fun r => { r with state := state, frameTimer := some n, recoveryTimer := some n }
    let busy := timed .lost 0 |>.setCtl 0 ⟨[offEntry, offEntry, offEntry], some .streamOff, .first, none, 0⟩
    (∀ f, (camera f).Unasked) ∧ busy.Unasked ∧ ((State.reset.cam 0).state ≠ .searching ∧ (State.reset.cam 0).state ≠ .running)
      ∧ ((timed .running 1).cam 0).frameTimer = some 1 ∧ (timed .running 1).elapsed < 1
      ∧ (((timed .searching 0).cam 0).frameTimer = some 0 ∧ 0 ≤ (timed .searching 0).elapsed
        ∧ ((timed .searching 0).cam 0).state = .searching)
      ∧ (((timed .lost 1).cam 0).recoveryTimer = some 1 ∧ ((timed .lost 0).cam 0).recoveryTimer = some 0
        ∧ ((timed .lost 0).cam 0).state = .lost ∧ ((timed .lost 0).cam 0).recoveryPending = false)
      ∧ (3 ≤ (busy.ctl 0).queue.length ∧ (busy.cam 0).recoveryTimer = some 0)
      ∧ ((State.reset.ctl 0).enqueue (.bringUp 640 480 25 .identify)).isSome = true :=
  ⟨fun _ => ⟨rfl, rfl⟩, ⟨rfl, rfl⟩, by decide +kernel⟩
theorem test_hyps_CameraResponse :
    let s := fun attempt n unsent => control [offEntry] (some .streamOff) attempt (some n) unsent
    let done := [LaneCommand.streamOff.code, 0#8, crc8 [0x04#8, LaneCommand.streamOff.code, 0]]
    let refused := [LaneCommand.streamOff.code, 1#8, crc8 [0x04#8, LaneCommand.streamOff.code, 1]]
    (∀ a n u, (s a n u).Unasked) ∧ (State.reset.ctl 0).inFlight = none
      ∧ (((s .first 1 0).ctl 0).responseTimer = some 1 ∧ (s .first 1 0).elapsed < 1)
      ∧ (((s .first 0 0).ctl 0).inFlight = some .streamOff ∧ checkResponse .streamOff [] = none)
      ∧ (((s .second 0 0).ctl 0).queue = [offEntry] ∧ ((s .second 0 0).ctl 0).attempt = .second)
      ∧ checkResponse .streamOff done = some (.done []) ∧ checkResponse .streamOff refused = some (.failed .cameraRefused)
      ∧ (0x05#8 ≠ LaneCommand.streamOff.code ∧ [0#8].length ≠ LaneCommand.streamOff.payloadLength ∧ [0#8] ≠ [])
      ∧ (((control [offEntry] none .first none 0).ctl 0).queue = [offEntry] ∧ ((control [offEntry] none .first none 0).ctl 0).inFlight = none)
      ∧ ((s .first 0 0).ctl 0).unsent = 0 ∧ ((s .first 0 1).ctl 0).unsent = 1 ∧ ((s .first 0 2).ctl 0).unsent = 0 + 2
      ∧ ((control [] none .first none 1).ctl 0).unsent = 1 ∧ ((control [] none .first none 1).ctl 0).inFlight = none :=
  ⟨fun _ _ _ => ⟨rfl, rfl⟩, by decide +kernel⟩
theorem test_hyps_EntryEnds :
    let entry := fun w f => QueueEntry.mk w true f
    let s := fun w f => control [entry w f] none .first none 0
    let known := CameraRecord.reset.identified [0xFF, 0xFE, 0xFD, 0xFC, 0xFB, 0xFA, 1, 5, 0, 3, 0x20]
    (∀ w f, ((s w f).ctl 0).queue = [entry w f])
      ∧ (known.identity = some ⟨0xFFFE, 0xFDFCFBFA⟩ ∧ known.largest = some ⟨1280, 800⟩)
      ∧ ((entry .streamOff true).flushed = true ∧ ∀ p j, (entry .streamOff true).work ≠ .passThrough p j)
      ∧ (∀ on, PassCommand.identify ≠ .heater on)
      ∧ (∀ x, (((s (.bringUp 640 480 25 .streamOn) false).setCam 0 { CameraRecord.reset with state := x }).cam 0).state = x)
      ∧ ∀ x, (((s .streamOff false).setCam 0 { CameraRecord.reset with state := x }).cam 0).state = x :=
  ⟨fun _ _ => rfl, by decide +kernel, ⟨rfl, nofun⟩, nofun, fun x => by cases x <;> decide +kernel, fun x => by cases x <;> decide +kernel⟩

/-- The body of the reply to a request that the state after reset takes. -/
def answer (c : Instr) : Option (List Byte) := replyBody (exec c State.reset)

/-- The body of a DOOR_MAP with one door's record given and the others left without cameras. -/
def mapBody (d : Nat) (record : List Byte) : List Byte :=
  (List.replicate d [0#8, 0, 0xFF, 0xFF]).flatten ++ record ++ (List.replicate (11 - d) [0#8, 0, 0xFF, 0xFF]).flatten

theorem test_hyps_DoorAndEndMaps : State.reset.TakesRequest ∧ (fresh .a).TakesRequest
    ∧ (¬((14#8).toNat ≤ 13 ∨ 14#8 = 0xFF#8) ∧ ((13#8).toNat ≤ 13))
    ∧ ((13#8).toNat = (13 : Cam).val ∧ (0xFF#8 = 0xFF#8 ∧ (none : Option Cam) = none))
    ∧ (answer (.endMap 0 [14, 0]) = some [0x04, 0] ∧ answer (.endMap 0 [13, 14]) = some [0x04, 1]
      ∧ answer (.endMap 0 [13, 0xFF]) = some [0x00])
    ∧ (mapBody 11 [1, 5, 13, 0xFF]).length = 48
    ∧ (answer (.doorMap 0 (mapBody 11 [2, 0, 0, 0xFF])) = some [0x04, 44]
      ∧ answer (.doorMap 0 (mapBody 11 [1, 6, 0, 0xFF])) = some [0x04, 45]
      ∧ answer (.doorMap 0 (mapBody 11 [1, 5, 14, 0xFF])) = some [0x04, 46]
      ∧ answer (.doorMap 0 (mapBody 11 [1, 5, 13, 14])) = some [0x04, 47]
      ∧ answer (.doorMap 0 (mapBody 11 [1, 5, 13, 13])) = some [0x04, 47]
      ∧ answer (.doorMap 0 (mapBody 11 [1, 5, 0xFF, 0])) = some [0x04, 47]
      ∧ answer (.doorMap 0 (mapBody 11 [1, 5, 13, 0])) = some [0x00])
    ∧ ((fresh .a).doors.fresh = true ∧ State.reset.doors.fresh = false) :=
  ⟨takes, ⟨rfl, rfl, rfl, rfl⟩, by decide +kernel⟩
theorem test_hyps_DoorTable : State.reset.TakesRequest ∧ (fresh .a).TakesRequest ∧ (List.replicate 12 5#8).length = 12
    ∧ (5 < field1 (List.replicate 11 5#8 ++ [6]) 11 ∧ ∀ e : Door, e < 11 → field1 (List.replicate 11 5#8 ++ [6]) e.val ≤ 5)
    ∧ (∀ d : Door, [DoorState.locked, .released, .open, .closing, .obstructed, .fault][field1 (List.replicate 12 5#8) d.val]?
      = some .fault) := ⟨takes, ⟨rfl, rfl, rfl, rfl⟩, by decide +kernel⟩
theorem test_hyps_DoorChangeAndStaleness :
    let timed := fun cab n => (fresh cab).setDoors { (fresh cab).doors with timer := some n }
    State.reset.TakesRequest ∧ (∀ cab, (fresh cab).TakesRequest) ∧ (∀ cab n, (timed cab n).Unasked) ∧ State.reset.Unasked
      ∧ (11 < (12#8).toNat ∧ (11#8).toNat = (11 : Door).val ∧ 5 < (6#8).toNat)
      ∧ [DoorState.locked, .released, .open, .closing, .obstructed, .fault][(5#8).toNat]? = some .fault
      ∧ (State.reset.doors.fresh = false ∧ (fresh .a).doors.fresh = true)
      ∧ ((fresh .a).doors.table[(11 : Door)].state = .locked ∧ (fresh .a).doors.map[(11 : Door)].camera = none)
      ∧ (mapBody 11 [1, 5, 13, 0xFF]).length = 48
      ∧ (sOf (exec (.doorMap 0 (mapBody 11 [1, 5, 13, 0xFF])) State.reset)).doors.map[(11 : Door)].camera = some 13
      ∧ ((timed .a 1).doors.timer = some 1 ∧ (timed .a 1).elapsed < 1)
      ∧ ((timed .b 0).doors.fresh = true ∧ (timed .b 0).doors.timer = some 0 ∧ (timed .b 0).doors.cab = .b)
      ∧ ((timed .none 0).doors.cab = .none ∧ (timed .a 0).doors.cab = .a) :=
  ⟨takes, fun _ => ⟨rfl, rfl, rfl, rfl⟩, fun _ _ => ⟨rfl, rfl⟩, unasked, by decide +kernel⟩
theorem test_hyps_DoorFreshnessSet : State.reset.TakesRequest ∧ (fresh .a).TakesRequest
    ∧ (nat2 0 1 = 1 ∧ nat2 0 199 = 199 ∧ nat2 0 200 = 200 ∧ nat2 0x27 0x10 = 10000 ∧ nat2 0x27 0x11 = 10001 ∧ nat2 0 0 = 0)
    ∧ ((fresh .a).doors.fresh = true ∧ State.reset.doors.fresh = false) := ⟨takes, ⟨rfl, rfl, rfl, rfl⟩, by decide +kernel⟩
theorem test_hyps_CabSet : (∀ cab, (fresh cab).TakesRequest) ∧ 2 < (3#8).toNat
    ∧ [Cab.none, .a, .b][(2#8).toNat]? = some .b ∧ (fresh .b).doors.cab = .b
    ∧ ((fresh .none).doors.cab = .none ∧ (fresh .none).doors.cab ≠ .b) ∧ (fresh .a).doors.cab = .a :=
  ⟨fun _ => ⟨rfl, rfl, rfl, rfl⟩, by decide +kernel⟩
theorem test_hyps_CameraAttention :
    let d := { DoorUnit.reset with
      map := (DoorUnit.reset.map.set 4 ⟨.right, 5, some 7, none⟩).set 9 ⟨.left, 0, some 7, none⟩,
      table := DoorUnit.reset.table.set 9 ⟨.fault, 0⟩ }
    d.attentionOf false 7 = some ⟨.two, .fault⟩ ∧ d.attentionOf false 8 = none
      ∧ (d.map[(9 : Door)].camera = some 7 ∧ d.table[(9 : Door)].state.attention false = some ⟨.two, .fault⟩)
      ∧ (d.map[(4 : Door)].camera = some 7 ∧ (∀ j : Door, j < 4 → d.map[j].camera ≠ some 7)
        ∧ d.map[(4 : Door)].side = .right ∧ ∀ i : Door, d.map[i].camera ≠ some 8)
      ∧ ((fresh .none).doors.cab = .none ∧ (fresh .a).doors.cab = .a ∧ (fresh .b).doors.cab = .b
        ∧ (fresh .a).doors.notices (Vector.ofFn fun c => (fresh .a).doors.attentionOf false c) ++ [] = []
        ∧ (fresh .a).doors.notices (Vector.ofFn fun c => (fresh .a).doors.attentionOf false c) ++ [.newMap] ≠ []) := by
  decide +kernel

/-- The body of a SCREEN_SETUP. -/
def screenBody (n enable w h rate holdOver freeze fallback released : Nat) : List Byte :=
  [byteOf n, byteOf enable] ++ bytes2 w ++ bytes2 h ++ [byteOf rate] ++ bytes2 holdOver ++ bytes2 freeze
    ++ [byteOf fallback, byteOf released]

/-- The state after reset with one tile in layout 15. -/
def laid : State :=
  State.reset.setLayouts (State.reset.layouts.set 15 [{ rect := ⟨0, 0, 64, 48⟩, source := .blank, alternate := none, label := [] }])

theorem test_hyps_ScreenSetup : State.reset.TakesRequest ∧ laid.TakesRequest ∧ (fresh .a).TakesRequest
    ∧ (screenBody 1 1 800 480 25 0 100 255 0).length = 13
    ∧ (answer (.screenSetup 0 (screenBody 2 1 800 480 25 0 100 255 0)) = some [0x04, 0]
      ∧ answer (.screenSetup 0 (screenBody 1 2 800 480 25 0 100 255 0)) = some [0x04, 1]
      ∧ answer (.screenSetup 0 (screenBody 1 1 784 480 25 0 100 255 0)) = some [0x04, 2]
      ∧ answer (.screenSetup 0 (screenBody 1 1 800 1208 25 0 100 255 0)) = some [0x04, 3]
      ∧ answer (.screenSetup 0 (screenBody 1 1 800 480 26 0 100 255 0)) = some [0x04, 4]
      ∧ answer (.screenSetup 0 (screenBody 1 1 800 480 25 20001 100 255 0)) = some [0x04, 5]
      ∧ answer (.screenSetup 0 (screenBody 1 1 800 480 25 0 99 255 0)) = some [0x04, 6]
      ∧ answer (.screenSetup 0 (screenBody 1 1 800 480 25 0 100 16 0)) = some [0x04, 7]
      ∧ answer (.screenSetup 0 (screenBody 1 1 800 480 25 0 100 255 2)) = some [0x04, 8])
    ∧ (answer (.screenSetup 0 (screenBody 0 0 1920 1200 30 20000 5000 15 1)) = some [0x05]
      ∧ replyBody (exec (.screenSetup 0 (screenBody 0 0 1920 1200 30 20000 5000 15 1)) laid) = some [0x00])
    ∧ ((fresh .a).doors.activeScreen = some .a ∧ ((fresh .a).screen .a).setup.showReleased ≠ true ∧ (fresh .a).doors.fresh = true) :=
  ⟨takes, ⟨rfl, rfl, rfl, rfl⟩, ⟨rfl, rfl, rfl, rfl⟩, by decide +kernel⟩

/-- A tile record of a LAYOUT_WRITE, within every limit. -/
def rawTile : RawTile := { x := 1856, y := 1152, w := 64, h := 48, source := 13, alternate := 255, label := [0x20, 0x7E] }

theorem test_hyps_LayoutWrite :
    let designated := State.reset.setScreen .a { ScreenRecord.reset with setup := { ScreenSetup.reset with fallback := some 15 } }
    State.reset.TakesRequest ∧ designated.TakesRequest
      ∧ (rawTile.x < 65536 ∧ rawTile.y < 65536 ∧ rawTile.w < 65536 ∧ rawTile.h < 65536 ∧ rawTile.source < 256
        ∧ rawTile.alternate < 256 ∧ rawTile.label.length < 256 ∧ [rawTile].length < 256)
      ∧ ({ rawTile with w := 63 }.fault = some 2 ∧ { rawTile with h := 47 }.fault = some 3 ∧ { rawTile with x := 1857 }.fault = some 0
        ∧ { rawTile with y := 1153 }.fault = some 1 ∧ { rawTile with source := 14 }.fault = some 4
        ∧ { rawTile with alternate := 13 }.fault = some 5 ∧ { rawTile with label := [0x7F] }.fault = some 6 ∧ rawTile.fault = none)
      ∧ ([15#8, 0].length ≤ 1040 ∧ layoutTiles [15, 0] = some [] ∧ 15 < field1 [16#8, 0] 0 ∧ layoutTiles [16, 0] = some []
        ∧ field1 [15#8, 0] 0 = (15 : LayoutNo).val)
      ∧ 12 < (List.replicate 13 rawTile).length ∧ (designated.screen .a).setup.fallback = some 15 :=
  ⟨takes, ⟨rfl, rfl, rfl, rfl⟩, by decide +kernel⟩
theorem test_hyps_ViewSelection :
    let screen := fun (enable : Bool) (requested forced fallback : Option LayoutNo) => (fresh .a).setScreen .a
      { ScreenRecord.reset with setup := { ScreenSetup.reset with enable := enable, fallback := fallback }, requested := requested, forced := forced }
    let split := (screen true none none none).setSplit .a ⟨[⟨3, none, 0⟩], some .one, [], none⟩
    (∀ e r f b, (screen e r f b).TakesRequest) ∧ ((screen false none none none).screen .a).setup.enable = false
      ∧ ((screen true (some 1) (some 2) none).screen .a).forced = some 2 ∧ (fresh .a).doors.activeScreen = some .a
      ∧ (((fresh .b).setDoors { (fresh .b).doors with fresh := false }).doors.activeScreen = some .b)
      ∧ ((split.split .a).entries ≠ [] ∧ (split.screen .a).forced = none)
      ∧ ((screen true (some 1) none none).screen .a).requested = some 1 ∧ ((screen true none none none).split .a).entries = []
      ∧ ((screen true none none none).split .a).holdOver = none
      ∧ (1 < (2#8).toNat ∧ 15 < (16#8).toNat ∧ 16#8 ≠ 0xFF#8 ∧ (15#8).toNat = (15 : LayoutNo).val) :=
  ⟨fun _ _ _ _ => ⟨rfl, rfl, rfl, rfl⟩, by decide +kernel⟩
theorem test_hyps_OutputFrames :
    let period := fun n => State.reset.setScreen .a { ScreenRecord.reset with period := ⟨n, 30, 2⟩ }
    let held := fun n => State.reset.setSplit .a ⟨[⟨3, none, 0⟩], some .one, [], some n⟩
    let counted := fun s : State => s.setScreen .a { s.screen .a with frameCount := (s.screen .a).frameCount + 1 }
    (∀ n, (period n).Unasked) ∧ (∀ n, (held n).Unasked) ∧ (period 1).elapsed < ((period 1).screen .a).period.ends
      ∧ ((period 0).screen .a).period.ends ≤ (period 0).elapsed ∧ ((counted (period 0)).selectView .a = ((period 0).screen .a).view)
      ∧ (let off := State.reset.setScreen .a { ScreenRecord.reset with setup := { ScreenSetup.reset with enable := false } }
         (counted off).selectView .a ≠ (off.screen .a).view)
      ∧ (((held 1).split .a).holdOver = some 1 ∧ ((held 0).split .a).holdOver = some 0 ∧ 0 ≤ (held 0).elapsed) :=
  ⟨fun _ => ⟨rfl, rfl⟩, fun _ => ⟨rfl, rfl⟩, by decide +kernel⟩
/-- An output frame start taken at once begins its period anew, where the next regular one goes on in its cycle (R84, R85). -/
theorem test_frameCut :
    let s := State.reset.setScreen .a { ScreenRecord.reset with period := ⟨0, 30, 1⟩ }
    ((s.startOutputFrame .a true).screen .a).period = ⟨33, 30, 0⟩ ∧ ((s.startOutputFrame .a false).screen .a).period = ⟨34, 30, 2⟩ := by
  decide +kernel
theorem test_hyps_TileResolution :
    let ends := State.reset.setDoors { State.reset.doors with endA := some 2, cab := .a }
    ((View.mk .off none none).mode = .off ∧ (View.mk .unconfigured none none).mode = .unconfigured
      ∧ (View.mk .base (some 15) none).layout = some 15 ∧ (laid.builtTiles .a ⟨.base, some 15, none⟩).length = 1) ∧
    ((fresh .none).doors.cab = .none ∧ ends.doors.cab = .a ∧ (fresh .b).doors.cab = .b) ∧
    ((1279 < (State.reset.screen .a).setup.width ∧ 799 < (State.reset.screen .a).setup.height)
      ∧ ¬(1280 < (State.reset.screen .a).setup.width)) ∧ ends.doors.roleCamera true = some 2
      ∧ ((camera fun r => { r with state := .running }).cam 0).state = .running
      ∧ ((State.reset.soilOf 0).state ≠ .soiled ∧ (State.reset.soilOf 0).state ≠ .verify)
      ∧ (State.reset.slots.pinNewest 0 (readerOf .a)).2 = none
      ∧ ((ringed.pinNewest 3 (readerOf .a)).2 = some 13 ∧ ringed.frame 13 = some (frame 101)) := by decide +kernel

/-- Screen A in OFF, or showing a tile of some size at the top left corner over a blank one. -/
def shows (mode : ViewMode) (slot : Option SlotNo) (w h : Nat) : State :=
  let behind : ResolvedTile := ⟨⟨0, 0, 100, 100⟩, ⟨0, 0, 100, 100⟩, [], none, false, none, none, Markers.none, 0⟩
  let above : ResolvedTile := ⟨⟨0, 0, w, h⟩, ⟨0, 0, w, h⟩, [], some 3, false, slot, none, Markers.none, 0⟩
  (State.reset.setSlots ringed).setScreen .a
    { ScreenRecord.reset with view := ⟨mode, none, none⟩, tiles := [behind, above] }

theorem test_hyps_TileResolution_picture : ((shows .off none 640 480).screen .a).view.mode = .off
    ∧ ((shows .base none 640 480).screen .a).view.mode ≠ .off
    ∧ (((shows .base none 640 480).screen .a).tiles.map (·.slot) = [none, none])
    ∧ (((shows .base (some 13) 640 480).screen .a).tiles.map (fun t => (t.slot, t.label, t.markers.drawn t.overflow))
        = [(none, [], [])] ++ (some 13, [], []) :: []
      ∧ (shows .base (some 13) 640 480).slots.frame 13 = some (frame 101) ∧ (frame 101).geometry = ⟨640, 480⟩)
    ∧ (∀ t ∈ ((shows .base (some 13) 640 480).screen .a).tiles, ¬ (t.rect.x ≤ 640 ∧ 640 < t.rect.x + t.rect.w))
    ∧ (∃ t ∈ ((shows .base (some 13) 640 480).screen .a).tiles, t.rect.x ≤ 639 ∧ 639 < t.rect.x + t.rect.w ∧ t.rect.y ≤ 479
      ∧ 479 < t.rect.y + t.rect.h)
    ∧ (((shows .base (some 13) 800 480).screen .a).tiles.map fun t => ((shows .base (some 13) 800 480).drawTile t).picture)
      = [none, some (13, ⟨80, 0, 640, 480⟩)] := by decide +kernel

/-- A 640 × 480 frame stands in the middle of a tile that is too wide or too high for it, with blank margins (R97); a tile
without label and markers shows nothing else. -/
theorem test_pictureMargins :
    let pixel := fun w h x y => ((shows .base (some 13) w h).outputPicture .a).map (· x y)
    pixel 800 480 79 0 = some .blank ∧ pixel 800 480 80 0 = some (.picture 0 0) ∧ pixel 800 480 719 479 = some (.picture 0 0)
      ∧ pixel 800 480 720 479 = some .blank ∧ pixel 640 500 0 9 = some .blank ∧ pixel 640 500 0 10 = some (.picture 0 0)
      ∧ pixel 640 500 639 489 = some (.picture 0 0) ∧ pixel 640 500 639 490 = some .blank
      ∧ fittedSize ⟨640, 480⟩ 320 300 = (320, 240) ∧ fittedSize ⟨640, 480⟩ 1280 480 = (640, 480) := by decide +kernel

/-- Six cameras in attention, of class 1 but for the last. -/
def sixEntries (last : Option Attention) : List SplitEntry :=
  [⟨0, some ⟨.one, .obstructed⟩, 0⟩, ⟨1, some ⟨.one, .obstructed⟩, 0⟩, ⟨2, some ⟨.one, .obstructed⟩, 0⟩,
   ⟨3, some ⟨.one, .obstructed⟩, 0⟩, ⟨4, some ⟨.one, .obstructed⟩, 0⟩, ⟨5, last, 0⟩]

theorem test_hyps_PlannerBatches :
    let departed : SplitRecord := ⟨sixEntries none, some .six, [⟨6, ⟨.three, .open⟩⟩, ⟨7, ⟨.two, .fault⟩⟩, ⟨8, ⟨.two, .closing⟩⟩], none⟩
    let s := (fresh .a).setScreen .a { ScreenRecord.reset with forced := some 1 }
    let told := (fresh .a).split .a |>.join (fresh .a).doors 0 3 ⟨.one, .obstructed⟩
    ((∀ e ∈ ([⟨3, none, 0⟩] : List SplitEntry), e.camera ≠ 4) ∧ ∀ o ∈ ([⟨5, ⟨.one, .obstructed⟩⟩] : List Outside), o.camera ≠ 4)
      ∧ ((∃ e ∈ departed.entries, e.camera = 5) ∧ (∀ e ∈ departed.entries, e.camera ≠ 6) ∧ ∃ o ∈ departed.outside, o.camera = 6)
      ∧ ((∀ e ∈ (sixEntries (some ⟨.two, .fault⟩)), e.attention ≠ none) ∧ ∃ e ∈ departed.entries, e.attention = none)
      ∧ (departed.outside = [⟨6, ⟨.three, .open⟩⟩] ++ ⟨7, ⟨.two, .fault⟩⟩ :: [⟨8, ⟨.two, .closing⟩⟩]
        ∧ (∀ x ∈ [Outside.mk 6 ⟨.three, .open⟩], AttentionClass.two.number < x.attention.cls.number)
        ∧ ∀ x ∈ [Outside.mk 8 ⟨.two, .closing⟩], AttentionClass.two.number ≤ x.attention.cls.number)
      ∧ ((∃ e ∈ told.entries, e.camera = 3 ∧ ∃ a, e.attention = some a ∧ a.cls = .one)
        ∧ ((fresh .a).split .a).entries = [] ∧ (s.screen .a).forced ≠ none ∧ ((fresh .a).screen .a).forced = none) := by
  refine ⟨by decide, by decide, by decide, by decide +kernel, ⟨⟨3, some ⟨.one, .obstructed⟩, 0⟩, by decide +kernel, rfl, _, rfl, rfl⟩,
    by decide +kernel⟩
/-- The batch of a first join at class 1 releases a forced layout (R92). -/
theorem test_forceEnds : (((fresh .a).setScreen .a { ScreenRecord.reset with forced := some 1 }).plannerBatch .a
    [.join 3 ⟨.one, .obstructed⟩]).screenA.screen.forced = none := by decide +kernel
theorem test_hyps_JoinsPatternsHoldOver :
    let entries := sixEntries (some ⟨.one, .obstructed⟩)
    (∃ e ∈ entries, e.camera = 5) ∧ ((∀ e ∈ entries, e.camera ≠ 6) ∧ (entries.take 5).length < 6 ∧ 6 ≤ entries.length)
      ∧ ((∀ e ∈ entries, ∃ b, e.attention = some b ∧ b.cls.number ≤ AttentionClass.two.number))
      ∧ ((sixEntries none) = entries.take 5 ++ ⟨5, none, 0⟩ :: [] ∧ ∀ e ∈ ([] : List SplitEntry), e.attention ≠ none)
      ∧ (sixEntries (some ⟨.three, .open⟩) = entries.take 5 ++ ⟨5, some ⟨.three, .open⟩, 0⟩ :: []
        ∧ (∀ e ∈ sixEntries (some ⟨.three, .open⟩), e.attention ≠ none)
        ∧ AttentionClass.two.number < AttentionClass.three.number
        ∧ ∀ e ∈ entries.take 5, ∀ x, e.attention = some x → x.cls.number ≤ AttentionClass.three.number)
      ∧ 6 ≤ 6 ∧ entries ≠ [] ∧ (∀ e ∈ ([⟨3, none, 0⟩] : List SplitEntry), e.attention = none)
      ∧ ¬ ∀ e ∈ entries, e.attention = none := by
  refine ⟨by decide, by decide, ?_, by decide, ⟨by decide, by decide, by decide, ?_⟩, by decide, by decide, by decide, by decide⟩
  · intro e he
    simp only [sixEntries, List.mem_cons, List.not_mem_nil, or_false] at he
    rcases he with rfl | rfl | rfl | rfl | rfl | rfl <;> exact ⟨_, rfl, by decide⟩
  · intro e he x hx
    simp only [sixEntries, List.take_succ_cons, List.take_zero, List.mem_cons, List.not_mem_nil, or_false] at he
    rcases he with rfl | rfl | rfl | rfl | rfl <;> cases hx <;> decide
/-- A join at a full list takes the place of the last entry of the worst class, which enters the outside set (R108). -/
theorem test_fullListJoin :
    let t := SplitRecord.join ⟨sixEntries (some ⟨.three, .open⟩), some .six, [], none⟩ DoorUnit.reset 0 9 ⟨.two, .fault⟩
    t.entries.map (·.camera) = [0, 1, 2, 3, 4, 9] ∧ t.outside = [⟨5, ⟨.three, .open⟩⟩] := by decide +kernel
theorem test_hyps_SplitTilesAndSnapshots :
    let d := { DoorUnit.reset with map := DoorUnit.reset.map.set 4 ⟨.right, 5, some 7, some 8⟩ }
    let entries : List SplitEntry := [⟨7, some ⟨.two, .fault⟩, 0⟩, ⟨9, none, 0⟩]
    let cameras : List (Cam × Attention) := [(7, ⟨.two, .fault⟩), (9, ⟨.one, .obstructed⟩)]
    (View.mk .split none (some .two)).mode = .split ∧ SplitRecord.reset.pattern = none
      ∧ (d.map[(4 : Door)].camera = some 7 ∧ (∀ y : Door, y < 4 → d.map[y].camera ≠ some 7) ∧ ∀ x : Door, d.map[x].camera ≠ some 9)
      ∧ (entries[1]? = some ⟨9, none, 0⟩ ∧ entries[0]? = some ⟨7, some ⟨.two, .fault⟩, 0⟩ ∧ entries[2]? = none)
      ∧ ((cameras.map (·.1)).Nodup ∧ cameras.length ≤ 6)
      ∧ ((SplitRecord.mk entries (some .four) [⟨3, ⟨.three, .open⟩⟩] none).tiles d 1280 800).map
        (fun t => (t.source, t.alternate, t.markers.fault, t.markers.closed, t.overflow)) =
        [(.camera 7, some 8, true, false, 0), (.camera 9, none, false, true, 0), (.blank, none, false, false, 0),
         (.blank, none, false, false, 1)] := by decide +kernel
theorem test_hyps_SoilSettings :
    let record := fun (watch : Bool) (state : SoilState) => State.reset.setSoilOf 0 { SoilRecord.reset with watch := watch, state := state }
    let running := fun state => (record true state).setCam 0 { CameraRecord.reset with state := .running }
    (∀ w x, (record w x).TakesRequest) ∧ (∀ x, (running x).TakesRequest)
      ∧ (13 < (14#8).toNat ∧ (13#8).toNat ≤ 13 ∧ 1 < (2#8).toNat ∧ (1#8).toNat ≤ 1 ∧ (13#8).toNat = (13 : Cam).val)
      ∧ (((record true .learning).soilOf 0).watch = true ∧ ((record false .unwatched).soilOf 0).watch = false)
      ∧ (answer (.soilTune 0 [17, 4, 1, 1, 1, 1, 1]) = some [0x04, 0] ∧ answer (.soilTune 0 [1, 33, 1, 1, 1, 1, 1]) = some [0x04, 1]
        ∧ answer (.soilTune 0 [1, 4, 16, 1, 1, 1, 1]) = some [0x04, 2] ∧ answer (.soilTune 0 [1, 4, 1, 49, 1, 1, 1]) = some [0x04, 3]
        ∧ answer (.soilTune 0 [1, 4, 1, 1, 16, 1, 1]) = some [0x04, 4] ∧ answer (.soilTune 0 [1, 4, 1, 1, 1, 16, 1]) = some [0x04, 5]
        ∧ answer (.soilTune 0 [1, 4, 1, 1, 1, 1, 31]) = some [0x04, 6] ∧ answer (.soilTune 0 [16, 32, 15, 48, 15, 15, 30]) = some [0x00])
      ∧ (replyBody (exec (.soilLearn 0 [0]) (record true .clean)) = some [0x05]
        ∧ replyBody (exec (.soilLearn 0 [0]) (running .learning)) = some [0x06]
        ∧ replyBody (exec (.soilLearn 0 [0]) (running .heating)) = some [0x05]
        ∧ replyBody (exec (.soilLearn 0 [0]) (running .clean)) = some [0x01, 0]) ∧ noJob.link.freeJob = none :=
  ⟨fun _ _ => ⟨rfl, rfl, rfl, rfl⟩, fun _ => ⟨rfl, rfl, rfl, rfl⟩, by decide +kernel⟩
theorem test_hyps_WashDone : State.reset.TakesRequest
    ∧ (14 < (List.replicate 15 0#8).length ∧ (List.replicate 15 0#8).length < 256)
    ∧ ([13#8].length + 1 ≤ 14 ∧ (∀ m ∈ [13#8], m.toNat ≤ 13) ∧ 13 < (14#8).toNat)
    ∧ (1 ≤ ([13, 13] : List Cam).length ∧ [13#8, 13] = ([13, 13] : List Cam).map fun c => byteOf c.val)
    ∧ ∀ x, ((State.reset.setSoilOf 0 { SoilRecord.reset with state := x }).soilOf 0).state = x :=
  ⟨takes, by decide +kernel, by decide, by decide, fun x => by cases x <;> decide +kernel⟩

/-- Camera 3 watched and RUNNING with the READY slots of the ring, to be examined. -/
def watched (state : SoilState) (engine : Option Examination) (recheck : Timer) (queue : List Cam) : State :=
  let s := (State.reset.setSlots ringed).setCam 3 { CameraRecord.reset with state := .running }
  (s.setSoil { s.soil with engine := engine, recheck := recheck, queue := queue }).setSoilOf 3
    { SoilRecord.reset with watch := true, state := state }

theorem test_hyps_Examinations :
    let exam := fun p => Examination.mk 3 13 101 0 p
    let passes := fun s (e : Examination) => (s : State).resultCounts e
    (∀ x e t q, (watched x e t q).Unasked) ∧ (watched .clean none (some 1) []).soil.engine = none
      ∧ ((watched .clean (some (exam .watch)) none []).soil.engine = some (exam .watch) ∧ exam .watch ≠ exam .learn)
      ∧ ((watched .clean none (some 1) []).soil.recheck = some 1 ∧ (watched .clean none (some 1) []).elapsed < 1)
      ∧ (watched .clean none (some 0) []).soil.recheck = some 0
      ∧ (passes (watched .clean (some (exam .watch)) none []) (exam .watch) = true
        ∧ passes (watched .learning (some (exam .learn)) none []) (exam .learn) = true
        ∧ passes (watched .unwatched (some (exam .watch)) none []) (exam .watch) = false)
      ∧ (watched .clean (some (exam .watch)) none []).slots.frame 13 = some (frame 101)
      ∧ (∀ c, State.reset.qualifies c = false ∧ (State.reset.soilOf c).heaterOffOwed = false)
      ∧ ((∀ c, ((watched .clean none none [3]).soilOf c).heaterOffOwed = false) ∧ (watched .clean none none [3]).qualifies 3 = true
        ∧ ((watched .clean none none [3]).slots.pinNewest 3 .engine).2 = some 13
        ∧ ((watched .clean none none [3]).soilOf 3).baseline = none)
      ∧ (((List.finRange 48).countP fun z : Zone => decide (z.val < 12)) = 12) := by
  refine ⟨fun _ _ _ _ => ⟨rfl, rfl⟩, by decide +kernel⟩

/-- Camera 3 watched with a baseline of a geometry. -/
def based (state : SoilState) (g : Geometry) : State :=
  (watched state none none [3]).setSoilOf 3
    { SoilRecord.reset with watch := true, state := state, baseline := some ⟨Vector.ofFn fun _ => 0, g⟩ }

/-- The clauses of the scheduling decision and of the start of an examination: a queue with one found, with a camera whose baseline
has another geometry, with one without a frame to examine, with one not examinable; the same of the rotation. -/
theorem test_hyps_Examinations_scan :
    let s := watched .clean none none [3]
    let seen := s.setSoilOf 3 { s.soilOf 3 with lastExamined := some 101 }
    let owing := s.setSoilOf 4 { s.soilOf 4 with heaterOffOwed := true }
    ((s.scanQueue [] s.soil.queue).2 = true ∧ (State.reset.scanQueue [] State.reset.soil.queue).2 = false)
      ∧ ((State.reset.scanRotation [0, 1]).2 = false ∧ (s.scanRotation [2, 3]).2 = true)
      ∧ ((s.soilOf 3).watch = true ∧ (s.soilOf 3).state = .clean ∧ (s.cam 3).state = .running)
      ∧ (s.slots.newest 3 = some 13 ∧ s.slots.frame 13 = some (frame 101) ∧ (s.soilOf 3).lastExamined ≠ some 101
        ∧ (seen.soilOf 3).lastExamined = some 101 ∧ (owing.soilOf 4).heaterOffOwed = true)
      ∧ (decide ((s.startExamination 3).2 = .started) = true
        ∧ decide (((based .clean ⟨320, 200⟩).startExamination 3).2 = .geometry) = true)
      ∧ (((based .clean ⟨320, 200⟩).soilOf 3).state ≠ .heating ∧ ((based .heating ⟨320, 200⟩).soilOf 3).state = .heating
        ∧ ((based .clean ⟨640, 480⟩).soilOf 3).baseline.map (·.geometry) = some (frame 101).geometry)
      ∧ ((s.slots.pinNewest 4 .engine).2 = none ∧ (s.slots.pinNewest 3 .engine).2 = some 13) := by decide +kernel
/-- A baseline of another geometry is lost at the start of an examination (R128). -/
theorem test_geometryMismatch :
    let t := ((based .clean ⟨320, 200⟩).startExamination 3).1
    (t.soilOf 3).state = .unlearned ∧ (t.soilOf 3).baseline = none ∧ t.slots = (based .clean ⟨320, 200⟩).slots := by decide +kernel
theorem test_hyps_ConfirmationAndHeating :
    let s := fun state suspect trial => State.reset.setSoilOf 0
      { SoilRecord.reset with watch := true, state := state, heaterAllowed := true, suspectCount := suspect, trialCount := trial }
    let heated := fun state => ((s state 2 0).setCam 0 { CameraRecord.reset with heaterPresent := 1 })
    let full := (heated .suspect).setCtl 0 ⟨[offEntry, offEntry, offEntry], some .streamOff, .first, none, 0⟩
    let soil := (s .clean 0 0).soil.tuning
    (soil.confirm = 3 ∧ soil.trial = 6)
      ∧ (((s .clean 0 0).soilOf 0).state = .clean ∧ 1 < soil.confirm ∧ ((s .suspect 2 0).soilOf 0).suspectCount + 1 = soil.confirm)
      ∧ (((s .suspect 2 0).cam 0).heaterPresent ≠ 1#8 ∧ ((heated .suspect).cam 0).heaterPresent = 1#8
        ∧ ((heated .suspect).soilOf 0).heaterAllowed = true ∧ ((heated .suspect).soilOf 0).heaterSpent = false)
      ∧ ((((heated .suspect).ctl 0).heaterRequest true).isSome = true ∧ (full.ctl 0).heaterRequest true = none
        ∧ (full.ctl 0).heaterRequest false = none)
      ∧ (((s .heating 0 5).soilOf 0).state = .heating ∧ ((s .heating 0 5).soilOf 0).trialCount + 1 = soil.trial
        ∧ 2 ≤ ({ (s .heating 0 0).soilOf 0 with cleanCount := 1 }.cleanCount + 1))
      ∧ ((0 : Cam) ∉ State.reset.soil.queue ∧ State.reset.soil.engine = none
        ∧ ((watched .clean (some ⟨3, 13, 101, 0, .watch⟩) none [3]).soil.engine.isSome = true
          ∧ (3 : Cam) ∈ (watched .clean none none [3]).soil.queue)) := by decide +kernel
/-- A change to SOILED marks the tile that shows the camera, and no other, and raises SOIL_STATE (R99, R135, R143). -/
theorem test_soiledHandedOn :
    let s := (shows .base (some 13) 640 480).setSoilOf 3 { SoilRecord.reset with watch := true, state := .soiled }
    let t := s.handSoilOn 3 .verify .evaluation
    (t.screen .a).tiles.map (·.markers.soiled) = [false, true] ∧ (s.soilOf 3).state ≠ .verify
      ∧ ((s.setSoilOf 3 { SoilRecord.reset with watch := true }).soilOf 3).state ≠ .soiled
      ∧ (match (t.link.report (.soilState 3)).content with
        | some (.soilState x) => x.marker && x.previous == .verify
        | _ => false) = true := by decide +kernel
/-- A suspect evaluation that reaches K starts the heater trial (R132). -/
theorem test_heaterTrial :
    let r := { SoilRecord.reset with watch := true, state := .suspect, heaterAllowed := true, suspectCount := 2 }
    let s := (State.reset.setSoilOf 0 r).setCam 0 { CameraRecord.reset with heaterPresent := 1 }
    let t := s.applyVerdict 0 .suspect
    (t.soilOf 0).state = .heating ∧ (t.soilOf 0).heaterSpent = true ∧ (t.ctl 0).inFlight = some (.heater true) := by decide +kernel
theorem test_hyps_ZonesLearnsAndNotices :
    let learned := fun (light : Nat) (state : SoilState) => State.reset.setSoilOf 0 { SoilRecord.reset with
      watch := true, state := state, beforeLearning := some .clean, learnJob := some 0,
      learned := { examinations := 8, luminance := Vector.ofFn fun z => if z.val < light then 8 * 24 else 0,
                   edges := Vector.ofFn fun _ => 8 * 64 } }
    let counted := fun light => (List.finRange 48).countP fun z : Zone =>
      decide (24 ≤ ((learned light .learning).soilOf 0).learned.luminance[z] / 8)
    (counted 24 = 24 ∧ counted 23 = 23) ∧ ((learned 23 .learning).soilOf 0).beforeLearning = some .clean
      ∧ (CaptureState.running ≠ .lost ∧ CaptureState.running ≠ .stopping ∧ CaptureState.running ≠ .failed)
      ∧ (((learned 0 .learning).soilOf 0).state = .learning ∧ ((learned 0 .suspect).soilOf 0).state = .suspect
        ∧ ((learned 0 .heating).soilOf 0).state = .heating ∧ ((learned 0 .soiled).soilOf 0).state = .soiled) := by decide +kernel
/-- The mean luminance and edge energy of a zone of a stored picture with one bright pixel. -/
theorem test_zoneValues :
    let pixels := Memory.writeBytes [] (slotAddress 0 0) [200]
    meanLuminance pixels 0 ⟨16, 12⟩ 0 = 50 ∧ edgeEnergy pixels 0 ⟨16, 12⟩ 0 = 8 * 400 ∧ edgeEnergy pixels 0 ⟨16, 12⟩ 1 = 0 := by
  decide +kernel
theorem test_hyps_TriggerMapSet : State.reset.TakesRequest ∧ (List.replicate 9 1#8).length = 9
    ∧ (answer (.triggerMapSet 0 [1, 8, 8, 1, 8, 8, 2, 0, 0]) = some [0x04, 6]
      ∧ answer (.triggerMapSet 0 [1, 8, 8, 1, 8, 8, 1, 8, 9]) = some [0x04, 8]
      ∧ answer (.triggerMapSet 0 [1, 8, 8, 1, 8, 8, 1, 8, 8]) = some [0x00]) := ⟨takes, by decide +kernel⟩

/-- A clip that holds nothing. -/
def emptyClip (state : ClipState) (mode : ClipMode) (cameras : List ClipCamera) (post : Nat) (job : Option JobId) : Clip :=
  { state := state, mode := mode, cameras := cameras, triggers := [], moreTriggers := false, postRemaining := post,
    truncated := false, short := false, frames := [], job := job, opened := 0 }

/-- Camera 3 RUNNING with its ring, the trigger map set, and clip 7 in use or not. -/
def triggered (pre post hold : Nat) (clip : Option Clip) : State :=
  let s := (State.reset.setSlots { ringed with holdCount := hold }).setCam 3 { CameraRecord.reset with state := .running }
  (s.setClips { s.clips with map := ⟨⟨true, pre, post⟩, ⟨false, 0, 0⟩, ⟨false, 0, 0⟩⟩ }).setClip 7 clip

theorem test_hyps_TriggersAndCollection :
    let door := emptyClip .collecting .door [⟨3, none⟩] 1 none
    let full := (triggered 1 1 0 none).setClips { (triggered 1 1 0 none).clips with clips := Vector.ofFn fun _ => some (emptyClip .complete .door [] 0 none) }
    let s := triggered 1 1 0 (some door)
    (State.reset.clips.map.entry .obstruction).clip = false ∧ ((triggered 8 8 0 none).clips.map.entry .obstruction).clip = true
      ∧ (s.collectingDoorClip 3 = some 7 ∧ s.clip 7 = some door ∧ door.triggers.length < 4)
      ∧ 4 ≤ (List.replicate 4 (TriggerEntry.mk none none 0)).length
      ∧ ((triggered 1 1 0 none).collectingDoorClip 3 = none ∧ ((triggered 1 1 0 none).cam 0).state ≠ .running
        ∧ ((triggered 1 1 0 none).cam 3).state = .running)
      ∧ (∀ id : ClipId, full.clip id ≠ none)
      ∧ ((triggered 1 1 0 none).clip 0 = none ∧ ∀ k : ClipId, k < 0 → (triggered 1 1 0 none).clip k ≠ none)
      ∧ ((triggered 1 0 32 none).slots.holdLimit ≤ (triggered 1 0 32 none).slots.holdCount ∧ 0 < 1 + 0)
      ∧ ((triggered 1 1 31 none).slots.holdCount < (triggered 1 1 31 none).slots.holdLimit
        ∧ (triggered 1 1 31 none).slots.ring 3 = some ⟨[12, 13], [], some 14⟩)
      ∧ (s.slots.frame 12 = some (frame 100) ∧ s.slots.claimOf 12 = none
        ∧ (s.slots.setSlot 12 ⟨.ready 3 (frame 100) (some 0), Holders.none⟩).claimOf 12 ≠ none)
      ∧ ((s.claimFor 7 3 12 100 .pre).2 = .grantedMoved ∧ (s.claimFor 7 3 13 101 .pre).2 = .grantedInRing
        ∧ (s.claimFor 7 3 12 99 .pre).2 = .gone ∧ ((triggered 1 1 32 (some door)).claimFor 7 3 12 100 .pre).2 = .hold)
      ∧ (door.state = .collecting ∧ door.mode = .door ∧ (∃ x ∈ door.cameras, x.camera = 3) ∧ door.postRemaining = 1) := by
  decide +kernel
/-- Clip 7 with one frame, of slot 5, in export or not. -/
def clipped (state : ClipState) (engine : ExportEngine) : State :=
  ((State.reset.setSlots (lone (.clip 3 (frame 1) 7) Holders.none ⟨[], [], none⟩)).setClip 7
    (some { emptyClip state .door [⟨3, none⟩] 0 none with frames := [⟨5, 3, 1, 0, .pre, true⟩] })).setExporter engine

/-- The record of an export of the one frame of clip 7. -/
def exporting (phase : ExportPhase) (next : Option Nat) (stall : Timer) : ExportRecord :=
  { phase := phase, clip := 7, job := 0, firstFrame := 0, frameCount := 1, scale := 4, content := .luma, nextFrame := next,
    nextOffset := 0, nextSequence := 0, blocksSent := 0, stall := stall }

/-- A block of the first frame. -/
def block (offset : Nat) : Block := ⟨0, 0, offset, List.replicate 1024 0⟩

theorem test_hyps_ClipTakeAndRelease :
    let clip := fun state mode job => State.reset.setClip 7 (some (emptyClip state mode [] 0 job))
    let busy := State.reset.setClips { State.reset.clips with clips := Vector.ofFn fun _ => some (emptyClip .complete .door [] 0 none) }
    let running := camera fun r => { r with state := .running }
    (State.reset.TakesRequest ∧ busy.TakesRequest ∧ running.TakesRequest ∧ noJob.TakesRequest ∧ ∀ x m j, (clip x m j).TakesRequest)
      ∧ (4 < [0#8, 1, 2, 3, 4].length ∧ [0#8, 1, 2, 3, 4].length < 256)
      ∧ ([13#8].Nodup ∧ (∀ m ∈ [13#8], m.toNat ≤ 13) ∧ 13 < (14#8).toNat ∧ 13#8 ∈ [13#8])
      ∧ (([0, 1, 2, 13] : List Cam).length ≤ 4 ∧ ([0, 1, 2, 13] : List Cam).Nodup
        ∧ [0#8, 1, 2, 13] = ([0, 1, 2, 13] : List Cam).map fun c => byteOf c.val)
      ∧ (3#8 ≠ 1#8 ∧ 3#8 ≠ 2#8) ∧ (∀ id : ClipId, busy.clip id ≠ none)
      ∧ (State.reset.clip 0 = none ∧ ∀ k : ClipId, k < 0 → State.reset.clip k ≠ none)
      ∧ noJob.link.freeJob = none ∧ State.reset.link.freeJob = some 0 ∧ (running.cam 0).state = .running
      ∧ (∀ c ∈ ([0, 13] : List Cam), (State.reset.cam c).state ≠ .running)
      ∧ (7 < (8#8).toNat ∧ (7#8).toNat = (7 : ClipId).val ∧ State.reset.clip 7 = none)
      ∧ (clip .complete .door none).clip 7 = some (emptyClip .complete .door [] 0 none)
      ∧ (clip .collecting .setNext (some 1)).clip 7 = some (emptyClip .collecting .setNext [] 0 (some 1))
      ∧ (clip .exporting .door none).clip 7 = some (emptyClip .exporting .door [] 0 none)
      ∧ ({ emptyClip .complete .setNewest [] 0 none with truncated := true, short := true }.summary 7 = [7, 0, 3])
      ∧ (let s := clipped .exporting ⟨some (exporting .reading none none), .sending (block 0), .full (block 0)⟩
         (s.clip 7).map (·.state) = some .exporting ∧ s.exporter.job = some (exporting .reading none none)
          ∧ s.exporter.half0 = .sending (block 0)) :=
  ⟨⟨takes, ⟨rfl, rfl, rfl, rfl⟩, ⟨rfl, rfl, rfl, rfl⟩, ⟨rfl, rfl, rfl, rfl⟩, fun _ _ _ => ⟨rfl, rfl, rfl, rfl⟩⟩,
    by decide +kernel⟩

theorem test_hyps_SetClipsAndFrameEntries :
    let set := fun status => emptyClip .collecting .setNext [⟨3, some status⟩] 0 none
    let s := triggered 0 0 0 (some (set .waiting))
    let full := triggered 0 0 32 (some (set .waiting))
    (s.slots.frame 12 = some (frame 100) ∧ s.clip 7 = some (set .waiting) ∧ s.clip 6 = none)
      ∧ ((s.slots.claim 7 3 12 100).2 = .grantedMoved ∧ (s.slots.claim 7 3 13 101).2 = .grantedInRing
        ∧ (s.slots.claim 7 3 12 99).2 = .gone ∧ (full.slots.claim 7 3 12 100).2 = .hold)
      ∧ ((s.cam 3).state = .running ∧ s.slots.newest 3 = some 13 ∧ s.slots.claimOf 13 = none ∧ (s.cam 4).state ≠ .running)
      ∧ ((∃ x ∈ (set .waiting).cameras, x.camera = 3 ∧ x.status = some .waiting)
        ∧ ∀ x ∈ (set .delivered).cameras, x.status ≠ some .waiting)
      ∧ (CaptureState.lost = .lost ∧ CaptureState.off ≠ .running) := by decide +kernel
/-- A publication serves a waiting SET_NEXT clip, which is then complete (R154, R157). -/
theorem test_setNextServed :
    let s := triggered 0 0 0 (some (emptyClip .collecting .setNext [⟨3, some .waiting⟩] 0 none))
    let t := s.publicationNotice ⟨3, 13, 101, 0, none⟩
    ((t.clip 7).map fun k => (k.state, k.frames)) = some (.complete, [⟨13, 3, 101, 0, .set, false⟩]) := by decide +kernel

theorem test_hyps_ExportEngine :
    let export7 := fun body => replyBody (exec (.exportClip 0 body) (clipped .complete ExportEngine.reset))
    let s := fun phase next stall h0 h1 => clipped .exporting ⟨some (exporting phase next stall), h0, h1⟩
    let idle := clipped .complete ExportEngine.reset
    ((∀ x e, (clipped x e).TakesRequest) ∧ ∀ x e, (clipped x e).Unasked)
      ∧ (export7 [8, 0, 1, 1, 0] = some [0x04, 0] ∧ export7 [7, 16, 1, 1, 0] = some [0x04, 1]
        ∧ export7 [7, 0, 17, 1, 0] = some [0x04, 2] ∧ export7 [7, 0, 1, 3, 0] = some [0x04, 3]
        ∧ export7 [7, 0, 1, 4, 2] = some [0x04, 4] ∧ export7 [6, 0, 1, 4, 0] = some [0x05] ∧ export7 [7, 0, 2, 4, 0] = some [0x04, 2])
      ∧ ((clipped .collecting ExportEngine.reset).clip 7).isSome = true ∧ noJob.link.freeJob = none ∧ idle.link.freeJob = some 0
      ∧ (idle.exporter.job = none ∧ (s .ending none none .empty .empty).exporter.job = some (exporting .ending none none))
      ∧ (s .reading none none (.sending (block 0)) .empty).exporter.half0 = .sending (block 0)
      ∧ ((s .reading none none .empty (.sending (block 0))).exporter.half1 = .sending (block 0)
        ∧ (s .reading none none .empty (.filling (block 0))).exporter.half1 = .filling (block 0)
        ∧ (s .reading none none (.full (block 0)) .empty).exporter.half0 = .full (block 0)
        ∧ (s .reading (some 0) none (.full (block 0)) .empty).exporter.half1 = .empty
        ∧ ((s .reading none none .empty (.filling (block 0))).clip 7).map (·.frames.length) = some 1)
      ∧ ((∀ b, Half.empty ≠ .filling b) ∧ (∀ b, Half.empty ≠ .sending b) ∧ ∀ b, Half.full (block 0) ≠ .filling b)
      ∧ ((idle.clip 7).isSome = true ∧ idle.slots.frame 5 = some (frame 1))
      ∧ ((s .waiting none (some 1) .empty .empty).elapsed < 1 ∧ (exporting .waiting none (some 0)).stall = some 0)
      ∧ (imageSize ⟨640, 480⟩ 4 .luma = 19200 ∧ (block 0).offset + (block 0).bytes.length < 19200
        ∧ 19200 ≤ (block 18176).offset + (block 18176).bytes.length)
      ∧ ((s .waiting none none (.full { block 0 with sequence := 9 }) (.full { block 0 with sequence := 8 })).exporter.firstUnsent
          (exporting .waiting none none) = 8)
      ∧ ((exporting .reading (some 0) none).nextFrame ≠ none ∧ (exporting .reading none none).nextFrame = none) :=
  ⟨⟨fun _ _ => ⟨rfl, rfl, rfl, rfl⟩, fun _ _ => ⟨rfl, rfl⟩⟩, by decide +kernel, by decide +kernel, by decide +kernel,
    by decide +kernel, by decide +kernel, by decide +kernel, by decide +kernel, ⟨nofun, nofun, nofun⟩, by decide +kernel⟩
/-- With every block staged and one half FULL the engine is WAITING (R169). -/
theorem test_waitsForTheHost : ((clipped .exporting ⟨some (exporting .reading none none), .empty, .full (block 0)⟩).stageOrWait
    ).exporter.job = some (exporting .waiting none (some 5000)) := by decide +kernel
/-- A block offered at FILL_END while RDY is high and nothing is sent leaves at once (R168, R184, R185). -/
theorem test_offeredBlockLeaves :
    let s := clipped .exporting ⟨some (exporting .reading none none), .filling (block 0), .empty⟩
    let t := sOf (exec .fillEnd ((s.setPins { ready := true, resetLow := false }).setLink (s.link.withdraw .start)))
    t.link.tx.map (·.kind) = some 0x60#8 ∧ t.exporter.half0 = .sending (block 0) := by decide +kernel
theorem test_hyps_WhatCommandsLeave : (∃ t, exec .rdyFall State.reset = .next t) ∧ (∀ l p, Instr.rdyFall ≠ .linePacket l p)
    ∧ Instr.rdyFall.wellFormed = true ∧ State.reset.link.buffers = [] ∧ commandWrites .rdyFall .doorMap = false
    ∧ ∃ t, exec (.endMap 0 [0, 1]) State.reset = .next t ∧ commandWrites (.endMap 0 [0, 1]) .doorMap = false
      ∧ commandWrites (.endMap 0 [0, 1]) .endMap = true :=
  ⟨⟨_, rfl⟩, nofun, rfl, rfl, rfl, _, rfl, rfl, rfl⟩
theorem test_hyps_StepKeepsInvariants : (∃ t, step (State.reset.setPending [.rdyFall]) = .next t)
    ∧ PixelsCanonical State.reset ∧ HoldWithin State.reset.slots ∧ PoolOrDeficit State.reset.slots
    ∧ SlotsAccounted State.reset.slots ∧ ControlBounded State.reset ∧ SplitBounded State.reset ∧ BuffersBounded State.reset
    ∧ QueueDistinct State.reset ∧ RingsFit State.reset ∧ SlotsAccounted SlotManager.reset :=
  ⟨⟨_, rfl⟩, rfl, ⟨by decide, by decide⟩, Or.inr rfl, SlotManager.accounted_reset, fun c => by revert c; decide +kernel,
    fun i => by cases i <;> decide +kernel, Nat.zero_le 2, List.nodup_nil,
    fun c h => absurd (SlotManager.ring_reset c) h, SlotManager.accounted_reset⟩
theorem test_hyps_StepNeverStops : SetupsInRange State.reset := fun c => by revert c; unfold Setup.InRange; decide +kernel

end Sys2Proof.Tests
end

section
/-! HOLD_LIMIT_SET (R18): what the slot manager makes of each row of its table, and what becomes of a claim once the hold
count has reached the limit (R13, R17). -/

namespace Sys2Proof.Machine

/-! ## The rows of the table of R18 -/

theorem serveHoldLimitSet_above {s : State} {tag n : Byte} (h : 64 < n.toNat) :
    serveHoldLimitSet s tag [n] = (s, .badField 0) :=
  if_pos h

theorem serveHoldLimitSet_belowCount {s : State} {tag n : Byte} (hn : n.toNat ≤ 64) (h : n.toNat < s.slots.holdCount) :
    serveHoldLimitSet s tag [n] = (s, .state) :=
  (if_neg hn.not_gt).trans (if_pos h)

theorem serveHoldLimitSet_taken {s : State} {tag n : Byte} (hn : n.toNat ≤ 64) (h : s.slots.holdCount ≤ n.toNat) :
    serveHoldLimitSet s tag [n] = (s.setSlots { s.slots with holdLimit := n.toNat }, .ok []) :=
  (if_neg hn.not_gt).trans (if_neg h.not_gt)

/-- A HOLD_LIMIT_SET taken at its arrival is answered in the same event with what the slot manager makes of it. -/
theorem exec_holdLimitSet_served {s t : State} {tag n : Byte} {a : Answer} (h : s.TakesRequest)
    (served : serveHoldLimitSet s tag [n] = (t, a)) :
    exec (.holdLimitSet tag [n]) s = .next (t.replied .holdLimitSet tag a) := by
  have answered := request_taken .holdLimitSet tag [n] h (by simp) rfl
  have block : serve .holdLimitSet s tag [n] = (t, a) := served
  rw [block] at answered
  exact (exec_requestOfKind .holdLimitSet tag [n] s).trans answered

/-! ## Claims at the limit -/

/-- Once the hold count has reached the limit a claim changes nothing, and its answer is GONE, CLAIMED or HOLD: the
test of the limit is the last one before the grant (R13). -/
theorem SlotManager.claim_atLimit {m : SlotManager} (k : ClipId) (c : Cam) (i : SlotNo) (q : Word32)
    (full : m.holdLimit ≤ m.holdCount) :
    ∃ a, m.claim k c i q = (m, a) ∧ (a = .gone ∨ a = .claimed ∨ a = .hold) := by
  unfold SlotManager.claim
  split
  next c' f old _ =>
    by_cases names : c' = c ∧ f.sequence = q
    · rw [if_pos names]
      cases old with
      | some _ => exact ⟨.claimed, rfl, .inr (.inl rfl)⟩
      | none => exact ⟨.hold, if_neg full.not_gt, .inr (.inr rfl)⟩
    · exact ⟨.gone, if_neg names, .inl rfl⟩
  next => exact ⟨.gone, rfl, .inl rfl⟩

theorem SlotManager.claim_notGranted {m : SlotManager} (k : ClipId) (c : Cam) (i : SlotNo) (q : Word32)
    (full : m.holdLimit ≤ m.holdCount) :
    (m.claim k c i q).1 = m ∧ (m.claim k c i q).2 ≠ .grantedInRing ∧ (m.claim k c i q).2 ≠ .grantedMoved := by
  obtain ⟨a, answered, refused⟩ := m.claim_atLimit k c i q full
  rw [answered]
  obtain rfl | rfl | rfl := refused <;> exact ⟨rfl, nofun, nofun⟩

/-- Settles O20: the three rows of the table of R18, each as the slot manager serves it, and no claim granted at the limit. -/
theorem holdLimitSet : Obligations.HoldLimitSet := by
  unfold Obligations.HoldLimitSet
  refine ⟨fun s tag n taken => ⟨fun above => ?_, fun within below => ?_, fun within reached => ?_⟩, ?_⟩
  · exact exec_holdLimitSet_served taken (serveHoldLimitSet_above above)
  · exact exec_holdLimitSet_served taken (serveHoldLimitSet_belowCount within below)
  · exact exec_holdLimitSet_served taken (serveHoldLimitSet_taken within reached)
  · exact fun _ k c i q full => SlotManager.claim_notGranted k c i q full

end Sys2Proof.Machine
end

section
/-! DOOR_FRESHNESS_SET (R68): which periods the door unit refuses, and what it makes of the freshness timer by the condition
of the table. -/

namespace Sys2Proof.Machine

/-- A request of any kind, taken at its arrival, is answered in the same event with what its block makes of it. -/
theorem exec_requestOfKind_served {kind : RequestKind} {s t : State} {tag : Byte} {body : List Byte} {a : Answer}
    (h : s.TakesRequest) (carried : body.length ≤ 1040) (legal : legalLength kind body = true)
    (served : serve kind s tag body = (t, a)) :
    exec (requestOfKind kind tag body) s = .next (t.replied kind tag a) := by
  rw [exec_requestOfKind, request_taken kind tag body h carried legal, served]

theorem outside_iff {n low high : Nat} : outside n low high = true ↔ n < low ∨ high < n := by
  simp [outside]

/-! ## The table of R68 -/

theorem setFreshness_stale {s : State} (period : Nat) (stale : s.doors.fresh = false) :
    s.setFreshness period = s.setDoors { s.doors with period := period } := by
  simp [State.setFreshness, stale]

theorem setFreshness_fresh_zero {s : State} (fresh : s.doors.fresh = true) :
    s.setFreshness 0 = s.setDoors { s.doors with period := 0, timer := none } := by
  simp [State.setFreshness, fresh]

theorem setFreshness_fresh_nonzero {s : State} {period : Nat} (fresh : s.doors.fresh = true) (nonzero : period ≠ 0) :
    s.setFreshness period = s.setDoors { s.doors with period := period, timer := some (s.elapsed + period) } := by
  simp [State.setFreshness, State.loaded, fresh, nonzero]

/-! ## The test of the period -/

theorem serveDoorFreshnessSet_refused {s : State} {tag high low : Byte} (nonzero : nat2 high low ≠ 0)
    (out : nat2 high low < 200 ∨ 10000 < nat2 high low) :
    serveDoorFreshnessSet s tag [high, low] = (s, .badField 0) :=
  if_pos ⟨nonzero, outside_iff.2 out⟩

theorem serveDoorFreshnessSet_taken {s : State} {tag high low : Byte}
    (allowed : nat2 high low = 0 ∨ (200 ≤ nat2 high low ∧ nat2 high low ≤ 10000)) :
    serveDoorFreshnessSet s tag [high, low] = (s.setFreshness (nat2 high low), .ok []) := by
  refine if_neg fun ⟨nonzero, out⟩ => ?_
  obtain zero | ⟨least, greatest⟩ := allowed
  · exact nonzero zero
  · obtain below | above := outside_iff.1 out
    · exact least.not_gt below
    · exact greatest.not_gt above

theorem exec_doorFreshnessSet_served {s t : State} {tag high low : Byte} {a : Answer} (h : s.TakesRequest)
    (served : serveDoorFreshnessSet s tag [high, low] = (t, a)) :
    exec (.doorFreshnessSet tag [high, low]) s = .next (t.replied .doorFreshnessSet tag a) :=
  exec_requestOfKind_served (kind := .doorFreshnessSet) h (by simp) rfl served

/-- Settles O36: a period refused changes nothing; one taken is held, and its timer follows the table of R68 by the
condition at that moment. -/
theorem doorFreshnessSet : Obligations.DoorFreshnessSet := by
  unfold Obligations.DoorFreshnessSet
  intro s tag high low takes period answered
  have taken (allowed : period = 0 ∨ (200 ≤ period ∧ period ≤ 10000)) : answered (s.setFreshness period) (.ok []) :=
    exec_doorFreshnessSet_served takes (serveDoorFreshnessSet_taken allowed)
  refine ⟨fun out => ?refused, fun zero fresh => ?stopped, fun least greatest fresh => ?loaded, fun allowed stale => ?held⟩
  case refused => exact exec_doorFreshnessSet_served takes (serveDoorFreshnessSet_refused (by omega) (by omega))
  case stopped =>
    rw [← setFreshness_fresh_zero fresh, ← zero]
    exact taken (.inl zero)
  case loaded =>
    have nonzero : period ≠ 0 := by omega
    rw [← setFreshness_fresh_nonzero fresh nonzero]
    exact taken (.inr ⟨least, greatest⟩)
  case held =>
    rw [← setFreshness_stale period stale]
    exact taken allowed

end Sys2Proof.Machine
end

section
/-! The report table (R182): what a read of an entry gives after a write of the same and of another entry, and from it what
a raise, a withdrawal and the arbiter's choice make of the table. -/

namespace Sys2Proof.Machine

/-! ## The rules of the table -/

/-- Every entry stands in the list of all entries at its own place. -/
theorem ReportId.all_index (i : ReportId) : ReportId.all[i.index.val]? = some i := by
  cases i with
  | start | doorStale | clipMissed | linkFault => rfl
  | view screen => cases screen <;> rfl
  | cameraState c | soilState c => revert c; decide
  | jobDone j => revert j; decide
  | clipReady k => revert k; decide

/-- Different entries have different places. -/
theorem ReportId.index_injective : Function.Injective ReportId.index := fun i j same =>
  Option.some.inj <| by rw [← i.all_index, ← j.all_index, same]

@[simp] theorem LinkController.report_setReport_same (l : LinkController) (i : ReportId) (e : ReportEntry) :
    (l.setReport i e).report i = e :=
  Vector.getElem_set_self _

theorem LinkController.report_setReport_ne (l : LinkController) {i j : ReportId} (e : ReportEntry) (other : j ≠ i) :
    (l.setReport i e).report j = l.report j :=
  Vector.getElem_set_ne i.index.isLt j.index.isLt fun same => other (ReportId.index_injective (Fin.ext same.symm))

/-! ## Raises and withdrawals -/

theorem LinkController.report_raise_same (l : LinkController) (i : ReportId) (x : ReportContent) :
    (l.raise i x).report i = (l.report i).raised x :=
  l.report_setReport_same i _

theorem LinkController.report_raise_ne (l : LinkController) {i j : ReportId} (x : ReportContent) (other : j ≠ i) :
    (l.raise i x).report j = l.report j :=
  l.report_setReport_ne _ other

theorem LinkController.withdraw_pending {l : LinkController} {i : ReportId} (pending : (l.report i).pending = true) :
    l.withdraw i = l.setReport i (l.report i).cleared :=
  if_pos pending

theorem LinkController.withdraw_notPending {l : LinkController} {i : ReportId} (idle : (l.report i).pending = false) :
    l.withdraw i = l :=
  if_neg (Bool.eq_false_iff.1 idle)

theorem LinkController.report_withdraw_same {l : LinkController} {i : ReportId} (pending : (l.report i).pending = true) :
    (l.withdraw i).report i = (l.report i).cleared := by
  rw [withdraw_pending pending, report_setReport_same]

theorem LinkController.report_withdraw_ne (l : LinkController) {i j : ReportId} (other : j ≠ i) :
    (l.withdraw i).report j = l.report j := by
  cases pending : (l.report i).pending with
  | true => rw [withdraw_pending pending, report_setReport_ne _ _ other]
  | false => rw [withdraw_notPending pending]

/-! ## The arbiter's choice -/

/-- With the transmitter idle, RDY high and no reply, the next sendable report is copied into the frame and its entry is
cleared. -/
theorem sendIfDue_report {s : State} {i : ReportId} (idle : s.link.tx = none) (ready : s.pins.ready = true)
    (noReply : s.link.reply = none) (next : s.link.nextReport = some i) :
    s.sendIfDue = s.setLink { s.link.setReport i (s.link.report i).cleared with
      tx := some ⟨.report i, reportKind i, 0, reportBody i (s.link.report i)⟩ } := by
  unfold State.sendIfDue
  dsimp only
  rw [idle, ready, noReply, next]
  rfl

theorem reportBody_content {i : ReportId} {e : ReportEntry} {x : ReportContent} (content : e.content = some x) :
    reportBody i e = byteOf i.source :: byteOf e.count :: x.bytes := by
  unfold reportBody
  rw [content]
  rfl

/-- Settles O9: by the rules of the table for the raise and the withdrawal, and by the arbiter's choice of a report. -/
theorem raiseAndWithdraw : Obligations.RaiseAndWithdraw := by
  unfold Obligations.RaiseAndWithdraw
  refine ⟨fun l i j x => ⟨?raised, fun other => ?others, fun pending => ?withdrawn, fun idle => ?unchanged⟩,
    fun s i x idle ready noReply next content => ?chosen⟩
  case raised => exact l.report_raise_same i x
  case others => exact ⟨l.report_raise_ne x other, l.report_withdraw_ne other⟩
  case withdrawn =>
    rw [LinkController.report_withdraw_same pending]
    exact ⟨rfl, rfl⟩
  case unchanged => exact LinkController.withdraw_notPending idle
  case chosen =>
    have cleared : s.sendIfDue.link.report i = (s.link.report i).cleared := by
      rw [sendIfDue_report idle ready noReply next]
      exact s.link.report_setReport_same i _
    rw [cleared, sendIfDue_report idle ready noReply next, ← reportBody_content content]
    exact ⟨rfl, rfl, rfl⟩

end Sys2Proof.Machine
end

section
/-! What every step keeps, from the account of the shared operations: the invariants, the bounds at reset, and that no
command stops the part while the camera setups lie in their ranges (R24). -/

namespace Sys2Proof.Machine

/-- Settles O59: the counts by the account of slots, the rest by what every command keeps. -/
theorem stepKeepsInvariants : Obligations.StepKeepsInvariants := by
  unfold Obligations.StepKeepsInvariants
  refine ⟨fun _ accounted => SlotManager.accounted_sum accounted, fun s t stepped => ?_⟩
  obtain ⟨pixels, hold, pool, accounts, control, split, queue, buffers, _, rings⟩ := step_bounds stepped
  exact ⟨accounts, pixels, hold, pool, control, split, buffers, queue, rings⟩

/-! ## No command stops the part (R24, log 13) -/

/-- A line of a setup in range lies within its slot's 2 MiB: at most 800 lines of at most 1,280 pixels (R24, R38). -/
theorem Setup.InRange.line_fits {c : Setup} (h : c.InRange) {n : Nat} (within : n < c.height) :
    (n + 1) * (2 * c.width) ≤ slotBytes := by
  have tests : outside c.width 320 1280 = false ∧ outside c.height 200 800 = false := by
    have := h
    simp only [Setup.InRange, setupFault, firstBad, Option.map_eq_none_iff, List.find?_eq_none] at this
    simp at this
    exact ⟨this.1.1, this.2.1.1⟩
  simp only [outside, Bool.or_eq_false_iff, decide_eq_false_iff_not] at tests
  calc (n + 1) * (2 * c.width) ≤ 800 * (2 * 1280) := Nat.mul_le_mul (by omega) (by omega)
    _ ≤ slotBytes := by decide

/-- A line packet is dealt with whole while the camera's setup is in range. -/
theorem linePacket_next {s : State} (c : Cam) (packet : List Byte) (h : (s.cam c).setup.InRange) :
    ∃ t, s.linePacket c packet = .next t := by
  unfold State.linePacket
  dsimp only
  split
  · cases readLine packet with
    | none => exact ⟨_, rfl⟩
    | some line =>
      dsimp only
      by_cases len : line.pixels.length ≠ 2 * (s.cam c).setup.width
      · exact ⟨_, if_pos len⟩
      · by_cases order : line.number ≠ (s.cam c).nextLine ∨ (s.cam c).setup.height ≤ line.number
        · exact ⟨_, (if_neg len).trans (if_pos order)⟩
        · have fits := h.line_fits (n := line.number) (by omega)
          exact ⟨_, (if_neg len).trans ((if_neg order).trans (if_neg fits.not_gt))⟩
  · exact ⟨_, rfl⟩

/-- Every command ends in a next state while the camera setups are in range: LINE_PACKET alone has another end. -/
theorem exec_next (c : Instr) {s : State} (h : SetupsInRange s) : ∃ t, exec c s = .next t := by
  cases c
  case linePacket lane packet =>
    obtain ⟨t, dealt⟩ := linePacket_next lane packet (h lane)
    change ∃ t, execLinePacket lane packet s = .next t
    unfold execLinePacket
    cases s.pins.resetLow with
    | true => exact ⟨s, rfl⟩
    | false => exact ⟨t.settle, by rw [dealt]; rfl⟩
  all_goals exact ⟨_, rfl⟩

/-- Settles O60: the front command has a next state, and every command keeps the setups in range. -/
theorem stepNeverStops : Obligations.StepNeverStops := by
  unfold Obligations.StepNeverStops
  intro s inRange
  cases waiting : s.pending with
  | nil => exact ⟨s, by simp only [step, waiting], inRange⟩
  | cons c rest =>
    have before : SetupsInRange (s.setPending rest) := inRange
    obtain ⟨t, ran⟩ := exec_next c before
    exact ⟨t, by simp only [step, waiting]; exact ran, (exec_bounds ran).setups before⟩

/-- Settles O1: by the two cases of the queue. -/
theorem stepTakesFront : Obligations.StepTakesFront := by
  unfold Obligations.StepTakesFront
  constructor
  · intro c rest s front
    simp only [step, front]
  · intro s idle
    simp only [step, idle]

/-! ## The state after reset -/

theorem cam_reset (c : Cam) : State.reset.cam c = CameraRecord.reset := Vector.getElem_ofFn c.isLt
theorem ctl_reset (c : Cam) : State.reset.ctl c = ControlRecord.reset := Vector.getElem_ofFn c.isLt
theorem split_reset (i : ScreenId) : State.reset.split i = SplitRecord.reset := by cases i <;> rfl
theorem screen_reset (i : ScreenId) : State.reset.screen i = ScreenRecord.reset := by cases i <;> rfl
theorem soilOf_reset (c : Cam) : State.reset.soilOf c = SoilRecord.reset := Vector.getElem_ofFn c.isLt
theorem clip_reset (k : ClipId) : State.reset.clip k = none := Vector.getElem_ofFn k.isLt

/-- Settles O58. -/
theorem invariantsAtReset : Obligations.InvariantsAtReset := by
  unfold Obligations.InvariantsAtReset
  refine ⟨rfl, ⟨by decide, by decide⟩, .inr rfl, SlotManager.accounted_reset, fun c => ?_, fun i => ?_, List.nodup_nil,
    Nat.zero_le 2, fun c => ?_, ringsFit_reset⟩
  · rw [ctl_reset]; exact Nat.zero_le 3
  · rw [split_reset]; exact Nat.zero_le 6
  · rw [cam_reset]
    exact (by decide : setupFault CameraRecord.reset.setup = none)

theorem report_reset (rate : LinkRate) {i : ReportId} (other : i ≠ .start) :
    (LinkController.reset rate).report i = ReportEntry.reset := by
  have elsewhere : i.index.val ≠ 0 := fun zero => other (ReportId.index_injective (Fin.ext zero))
  exact (Vector.getElem_ofFn i.index.isLt).trans (if_neg elsewhere)

/-- The reset door map has ranks 0 to 5 on each side. -/
theorem doorMap_reset (d : Door) : State.reset.doors.map[d] =
    { side := if d.val < 6 then .left else .right, rank := if d.val < 6 then d.val else d.val - 6, camera := none,
      alternate := none } := by
  revert d
  decide

/-- Settles O2: each block's record as its rules give it. -/
theorem resetState : Obligations.ResetState := by
  unfold Obligations.ResetState
  refine ⟨fun c => ?cameras, ?slots, ?doors, ?screens, ?monitors, ?link⟩
  case cameras =>
    rw [cam_reset, ctl_reset]
    exact ⟨rfl, rfl, rfl, rfl, rfl⟩
  case slots =>
    refine ⟨fun i => ?_, rfl, SlotManager.ring_reset, rfl, ?_, rfl, rfl⟩
    · have record : State.reset.slots.slot i = SlotRecord.reset := SlotManager.slot_reset i
      rw [record]
      exact ⟨rfl, rfl⟩
    · refine List.countP_eq_zero.2 fun i _ => ?_
      have record : State.reset.slots.slot i = SlotRecord.reset := SlotManager.slot_reset i
      rw [record]
      exact Bool.false_ne_true
  case doors =>
    exact ⟨doorMap_reset, fun d => Vector.getElem_ofFn d.isLt, rfl, rfl, rfl, rfl, rfl, rfl, rfl,
      fun c => Vector.getElem_ofFn c.isLt⟩
  case screens =>
    refine ⟨fun i => ?_, fun l => Vector.getElem_ofFn l.isLt⟩
    rw [screen_reset, split_reset]
    exact ⟨rfl, rfl, rfl, rfl, rfl, rfl, rfl, rfl⟩
  case monitors =>
    refine ⟨fun c => ?_, rfl, rfl, rfl, rfl, rfl, rfl, clip_reset, rfl, rfl⟩
    rw [soilOf_reset]
    exact ⟨rfl, rfl, rfl, rfl, rfl, rfl, rfl, rfl, rfl, rfl, rfl, rfl, rfl, rfl, rfl, rfl, rfl, rfl⟩
  case link =>
    exact ⟨rfl, rfl, rfl, rfl, rfl, fun j => Vector.getElem_ofFn j.isLt, rfl, rfl, rfl, rfl,
      Vector.getElem_ofFn (by decide), fun i other => report_reset _ other⟩

end Sys2Proof.Machine
end

section
/-! The frame of an event: what RESET_N does to a command, when the end of an event is the arbiter's decision alone, and what
that decision leaves (R177, R184, R185, R188). -/

namespace Sys2Proof.Machine

/-! ## Commands and RESET_N (R188, log 9) -/

theorem whenRunning_held {s : State} (n : State) (held : s.pins.resetLow = true) : s.whenRunning n = .next s :=
  congrArg _ (if_pos held)

theorem whenRunning_running {s : State} (n : State) (running : s.pins.resetLow = false) : s.whenRunning n = .next n :=
  congrArg _ (if_neg (Bool.eq_false_iff.1 running))

theorem event_held {s : State} (n : State) (held : s.pins.resetLow = true) : s.event n = .next s :=
  whenRunning_held _ held

theorem event_running {s : State} (n : State) (running : s.pins.resetLow = false) : s.event n = .next n.settle :=
  whenRunning_running _ running

/-- An event after which no request waits is followed by the arbiter's decision alone. -/
theorem event_sends {s n : State} (running : s.pins.resetLow = false) (none : n.link.buffers = []) :
    s.event n = .next n.sendIfDue := by
  rw [event_running n running, settle_unasked none]

/-! ## The arbiter's decision -/

/-- The arbiter changes the link and the EXPORT engine alone. -/
theorem sendIfDue_frame (s : State) :
    s.sendIfDue = (s.setLink s.sendIfDue.link).setExporter s.sendIfDue.exporter := by
  unfold State.sendIfDue
  dsimp only
  split
  · split
    · rfl
    · split
      · rfl
      · split <;> rfl
  · rfl

/-- It leaves the settings of the link as they stand. -/
theorem sendIfDue_settings (s : State) : s.sendIfDue.link.masked = s.link.masked ∧
    s.sendIfDue.link.timeBase = s.link.timeBase ∧ s.sendIfDue.link.resetAsked = s.link.resetAsked := by
  unfold State.sendIfDue
  dsimp only
  split
  · split
    · exact ⟨rfl, rfl, rfl⟩
    · split
      · exact ⟨rfl, rfl, rfl⟩
      · split <;> exact ⟨rfl, rfl, rfl⟩
  · exact ⟨rfl, rfl, rfl⟩

theorem sendIfDue_pixels (s : State) : s.sendIfDue.pixels = s.pixels := by rw [sendIfDue_frame]; rfl

theorem sendIfDue_resetAsked (s : State) : s.sendIfDue.link.resetAsked = s.link.resetAsked :=
  (sendIfDue_settings s).2.2

/-- States that agree in every block that holds a setting agree in each setting. -/
theorem Part.same_of_blocks {r s : State} (x : Part) (masked : x = .masks → s.link.masked = r.link.masked := by intro; rfl)
    (timeBase : x = .timeBase → s.link.timeBase = r.link.timeBase := by intro; rfl)
    (asked : x = .resetAsked → s.link.resetAsked = r.link.resetAsked := by intro; rfl)
    (doors : s.doors = r.doors := by rfl) (layouts : s.layouts = r.layouts := by rfl) (clips : s.clips = r.clips := by rfl)
    (soil : s.soil = r.soil := by rfl) (slots : s.slots = r.slots := by rfl) (cameras : s.cameras = r.cameras := by rfl)
    (screenA : s.screenA = r.screenA := by rfl) (screenB : s.screenB = r.screenB := by rfl) : x.same r s := by
  cases x
  case masks => exact masked rfl
  case timeBase => exact timeBase rfl
  case resetAsked => exact asked rfl
  case screenSetups =>
    have same (i : ScreenId) : s.screen i = r.screen i := by
      cases i
      · exact congrArg Composer.screen screenA
      · exact congrArg Composer.screen screenB
    exact fun i => ⟨congrArg _ (same i), congrArg _ (same i)⟩
  case cameraSetups => exact fun c => by rw [State.cam, State.cam, cameras]
  all_goals simp only [Part.same, doors, layouts, clips, soil, slots, and_self]

/-- The arbiter's decision writes no setting. -/
theorem sendIfDue_same (s : State) (x : Part) : x.same s s.sendIfDue := by
  obtain ⟨masked, timeBase, asked⟩ := sendIfDue_settings s
  rw [sendIfDue_frame]
  exact x.same_of_blocks (fun _ => masked) (fun _ => timeBase) (fun _ => asked)

theorem sendIfDue_reply {s : State} {r : Reply} (idle : s.link.tx = none) (ready : s.pins.ready = true)
    (waits : s.link.reply = some r) : s.sendIfDue = s.setLink
      { s.link with reply := none, tx := some ⟨.reply r.ofReset, r.kind, r.tag, r.body⟩ } := by
  unfold State.sendIfDue
  dsimp only
  rw [idle, ready, waits]
  rfl

/-- The end of an event is the arbiter's decision alone when no request waits, when a RESET waits for its reply, and when the
reply slot is occupied and no frame can begin. -/
theorem settle_quiet {s : State} (quiet : s.link.buffers = [] ∨ s.link.resetAsked = true ∨
    (s.link.reply.isSome = true ∧ (s.link.tx.isSome = true ∨ s.pins.ready = false))) : s.settle = s.sendIfDue := by
  obtain noneWaiting | asked | ⟨occupied, stuck⟩ := quiet
  · exact settle_unasked noneWaiting
  · unfold State.settle
    rw [decodeIfDue_held (.inr (.inr asked)), decodeIfDue_held (.inr (.inr ((sendIfDue_resetAsked s).trans asked)))]
  · unfold State.settle
    rw [decodeIfDue_held (.inr (.inl occupied)), sendIfDue_noSend stuck, decodeIfDue_held (.inr (.inl occupied))]

/-! ## Pins, straps and the clock (R173, R185, R186, R188) -/

/-- Settles O4: a command other than those of supplies and pins is an event, which RESET_N low leaves without effect. -/
theorem pinsClockAndHold : Obligations.PinsClockAndHold := by
  unfold Obligations.PinsClockAndHold
  refine ⟨⟨rfl, rfl, rfl, rfl⟩, fun s => ⟨rfl, rfl, fun running => whenRunning_running _ running⟩, ?_⟩
  intro c s held notPowerOn notAssert notRelease notRise notFall
  cases c
  case powerOn x => exact absurd rfl (notPowerOn x)
  case resetLineAssert => exact absurd rfl notAssert
  case resetLine x => exact absurd rfl (notRelease x)
  case rdyRise => exact absurd rfl notRise
  case rdyFall => exact absurd rfl notFall
  case linePacket => exact if_pos held
  case timeBaseTick => exact whenRunning_held _ held
  case commandLastByteSent => exact whenRunning_held _ held
  all_goals exact event_held _ held

end Sys2Proof.Machine
end


section
/-! The settings and the pixel bytes: what every command leaves unchanged, from what the blocks keep of them. -/

namespace Sys2Proof.Machine

/-! ## The commands of the lanes and of the blocks' own work -/

/-- What a command of a lane, of a timer or of work that ends inside the part does before the end of its event. LINE_PACKET,
whose event writes pixel bytes, and COMMAND_LAST_BYTE_SENT, which has no end of event, stand apart. -/
def blockEffect (s : State) : Instr → Option State
  | .frameStart c p => some (s.frameStart c p)
  | .frameEnd c p => some (s.frameEnd c p)
  | .frameTimerExpiry c => some (s.frameTimerExpired c)
  | .recoveryTimerExpiry c => some (s.recoveryTimerExpired c)
  | .cameraResponse c p => some (s.cameraResponse c p)
  | .responseTimerExpiry c => some (s.responseTimerExpired c)
  | .freshnessTimerExpiry => some s.freshnessExpired
  | .outputFrameEnd i => some (s.outputFrameEnds i)
  | .holdOverTimerExpiry i => some (s.holdOverExpired i)
  | .idleRecheckTimerExpiry => some s.recheckExpired
  | .examinationEnd => some s.endExamination
  | .fillEnd => some s.fillEnds
  | .stallTimerExpiry => some s.stallExpired
  | _ => none

theorem exec_blockEffect {c : Instr} {s n : State} (effect : blockEffect s c = some n) : exec c s = s.event n := by
  cases c <;> cases effect <;> rfl

/-- A block's event keeps what no block touches, and every setting but the ones of its row. -/
theorem blockEffect_keeps {c : Instr} {s n : State} (effect : blockEffect s c = some n) :
    Keeps (fun x => commandWrites c x = false) s n := by
  have start := Keeps.refl (p := fun x => commandWrites c x = false) s
  cases c <;> cases effect
  case frameStart c p => exact start.frameStart c p
  case frameEnd c p => exact start.frameEnd c p
  case frameTimerExpiry c => exact start.frameTimerExpired c
  case recoveryTimerExpiry c => exact start.recoveryTimerExpired c
  case cameraResponse c p => exact start.cameraResponse c p
  case responseTimerExpiry c => exact start.responseTimerExpired c
  case freshnessTimerExpiry => exact start.freshnessExpired (by decide) (by decide)
  case outputFrameEnd i => exact start.outputFrameEnds i
  case holdOverTimerExpiry i => exact start.holdOverExpired i
  case idleRecheckTimerExpiry => exact start.recheckExpired
  case examinationEnd => exact start.endExamination
  case fillEnd => exact start.fillEnds
  case stallTimerExpiry => exact start.stallExpired

/-! ## The pixel bytes (R1) -/

theorem decode_pixels (s : State) (r : Request) : (s.decode r).pixels = s.pixels := by
  unfold State.decode
  cases kindOfCode r.kind with
  | none => rfl
  | some kind =>
    dsimp only
    split
    · exact ((Keeps.refl (p := fun _ => False) s).serve kind r.tag r.body (fun _ _ => id)).pixels
    · rfl

theorem decodeIfDue_pixels (s : State) : s.decodeIfDue.pixels = s.pixels := by
  unfold State.decodeIfDue
  split
  · split
    · rfl
    · exact decode_pixels _ _
  · rfl

theorem settle_pixels (s : State) : s.settle.pixels = s.pixels := by
  unfold State.settle
  rw [decodeIfDue_pixels, sendIfDue_pixels, decodeIfDue_pixels]

theorem makeReset_pixels (s : State) (cause : ResetCause) (rate : LinkRate) : (s.makeReset cause rate).pixels = s.pixels :=
  (((Keeps.refl (p := fun _ => False) (s.atReset cause rate)).startOutputFrame _ _).startOutputFrame _ _).pixels

theorem frameBoundary_pixels (s : State) (x : Straps) : (s.frameBoundary x).pixels = s.pixels := by
  unfold State.frameBoundary
  dsimp only
  split
  · rfl
  · split
    · exact makeReset_pixels _ _ _
    · rfl
    · rfl
    · exact (Keeps.refl (p := fun _ => False) _).transmissionEnds.pixels

theorem gapExpired_pixels (s : State) : s.gapExpired.pixels = s.pixels := by
  unfold State.gapExpired
  split <;> rfl

theorem event_pixels {s n t : State} (kept : n.pixels = s.pixels) (ran : s.event n = .next t) : t.pixels = s.pixels := by
  cases held : s.pins.resetLow with
  | true => rw [event_held n held] at ran; cases ran; rfl
  | false => rw [event_running n held] at ran; cases ran; rw [settle_pixels, kept]

theorem request_pixels {s t : State} {code tag : Byte} {body : List Byte} (ran : s.request code tag body = .next t) :
    t.pixels = s.pixels :=
  event_pixels (n := s.requestArrives ⟨code, tag, body⟩) rfl ran

/-- LINE_PACKET alone writes pixel bytes. -/
theorem exec_pixels {c : Instr} {s t : State} (notLine : ∀ lane packet, c ≠ .linePacket lane packet)
    (ran : exec c s = .next t) : t.pixels = s.pixels := by
  cases effect : blockEffect s c with
  | some n =>
    rw [exec_blockEffect effect] at ran
    exact event_pixels (blockEffect_keeps effect).pixels ran
  | none =>
    cases c <;> cases effect
    case linePacket.refl lane packet => exact absurd rfl (notLine lane packet)
    case powerOn.refl x =>
      cases ran
      split
      · exact makeReset_pixels _ _ _
      · rw [settle_pixels, makeReset_pixels]
    case resetLineAssert.refl => cases ran; rfl
    case resetLine.refl x =>
      cases ran
      split
      · rw [settle_pixels, makeReset_pixels]; rfl
      · rfl
    case timeBaseTick.refl => cases ran; split <;> rfl
    case rdyRise.refl =>
      cases ran
      split
      · rfl
      · rw [settle_pixels]; rfl
    case rdyFall.refl => cases ran; rfl
    case commandLastByteSent.refl => cases ran; split <;> rfl
    case gapTimerExpiry.refl => exact event_pixels (gapExpired_pixels s) ran
    case frameBoundary.refl x => exact event_pixels (frameBoundary_pixels s x) ran
    case rxCharacter.refl b x => exact event_pixels (n := s.rxCharacter b x) rfl ran
    all_goals exact request_pixels ran

/-! ## The settings -/

/-- No waiting request writes a setting. -/
def WaitingLeave (x : Part) (s : State) : Prop :=
  ∀ r ∈ s.link.buffers, ∀ kind, kindOfCode r.kind = some kind → requestWrites kind x = false

theorem WaitingLeave.of_empty {x : Part} {s : State} (none : s.link.buffers = []) : WaitingLeave x s := by
  intro r waits
  rw [none] at waits
  exact absurd waits List.not_mem_nil

theorem place_same (s : State) (r : Request) (a : Answer) (ofReset : Bool) (x : Part) : x.same s (s.place r a ofReset) := by
  exact x.same_of_blocks

/-- A decoding serves the request, if it can be served, and places its reply. -/
theorem decode_eq (s : State) (r : Request) : ∃ t a ofReset, s.decode r = t.place r a ofReset ∧
    (t = s ∨ ∃ kind, kindOfCode r.kind = some kind ∧ t = (serve kind s r.tag r.body).1) := by
  unfold State.decode
  cases known : kindOfCode r.kind with
  | none => exact ⟨s, _, _, rfl, .inl rfl⟩
  | some kind =>
    dsimp only
    split
    · exact ⟨_, _, _, rfl, .inr ⟨kind, rfl, rfl⟩⟩
    · exact ⟨s, _, _, rfl, .inl rfl⟩

theorem decode_buffers (s : State) (r : Request) : (s.decode r).link.buffers = s.link.buffers := by
  obtain ⟨t, a, ofReset, decoded, rfl | ⟨kind, known, rfl⟩⟩ := decode_eq s r
  · rw [decoded]
    rfl
  · rw [decoded]
    exact ((Keeps.refl (p := fun _ => False) s).serve kind r.tag r.body (fun _ _ => id)).buffers

theorem decode_same {s : State} {r : Request} {x : Part}
    (leaves : ∀ kind, kindOfCode r.kind = some kind → requestWrites kind x = false) : x.same s (s.decode r) := by
  obtain ⟨t, a, ofReset, decoded, rfl | ⟨kind, known, rfl⟩⟩ := decode_eq s r
  · rw [decoded]
    exact place_same _ _ _ _ x
  · have kept := (Keeps.refl (p := fun y => y = x) s).serve kind r.tag r.body
      (fun y writes same => by rw [same, leaves kind known] at writes; cases writes)
    rw [decoded]
    exact Part.same_trans (kept.same x rfl) (place_same _ _ _ _ x)

theorem WaitingLeave.decodeIfDue {x : Part} {s : State} (h : WaitingLeave x s) :
    x.same s s.decodeIfDue ∧ WaitingLeave x s.decodeIfDue := by
  unfold State.decodeIfDue
  split
  · cases waiting : s.link.buffers with
    | nil => exact ⟨x.same_refl s, h⟩
    | cons r rest =>
      have head : ∀ kind, kindOfCode r.kind = some kind → requestWrites kind x = false :=
        h r (by rw [waiting]; exact List.mem_cons_self)
      have same : x.same s ((s.setLink { s.link with buffers := rest }).decode r) :=
        Part.same_trans x.same_of_blocks (decode_same head)
      refine ⟨same, fun q waits => h q ?_⟩
      rw [decode_buffers] at waits
      rw [waiting]
      exact List.mem_cons_of_mem r waits
  · exact ⟨x.same_refl s, h⟩

/-- The end of an event writes no setting that no waiting request writes. -/
theorem WaitingLeave.settle_same {x : Part} {s : State} (h : WaitingLeave x s) : x.same s s.settle := by
  obtain ⟨first, left⟩ := h.decodeIfDue
  have sent : WaitingLeave x s.decodeIfDue.sendIfDue := fun r waits => left r (sendIfDue_buffers _ ▸ waits)
  exact Part.same_trans (Part.same_trans first (sendIfDue_same _ x)) sent.decodeIfDue.1

theorem event_same {x : Part} {s n t : State} (same : x.same s n) (leave : WaitingLeave x n) (ran : s.event n = .next t) :
    x.same s t := by
  cases held : s.pins.resetLow with
  | true => rw [event_held n held] at ran; cases ran; exact x.same_refl _
  | false => rw [event_running n held] at ran; cases ran; exact Part.same_trans same leave.settle_same

/-- A request that arrives is the only one that waits, or none is. -/
theorem requestArrives_waiting {s : State} {r : Request} (none : s.link.buffers = []) {q : Request}
    (waits : q ∈ (s.requestArrives r).link.buffers) : q = r := by
  unfold State.requestArrives LinkController.store at waits
  rw [none] at waits
  split at waits
  · rw [State.setLink_link, Bounds.buffers_receptionFault, none] at waits
    exact absurd waits List.not_mem_nil
  · simpa using waits

theorem store_settings (l : LinkController) (r : Request) : (l.store r).masked = l.masked ∧
    (l.store r).timeBase = l.timeBase ∧ (l.store r).resetAsked = l.resetAsked := by
  unfold LinkController.store
  split <;> exact ⟨rfl, rfl, rfl⟩

theorem requestArrives_same (s : State) (r : Request) (x : Part) : x.same s (s.requestArrives r) := by
  unfold State.requestArrives
  obtain ⟨masked, timeBase, asked⟩ := store_settings s.link r
  split
  · exact x.same_of_blocks
  · exact x.same_of_blocks (fun _ => masked) (fun _ => timeBase) (fun _ => asked)

theorem request_same {x : Part} {s t : State} {code tag : Byte} {body : List Byte} (none : s.link.buffers = [])
    (leaves : ∀ kind, kindOfCode code = some kind → requestWrites kind x = false) (ran : s.request code tag body = .next t) :
    x.same s t := by
  refine event_same (requestArrives_same s _ x) (fun q waits => ?_) ran
  rw [requestArrives_waiting none waits]
  exact leaves

theorem kindOfCode_kindCode (k : RequestKind) : kindOfCode (kindCode k) = some k := by cases k <;> decide

theorem requestOfKind_same {x : Part} {s t : State} {k : RequestKind} {tag : Byte} {body : List Byte}
    (none : s.link.buffers = []) (ran : s.request (kindCode k) tag body = .next t) (leaves : requestWrites k x = false) :
    x.same s t := by
  refine request_same none (fun kind known => ?_) ran
  rw [kindOfCode_kindCode] at known
  cases known
  exact leaves

theorem gapExpired_link (s : State) : s.gapExpired.link.buffers = s.link.buffers ∧
    ∀ x : Part, x.same s s.gapExpired := by
  unfold State.gapExpired
  split
  · exact ⟨rfl, fun x => x.same_of_blocks⟩
  · exact ⟨rfl, Part.same_refl s⟩

/-- A millisecond writes the time base alone. -/
theorem tick_same (s : State) {x : Part} (other : x ≠ .timeBase) : x.same s s.tick :=
  x.same_of_blocks (timeBase := fun same => absurd same other)

theorem storeLine_same (s : State) (c : Cam) (line : Line) (x : Part) : x.same s (s.storeLine c line) := by
  unfold State.storeLine
  dsimp only
  split
  · exact ((Keeps.refl (p := fun _ => True) s).setCam c _).same x trivial
  · exact Part.same_trans x.same_of_blocks
      (((Keeps.refl (p := fun _ => True) (s.setPixels _)).setCam c _).same x trivial)

theorem linePacket_same {s t : State} {c : Cam} {packet : List Byte} (ran : s.linePacket c packet = .next t) :
    t.link.buffers = s.link.buffers ∧ ∀ x : Part, x.same s t := by
  have damaged (kind : DamageKind) := (Keeps.refl (p := fun _ => True) s).damageOnly c kind
  have ended (kind : DamageKind) : (s.damageOnly c kind).link.buffers = s.link.buffers ∧
      ∀ x : Part, x.same s (s.damageOnly c kind) := ⟨(damaged kind).buffers, fun x => (damaged kind).same x trivial⟩
  unfold State.linePacket at ran
  dsimp only at ran
  split at ran
  · split at ran
    · cases ran; exact ended .crc
    · split at ran
      · cases ran; exact ended .length
      · split at ran
        · cases ran; exact ended .order
        · split at ran
          · cases ran
          · cases ran
            refine ⟨?_, storeLine_same s c _⟩
            unfold State.storeLine
            dsimp only
            split <;> rfl
  · cases ran; exact ⟨rfl, Part.same_refl s⟩

theorem linePacket_leaves {x : Part} {s t : State} {lane : Cam} {packet : List Byte} (none : s.link.buffers = [])
    (ran : exec (.linePacket lane packet) s = .next t) : x.same s t := by
  change execLinePacket lane packet s = .next t at ran
  unfold execLinePacket at ran
  split at ran
  · cases ran; exact x.same_refl s
  · split at ran
    · rename_i u dealt
      obtain ⟨buffers, same⟩ := linePacket_same dealt
      cases ran
      exact Part.same_trans (same x) (WaitingLeave.of_empty (buffers.trans none)).settle_same
    · cases ran
    · cases ran

/-- A command writes no setting but those of its row, while no request waits. -/
theorem exec_same {c : Instr} {s t : State} {x : Part} (formed : c.wellFormed = true) (none : s.link.buffers = [])
    (leaves : commandWrites c x = false) (ran : exec c s = .next t) : x.same s t := by
  cases effect : blockEffect s c with
  | some n =>
    have kept := blockEffect_keeps effect
    rw [exec_blockEffect effect] at ran
    exact event_same (kept.same x leaves) (WaitingLeave.of_empty (kept.buffers.trans none)) ran
  | none =>
    cases c <;> cases effect
    case powerOn.refl => cases leaves
    case resetLine.refl => cases leaves
    case frameBoundary.refl => cases leaves
    case rxCharacter.refl => cases leaves
    case resetLineAssert.refl =>
      cases ran
      exact x.same_of_blocks
    case timeBaseTick.refl =>
      have other : x ≠ .timeBase := fun same => by rw [same] at leaves; cases leaves
      cases ran
      split
      · exact x.same_refl s
      · exact tick_same s other
    case rdyRise.refl =>
      cases ran
      split
      · exact x.same_of_blocks
      · exact Part.same_trans x.same_of_blocks (WaitingLeave.of_empty (s := s.setReady true) none).settle_same
    case rdyFall.refl => cases ran; exact x.same_of_blocks
    case commandLastByteSent.refl camera =>
      cases ran
      split
      · exact x.same_refl s
      · exact ((Keeps.refl (p := fun _ => True) s).commandLastByteSent camera).same x trivial
    case gapTimerExpiry.refl =>
      obtain ⟨buffers, same⟩ := gapExpired_link s
      exact event_same (same x) (WaitingLeave.of_empty (buffers.trans none)) ran
    case linePacket.refl lane packet => exact linePacket_leaves none ran
    case unknownKindRequest.refl kind tag body =>
      have unlisted : kindOfCode kind = .none := Option.isNone_iff_eq_none.1 (Bool.and_eq_true_iff.1 formed).2
      exact request_same none (fun k listed => by rw [unlisted] at listed; cases listed) ran
    all_goals exact requestOfKind_same none ran leaves

/-- Settles O57: by what every command keeps of the queue, of the pixel bytes and of each setting. -/
theorem whatCommandsLeave : Obligations.WhatCommandsLeave := by
  unfold Obligations.WhatCommandsLeave
  exact ⟨fun c s t ran => (exec_bounds ran).pending, fun c s t notLine ran => exec_pixels notLine ran,
    fun c s t x formed none leaves ran => exec_same formed none leaves ran⟩

end Sys2Proof.Machine
end

section
/-! The receiver and its frames: the checks of a decoded frame (R176), the table of the receiver (R175), characters and the
wire (R173, R174). -/

namespace Sys2Proof.Machine

/-! ## Fields of two bytes (R191) -/

@[simp] theorem byteOf_toNat (n : Nat) : (byteOf n).toNat = n % 256 := BitVec.toNat_ofNat n 8

/-- A 2-byte field reads back as the number it was written from. -/
theorem nat2_byteOf {n : Nat} (small : n < 65536) : nat2 (byteOf (n / 256)) (byteOf n) = n := by
  simp only [nat2, byteOf_toNat]
  omega

@[simp] theorem bytes2_length (n : Nat) : (bytes2 n).length = 2 := rfl

theorem field2_append (before after : List Byte) {n : Nat} (small : n < 65536) :
    field2 (before ++ (bytes2 n ++ after)) before.length = n := by
  have high : (before ++ (bytes2 n ++ after)).getD before.length 0 = byteOf (n / 256) := by simp [bytes2]
  have low : (before ++ (bytes2 n ++ after)).getD (before.length + 1) 0 = byteOf n := by simp [bytes2]
  rw [field2, high, low, nat2_byteOf small]

/-! ## The checks of a decoded frame (R174, R176) -/

theorem requestOf_eq_some {bytes : List Byte} (long : 4 ≤ bytes.length) : requestOf bytes = some
    { kind := bytes.getD 0 0, tag := bytes.getD 1 0, body := (bytes.drop 4).take (bytes.length - 6) } := by
  match bytes with
  | [] | [_] | [_, _] | [_, _, _] => exact absurd long (by simp)
  | kind :: tag :: _ :: _ :: rest => rfl

variable (l : LinkController) {bytes : List Byte}

theorem frameEnds_short (short : bytes.length < 6) : l.frameEnds bytes = l.receptionFault .format bytes := by
  unfold LinkController.frameEnds
  dsimp only
  split
  · rfl
  · exact if_pos short

/-- A frame of at least 6 bytes is put to the three other checks, in their order. -/
theorem frameEnds_checked (long : 6 ≤ bytes.length) : l.frameEnds bytes =
    if (crc16 (bytes.take (bytes.length - 2))).toNat ≠ field2 bytes (bytes.length - 2) then l.receptionFault .crc bytes
    else if field2 bytes 2 ≠ bytes.length - 6 then l.receptionFault .length bytes
    else l.store { kind := bytes.getD 0 0, tag := bytes.getD 1 0, body := (bytes.drop 4).take (bytes.length - 6) } := by
  unfold LinkController.frameEnds
  dsimp only
  rw [requestOf_eq_some (by omega)]
  exact if_neg long.not_gt

theorem store_room {r : Request} (room : l.buffers.length < 2) : l.store r = { l with buffers := l.buffers ++ [r] } :=
  if_pos room

theorem store_full {r : Request} (full : 2 ≤ l.buffers.length) : l.store r = l.receptionFault .overrun [r.kind, r.tag] :=
  if_neg full.not_gt

/-- A reception fault reads the tag of the discarded frame alone. -/
theorem receptionFault_congr (kind : LinkFaultKind) {a b : List Byte} (tag : a[1]? = b[1]?) :
    l.receptionFault kind a = l.receptionFault kind b := by
  unfold LinkController.receptionFault
  rw [tag]

/-- Settles O6: the four checks in their order, and a fault's total and entry. -/
theorem receptionFaults : Obligations.ReceptionFaults := by
  unfold Obligations.ReceptionFaults
  refine ⟨fun l bytes => ⟨frameEnds_short l, fun long wrong => ?crc, fun long right wrong => ?length,
    fun long right fits full => ?full, fun long right fits room => ?room⟩, fun l bytes => ⟨rfl, rfl, rfl, rfl, rfl, rfl⟩⟩
  case crc => rw [frameEnds_checked l long, if_pos wrong]
  case length => rw [frameEnds_checked l long, if_neg (not_not_intro right), if_pos wrong]
  case full =>
    rw [frameEnds_checked l long, if_neg (not_not_intro right), if_neg (not_not_intro fits), store_full l full]
    refine receptionFault_congr l _ ?_
    rw [List.getD_eq_getElem _ _ (by omega : 1 < bytes.length)]
    simp
  case room => rw [frameEnds_checked l long, if_neg (not_not_intro right), if_neg (not_not_intro fits), store_room l room]

/-- The frame of a message passes the checks and is stored. -/
theorem frameEnds_frameContent (kind tag : Byte) {body : List Byte} (carried : body.length < 65536) :
    l.frameEnds (frameContent kind tag body) = l.store { kind := kind, tag := tag, body := body } := by
  let head := kind :: tag :: (bytes2 body.length ++ body)
  have content : frameContent kind tag body = head ++ bytes2 (crc16 head).toNat := rfl
  have headLength : head.length = body.length + 4 := by simp [head]; omega
  have length : (frameContent kind tag body).length = head.length + 2 := by rw [content]; simp
  rw [frameEnds_checked l (by omega), length, Nat.add_sub_cancel, if_neg, if_neg]
  · have fields : (frameContent kind tag body).getD 0 0 = kind ∧ (frameContent kind tag body).getD 1 0 = tag := ⟨rfl, rfl⟩
    have dropped : (frameContent kind tag body).drop 4 = body ++ bytes2 (crc16 head).toNat := rfl
    have size : head.length + 2 - 6 = body.length := by omega
    rw [fields.1, fields.2, dropped, size, List.take_left']
    rfl
  · have sized : field2 (frameContent kind tag body) 2 = body.length := by
      exact field2_append [kind, tag] (body ++ bytes2 (crc16 head).toNat) carried
    omega
  · rw [content, List.take_left' rfl]
    have crc := field2_append head [] (n := (crc16 head).toNat) (crc16 head).isLt
    rw [List.append_nil] at crc
    exact not_not_intro crc.symm

/-! ## The table of the receiver (R175) -/

theorem character_hunt_ignored {b : Byte} {stop : Bool} (gap : Timer) (hunt : l.receiver.state = .hunt)
    (other : ¬(stop = true ∧ b = 0x5A#8)) : l.character b stop gap = l := by
  unfold LinkController.character
  simp only [hunt]
  exact if_neg other

theorem character_hunt_opened (gap : Timer) (hunt : l.receiver.state = .hunt) :
    l.character 0x5A#8 true gap = { l with receiver := Receiver.opened } := by
  unfold LinkController.character
  simp only [hunt]
  rfl

/-- An empty frame and a framing error before its first byte change nothing. -/
theorem character_collect_empty {b : Byte} {stop : Bool} (gap : Timer) (collect : l.receiver.state = .collect)
    (empty : l.receiver.bytes = []) (ends : stop = false ∨ b = 0x5A#8) : l.character b stop gap = l := by
  unfold LinkController.character
  simp only [collect, empty]
  obtain rfl | rfl := ends
  · rfl
  · cases stop <;> rfl

theorem character_collect_framing {b : Byte} (gap : Timer) (collect : l.receiver.state = .collect)
    (begun : l.receiver.bytes ≠ []) : l.character b false gap =
      { l with receiver := Receiver.hunt }.receptionFault .format l.receiver.bytes := by
  unfold LinkController.character
  simp [collect, begun]

theorem character_collect_delimiter (gap : Timer) (collect : l.receiver.state = .collect) (begun : l.receiver.bytes ≠ []) :
    l.character 0x5A#8 true gap = { l with receiver := Receiver.opened }.frameEnds l.receiver.bytes := by
  unfold LinkController.character
  simp [collect, begun]

theorem character_collect_escape (gap : Timer) (collect : l.receiver.state = .collect) :
    l.character 0x5B#8 true gap = { l with receiver := ⟨.escaped, l.receiver.bytes, gap⟩ } := by
  unfold LinkController.character
  simp only [collect]
  rfl

theorem character_collect_byte {b : Byte} (gap : Timer) (collect : l.receiver.state = .collect) (notDelimiter : b ≠ 0x5A#8)
    (notEscape : b ≠ 0x5B#8) : l.character b true gap = l.append b gap := by
  unfold LinkController.character
  simp only [collect]
  exact (if_neg notDelimiter).trans (if_neg notEscape)

theorem character_escaped_framing {b : Byte} (gap : Timer) (escaped : l.receiver.state = .escaped) :
    l.character b false gap = { l with receiver := Receiver.hunt }.receptionFault .format l.receiver.bytes := by
  unfold LinkController.character
  simp only [escaped]
  rfl

theorem character_escaped_delimiter (gap : Timer) (escaped : l.receiver.state = .escaped) : l.character 0x5A#8 true gap =
    { l with receiver := Receiver.opened }.receptionFault .format l.receiver.bytes := by
  unfold LinkController.character
  simp only [escaped]
  rfl

theorem character_escaped_byte {b : Byte} (gap : Timer) (escaped : l.receiver.state = .escaped) (notDelimiter : b ≠ 0x5A#8) :
    l.character b true gap = l.append (b ^^^ 0x20#8) gap := by
  unfold LinkController.character
  simp only [escaped]
  exact if_neg notDelimiter

theorem append_room {b : Byte} (gap : Timer) (room : l.receiver.bytes.length < 1046) :
    l.append b gap = { l with receiver := ⟨.collect, l.receiver.bytes ++ [b], gap⟩ } :=
  if_neg (by rw [List.length_append, List.length_singleton, largestFrame]; omega)

theorem append_oversize {b : Byte} (gap : Timer) (full : 1046 ≤ l.receiver.bytes.length) : l.append b gap =
    { l with receiver := Receiver.hunt }.receptionFault .oversize (l.receiver.bytes ++ [b]) :=
  if_pos (by rw [List.length_append, List.length_singleton, largestFrame]; omega)

/-- A character after which no request waits is followed by the arbiter's decision. -/
theorem exec_rxCharacter_sends {s : State} {b : Byte} {stop : Bool} {after : LinkController} (unasked : s.Unasked)
    (taken : s.link.character b stop (s.loaded 2) = after) (buffers : after.buffers = s.link.buffers) :
    exec (.rxCharacter b stop) s = .next (s.setLink after).sendIfDue := by
  rw [← taken] at buffers ⊢
  exact event_sends (n := s.rxCharacter b stop) unasked.running (buffers.trans unasked.noneWaiting)

theorem store_keeps (r : Request) : (l.store r).resetAsked = l.resetAsked ∧ (l.store r).reply = l.reply ∧
    (l.store r).tx = l.tx := by
  unfold LinkController.store
  split <;> exact ⟨rfl, rfl, rfl⟩

/-- The end of a frame leaves the reply slot and the transmitter as they stand. -/
theorem frameEnds_keeps (bytes : List Byte) : (l.frameEnds bytes).resetAsked = l.resetAsked ∧
    (l.frameEnds bytes).reply = l.reply ∧ (l.frameEnds bytes).tx = l.tx := by
  by_cases short : bytes.length < 6
  · rw [frameEnds_short l short]
    exact ⟨rfl, rfl, rfl⟩
  · rw [frameEnds_checked l (by omega)]
    split
    · exact ⟨rfl, rfl, rfl⟩
    · split
      · exact ⟨rfl, rfl, rfl⟩
      · exact store_keeps l _

/-- The delimiter that ends a whole frame does what the arrival of its message does, but for the receiver. -/
theorem exec_rxCharacter_frame {s : State} {kind tag : Byte} {body : List Byte} (running : s.pins.resetLow = false)
    (carried : body.length ≤ 1040) (collect : s.link.receiver.state = .collect)
    (whole : s.link.receiver.bytes = frameContent kind tag body) : exec (.rxCharacter 0x5A#8 true) s =
      (s.setLink { s.link with receiver := Receiver.opened }).request kind tag body := by
  have begun : s.link.receiver.bytes ≠ [] := by
    rw [whole]
    exact List.cons_ne_nil _ _
  have stored : s.rxCharacter 0x5A#8 true =
      (s.setLink { s.link with receiver := Receiver.opened }).requestArrives ⟨kind, tag, body⟩ := by
    unfold State.rxCharacter State.requestArrives
    rw [character_collect_delimiter _ _ collect begun, whole, frameEnds_frameContent _ kind tag (by omega),
      if_neg (by exact carried.not_gt)]
    rfl
  change s.event (s.rxCharacter 0x5A#8 true) = _
  rw [stored, event_running _ running, State.request, event_running]
  exact running

theorem due_iff (s : State) (t : Timer) : s.due t = true ↔ ∃ d, t = some d ∧ d ≤ s.elapsed := by
  cases t <;> simp [State.due]

/-- Settles O5. -/
theorem receiverTable : Obligations.ReceiverTable := by
  unfold Obligations.ReceiverTable
  refine ⟨fun s b stop unasked => ⟨?_, ?_, ?_, ?_, ?_, ?_, ?_, ?_, ?_, ?_, ?_⟩,
    fun s kind tag body running carried collect => ?_, fun s unasked => ⟨?_, ?_⟩⟩
  · intro hunt other
    exact exec_rxCharacter_sends unasked (character_hunt_ignored _ _ hunt other) rfl
  · rintro hunt rfl rfl
    exact exec_rxCharacter_sends unasked (character_hunt_opened _ _ hunt) rfl
  · intro collect empty ends
    exact exec_rxCharacter_sends unasked (character_collect_empty _ _ collect empty ends) rfl
  · rintro collect rfl rfl
    exact exec_rxCharacter_sends unasked (character_collect_escape _ _ collect) rfl
  · rintro collect rfl notDelimiter notEscape room
    exact exec_rxCharacter_sends unasked
      ((character_collect_byte _ _ collect notDelimiter notEscape).trans (append_room _ _ room)) rfl
  · rintro escaped rfl notDelimiter room
    exact exec_rxCharacter_sends unasked
      ((character_escaped_byte _ _ escaped notDelimiter).trans (append_room _ _ room)) rfl
  · rintro (⟨collect, begun⟩ | escaped) rfl
    · exact exec_rxCharacter_sends unasked (character_collect_framing _ _ collect begun) rfl
    · exact exec_rxCharacter_sends unasked (character_escaped_framing _ _ escaped) rfl
  · rintro escaped rfl rfl
    exact exec_rxCharacter_sends unasked (character_escaped_delimiter _ _ escaped) rfl
  · rintro collect rfl notDelimiter notEscape full
    exact exec_rxCharacter_sends unasked
      ((character_collect_byte _ _ collect notDelimiter notEscape).trans (append_oversize _ _ full)) rfl
  · rintro escaped rfl notDelimiter full
    exact exec_rxCharacter_sends unasked
      ((character_escaped_byte _ _ escaped notDelimiter).trans (append_oversize _ _ full)) rfl
  · rintro collect begun rfl rfl checked quiet
    have taken : s.rxCharacter 0x5A#8 true = s.setLink checked :=
      congrArg s.setLink (character_collect_delimiter _ _ collect begun)
    obtain ⟨asked, reply, tx⟩ := frameEnds_keeps { s.link with receiver := Receiver.opened } s.link.receiver.bytes
    change s.event (s.rxCharacter 0x5A#8 true) = _
    rw [event_running _ unasked.running, taken, settle_quiet]
    refine quiet.imp id (Or.imp asked.trans fun ⟨occupied, stuck⟩ => ⟨?_, ?_⟩)
    · exact (congrArg Option.isSome reply).trans occupied
    · exact stuck.imp (congrArg Option.isSome tx).trans id
  · intro head whole opened
    refine ⟨fun k listed => ?_, fun _ => exec_rxCharacter_frame running carried collect whole⟩
    rw [exec_requestOfKind, ← listed]
    exact exec_rxCharacter_frame running carried collect whole
  · intro elapsed
    have expired : s.gapExpired = _ := if_pos ((due_iff s _).2 elapsed)
    change s.event s.gapExpired = _
    rw [expired]
    exact event_sends unasked.running unasked.noneWaiting
  · intro waits
    have early : s.gapExpired = s := if_neg fun due => by
      obtain ⟨d, running, reached⟩ := (due_iff s _).1 due
      exact (waits d running).not_ge reached
    change s.event s.gapExpired = _
    rw [early]
    exact event_sends unasked.running unasked.noneWaiting

end Sys2Proof.Machine
end

section
/-! Characters and messages on the wire: what is put on the wire comes to the buffers as it was sent (R173 to R177). -/

namespace Sys2Proof.Machine

/-! ## Characters (R173) -/

/-- The weighted sum of a byte's eight bits is the byte. -/
theorem byteOf_setBits (b : Byte) : byteOf (setBits [b.getLsbD 0, b.getLsbD 1, b.getLsbD 2, b.getLsbD 3, b.getLsbD 4,
    b.getLsbD 5, b.getLsbD 6, b.getLsbD 7]) = b := by
  have small : b.toNat < 256 := b.isLt
  have bit (k : Nat) : (b.getLsbD k).toNat = b.toNat / 2 ^ k % 2 := Nat.toNat_testBit b.toNat k
  refine BitVec.eq_of_toNat_eq ?_
  rw [byteOf_toNat]
  simp only [setBits, List.foldr, bit]
  omega

theorem readCharacter_bits (b : Byte) (stop : Bool) : readCharacter [false, b.getLsbD 0, b.getLsbD 1, b.getLsbD 2, b.getLsbD 3,
    b.getLsbD 4, b.getLsbD 5, b.getLsbD 6, b.getLsbD 7, stop] = some (b, stop) :=
  congrArg (fun x => some (x, stop)) (byteOf_setBits b)

/-- Levels that are no ten bits or begin high are no character. -/
theorem readCharacter_none {levels : List Bool} (wrong : levels.length ≠ 10 ∨ levels.head? = some true) :
    readCharacter levels = none := by
  unfold readCharacter
  split
  · obtain short | high := wrong
    · exact absurd rfl short
    · cases high
  · rfl

/-! ## A message through the receiver (R174, R175) -/

/-- The characters of a message with the gap timer as it is loaded at each. -/
def LinkController.receives (l : LinkController) (characters : List (Byte × Timer)) : LinkController :=
  characters.foldl (fun l p => l.character p.1 true p.2) l

theorem receives_append (l : LinkController) (a b : List (Byte × Timer)) : l.receives (a ++ b) = (l.receives a).receives b :=
  List.foldl_append

/-- An escaped byte is decoded to the byte itself (R174). -/
theorem character_escaped_pair (l : LinkController) {b escaped : Byte} (first second : Timer) (collect : l.receiver.state = .collect)
    (decodes : escaped ^^^ 0x20#8 = b) (notDelimiter : escaped ≠ 0x5A#8) (room : l.receiver.bytes.length < 1046) :
    (l.character 0x5B#8 true first).character escaped true second =
      { l with receiver := ⟨.collect, l.receiver.bytes ++ [b], second⟩ } := by
  rw [character_collect_escape l first collect, character_escaped_byte _ second rfl notDelimiter, decodes, append_room]
  exact room

/-- The escaped bytes of a content are collected as the content. -/
theorem receives_escapeBytes (content : List Byte) : ∀ (l : LinkController) (gaps : List Timer),
    l.receiver.state = .collect → l.receiver.bytes.length + content.length ≤ 1046 →
    gaps.length = (escapeBytes content).length →
    ∃ gap, l.receives ((escapeBytes content).zip gaps) =
      { l with receiver := ⟨.collect, l.receiver.bytes ++ content, gap⟩ } := by
  induction content with
  | nil =>
    intro l gaps collect _ _
    refine ⟨l.receiver.gap, ?_⟩
    rw [List.append_nil, ← collect]
    rfl
  | cons b rest ih =>
    intro l gaps collect fits length
    have room : l.receiver.bytes.length < 1046 := by rw [List.length_cons] at fits; omega
    have continues (gap : Timer) (gaps : List Timer) (same : gaps.length = (escapeBytes rest).length) :
        ∃ last, LinkController.receives { l with receiver := ⟨.collect, l.receiver.bytes ++ [b], gap⟩ }
          ((escapeBytes rest).zip gaps) = { l with receiver := ⟨.collect, l.receiver.bytes ++ b :: rest, last⟩ } := by
      obtain ⟨last, received⟩ := ih { l with receiver := ⟨.collect, l.receiver.bytes ++ [b], gap⟩ } gaps rfl
        (by simpa [Nat.add_assoc, Nat.add_comm 1] using fits) same
      exact ⟨last, by rw [received, List.append_assoc]; rfl⟩
    have escaped {e : Byte} (decodes : e ^^^ 0x20#8 = b) (notDelimiter : e ≠ 0x5A#8)
        (long : gaps.length = (0x5B#8 :: e :: escapeBytes rest).length) :
        ∃ gap, l.receives ((0x5B#8 :: e :: escapeBytes rest).zip gaps) =
          { l with receiver := ⟨.collect, l.receiver.bytes ++ b :: rest, gap⟩ } := by
      obtain ⟨first, second, gaps, rfl⟩ : ∃ first second more, gaps = first :: second :: more := by
        match gaps, long with
        | first :: second :: more, _ => exact ⟨first, second, more, rfl⟩
      obtain ⟨last, received⟩ := continues second gaps (by simpa using long)
      refine ⟨last, ?_⟩
      rw [← received, ← character_escaped_pair l first second collect decodes notDelimiter room]
      rfl
    unfold escapeBytes at length ⊢
    by_cases delimiter : b = 0x5A#8
    · rw [if_pos delimiter] at length ⊢
      exact escaped (by rw [delimiter]; decide) (by decide) length
    · by_cases escape : b = 0x5B#8
      · rw [if_neg delimiter, if_pos escape] at length ⊢
        exact escaped (by rw [escape]; decide) (by decide) length
      · rw [if_neg delimiter, if_neg escape] at length ⊢
        obtain ⟨gap, gaps, rfl⟩ : ∃ gap more, gaps = gap :: more := by
          match gaps, length with
          | gap :: more, _ => exact ⟨gap, more, rfl⟩
        obtain ⟨last, received⟩ := continues gap gaps (by simpa using length)
        refine ⟨last, ?_⟩
        rw [← received, ← append_room l gap room, ← character_collect_byte l gap collect delimiter escape]
        rfl

theorem frameContent_length (kind tag : Byte) (body : List Byte) : (frameContent kind tag body).length = body.length + 6 := by
  simp [frameContent]
  omega

/-- A message put on the wire and received from HUNT, or from COLLECT with no bytes, comes to the buffers as it was sent. -/
theorem receives_wireFrame (l : LinkController) (kind tag : Byte) {body : List Byte} {gaps : List Timer}
    (carried : body.length ≤ 1040) (room : l.buffers.length < 2)
    (opens : l.receiver.state = .hunt ∨ (l.receiver.state = .collect ∧ l.receiver.bytes = []))
    (length : gaps.length = (wireFrame kind tag body).length) :
    l.receives ((wireFrame kind tag body).zip gaps) =
      { l with receiver := Receiver.opened, buffers := l.buffers ++ [{ kind := kind, tag := tag, body := body }] } := by
  let content := frameContent kind tag body
  obtain ⟨first, inner, last, rfl, same⟩ : ∃ first inner last, gaps = first :: (inner ++ [last]) ∧
      (escapeBytes content).length = inner.length := by
    match gaps, length with
    | first :: more, long =>
      have nonempty : more ≠ [] := by
        rintro rfl
        simp [wireFrame] at long
      refine ⟨first, more.dropLast, more.getLast nonempty, by rw [List.dropLast_append_getLast], ?_⟩
      simp [wireFrame] at long
      simp [content]
      omega
  have split : (wireFrame kind tag body).zip (first :: (inner ++ [last])) =
      (0x5A#8, first) :: ((escapeBytes content).zip inner ++ [(0x5A#8, last)]) :=
    congrArg _ (List.zip_append same)
  obtain ⟨opened, collect, empty, begins⟩ : ∃ opened : Receiver, opened.state = .collect ∧ opened.bytes = [] ∧
      l.character 0x5A#8 true first = { l with receiver := opened } := by
    obtain hunt | ⟨collect, empty⟩ := opens
    · exact ⟨_, rfl, rfl, character_hunt_opened l first hunt⟩
    · exact ⟨l.receiver, collect, empty, character_collect_empty l first collect empty (.inr rfl)⟩
  obtain ⟨gap, collected⟩ := receives_escapeBytes content { l with receiver := opened } inner collect
    (by rw [empty, frameContent_length]; simpa using carried) same.symm
  have begun : content ≠ [] := List.cons_ne_nil _ _
  calc l.receives ((wireFrame kind tag body).zip (first :: (inner ++ [last])))
      = (LinkController.receives { l with receiver := opened } ((escapeBytes content).zip inner)).character 0x5A#8 true last := by
        rw [split, ← begins]
        exact receives_append _ _ _
    _ = { l with receiver := Receiver.opened }.frameEnds content := by
        rw [collected, character_collect_delimiter _ last rfl, empty]
        · rfl
        · rw [empty]; exact begun
    _ = _ := by
        rw [frameEnds_frameContent _ kind tag (by omega), store_room]
        exact room

/-- Settles O7: characters bit by bit, the level of TX, and a message through the receiver. -/
theorem wireRoundTrip : Obligations.WireRoundTrip := by
  unfold Obligations.WireRoundTrip
  refine ⟨fun b => rfl, readCharacter_bits, fun levels => readCharacter_none, fun s => ⟨txLevel_none s, fun n => ⟨?high, ?bit⟩⟩,
    ⟨rfl, rfl, rfl, rfl⟩, fun l kind tag body gaps carried room opens length =>
      receives_wireFrame l kind tag carried room opens length⟩
  case high =>
    unfold State.txLevel
    rintro (held | silent)
    · rw [held]
    · rw [silent]
      cases s.pins.resetLow <;> rfl
  case bit =>
    intro f before b after k running sending wire within place
    have level : s.txLevel (some n) = f.bits.getD n true := by
      unfold State.txLevel
      rw [running, sending]
    have bit := characters_bit before b after within
    rw [← wire, ← place] at bit
    rw [level, ← bit, List.getD_eq_getElem?_getD]
    obtain ⟨x, standsAt⟩ : ∃ x, (characterBits b)[k]? = some x := ⟨_, List.getElem?_eq_getElem (by simpa using within)⟩
    rw [← bit] at standsAt
    exact (congrArg (fun y => some (y.getD true)) standsAt).trans standsAt.symm

end Sys2Proof.Machine
end

section
/-! Replies, reports and jobs: the reply slot and the waiting requests (R177, R178), the arbiter's choice (R183 to R185), the
job table (R179, R180) and the frame boundaries (R184). -/

namespace Sys2Proof.Machine

/-! ## The job table (R179, R180) -/

theorem freeJob_some {l : LinkController} {j : JobId} (chosen : l.freeJob = some j) :
    l.jobs[j] = .free ∧ ∀ k : JobId, k < j → l.jobs[k] ≠ .free := by
  obtain ⟨free, n, bound, stands, before⟩ := List.find?_eq_some_iff_getElem.1 chosen
  rw [List.getElem_finRange] at stands
  refine ⟨by simpa using free, fun k lower => ?_⟩
  have place : n = j.val := by rw [← stands]; rfl
  have taken := before k.val (place ▸ lower)
  rw [List.getElem_finRange] at taken
  simpa using taken

theorem freeJob_none {l : LinkController} (none : l.freeJob = none) (j : JobId) : l.jobs[j] ≠ .free := by
  have taken := List.find?_eq_none.1 none j (List.mem_finRange j)
  simpa using taken

theorem endJob_running {l : LinkController} {j : JobId} {info : JobInfo} (x : JobResult) (d : List Byte)
    (running : l.jobs[j] = .running info) : l.endJob j x d =
      LinkController.raise { l with jobs := l.jobs.set j.val (.doneUnsent info) j.isLt } (.jobDone j)
        (.jobDone j info x d l.timeBase) := by
  unfold LinkController.endJob
  rw [running]

theorem endJob_notRunning {l : LinkController} {j : JobId} (x : JobResult) (d : List Byte)
    (ended : ∀ info, l.jobs[j] ≠ .running info) : l.endJob j x d = l := by
  unfold LinkController.endJob
  split
  · rename_i info running
    exact absurd running (ended info)
  · rfl

/-- Settles O11: the choice is the first FREE entry, and the end of a job writes its entry and raises JOB_DONE. -/
theorem jobTable : Obligations.JobTable := by
  unfold Obligations.JobTable
  refine ⟨fun l j chosen => ?_, fun l => freeJob_none, fun l j info x d running => ?_, fun l j x d => endJob_notRunning x d⟩
  · obtain ⟨free, lower⟩ := freeJob_some chosen
    exact ⟨free, lower, fun info => Vector.getElem_set_self _⟩
  · rw [endJob_running x d running, LinkController.report_raise_same]
    exact ⟨Vector.getElem_set_self _, rfl, rfl⟩

/-! ## The arbiter's choice of a report (R181, R183) -/

/-- The place of the first entry of a class in the report table. -/
def classStart (cls : Nat) : Nat := [0, 1, 2, 16, 30, 32, 40, 49, 50].getD cls 50

/-- An entry stands in its class at its source number (R181). -/
theorem ReportId.index_eq (i : ReportId) : i.cls ≤ 7 ∧ i.index.val = classStart i.cls + i.source ∧
    i.index.val < classStart (i.cls + 1) := by
  cases i with
  | start | doorStale | clipMissed | linkFault => decide
  | view screen => cases screen <;> decide
  | cameraState c | soilState c => revert c; decide
  | jobDone j => revert j; decide
  | clipReady k => revert k; decide

theorem classStart_mono {a b : Nat} (le : a ≤ b) (bound : b ≤ 7) : classStart a ≤ classStart b := by
  have steps : ∀ b : Fin 8, ∀ a : Fin 8, a ≤ b → classStart a ≤ classStart b := by decide
  exact steps ⟨b, by omega⟩ ⟨a, by omega⟩ le

/-- The order of the table is by class, then by source. -/
theorem ReportId.order_of_index {i j : ReportId} (le : i.index.val ≤ j.index.val) :
    i.cls < j.cls ∨ (i.cls = j.cls ∧ i.source ≤ j.source) := by
  obtain ⟨ib, istart, ienc⟩ := i.index_eq
  obtain ⟨jb, jstart, jenc⟩ := j.index_eq
  obtain before | same | behind := Nat.lt_trichotomy i.cls j.cls
  · exact .inl before
  · rw [same] at istart
    exact .inr ⟨same, by omega⟩
  · have := classStart_mono (a := j.cls + 1) (b := i.cls) behind ib
    omega

theorem nextReport_some {l : LinkController} {i : ReportId} (next : l.nextReport = some i) :
    (l.report i).pending = true ∧ l.masked.getLsbD i.cls = false ∧
    ∀ j : ReportId, (l.report j).pending = true → l.masked.getLsbD j.cls = false →
      i.cls < j.cls ∨ (i.cls = j.cls ∧ i.source ≤ j.source) := by
  obtain ⟨sendable, n, bound, stands, before⟩ := List.find?_eq_some_iff_getElem.1 next
  obtain ⟨pending, unmasked⟩ := Bool.and_eq_true_iff.1 sendable
  refine ⟨pending, by simpa [LinkController.isMasked] using unmasked, fun j waits free => ReportId.order_of_index ?_⟩
  have place : n = i.index.val := by
    have atIndex := i.all_index
    have atN := List.getElem?_eq_getElem bound
    have distinct : ReportId.all.Nodup := by decide
    rw [stands, ← atIndex] at atN
    exact (List.getElem?_inj bound distinct).1 atN
  by_contra later
  obtain ⟨inside, atJ⟩ := List.getElem?_eq_some_iff.1 j.all_index
  have passed := before j.index.val (by omega)
  rw [atJ] at passed
  simp [waits, LinkController.isMasked, free] at passed

theorem nextReport_none {l : LinkController} (none : l.nextReport = none) (j : ReportId) :
    (l.report j).pending = false ∨ l.masked.getLsbD j.cls = true := by
  have passed := List.find?_eq_none.1 none j (List.mem_of_getElem? j.all_index)
  cases pending : (l.report j).pending with
  | false => exact .inl rfl
  | true => exact .inr (by simpa [pending, LinkController.isMasked] using passed)

/-! ## The blocks offered to the arbiter (R163, R168) -/

theorem offered_half0 {e : ExportEngine} {b : Block} (full : e.half0 = .full b)
    (lower : ∀ x, e.half1 = .full x → b.sequence < x.sequence) : e.offered = some b ∧
    (e.takeOffered b) = ⟨e.job.map fun r => if r.phase = .waiting then { r with phase := .reading, stall := none } else r,
      .sending b, e.half1⟩ := by
  constructor
  · unfold ExportEngine.offered
    rw [full]
    cases other : e.half1 with
    | full x => exact if_pos (lower x other)
    | _ => rfl
  · unfold ExportEngine.takeOffered
    rw [full]
    simp [Half.fullBlock, Half.taken]

theorem offered_half1 {e : ExportEngine} {b : Block} (full : e.half1 = .full b)
    (lower : ∀ x, e.half0 = .full x → b.sequence < x.sequence) : e.offered = some b ∧
    (e.takeOffered b) = ⟨e.job.map fun r => if r.phase = .waiting then { r with phase := .reading, stall := none } else r,
      e.half0, .sending b⟩ := by
  have notFirst : e.half0.fullBlock ≠ some b := by
    intro same
    cases other : e.half0 with
    | full x =>
      rw [other] at same
      cases same
      exact absurd (lower b other) (lt_irrefl _)
    | _ => rw [other] at same; cases same
  constructor
  · unfold ExportEngine.offered
    rw [full]
    cases other : e.half0 with
    | full x => exact if_neg (lower x other).not_gt
    | _ => rfl
  · unfold ExportEngine.takeOffered
    rw [if_neg notFirst, full]
    rfl

theorem offered_none {e : ExportEngine} (none : ∀ b, e.half0 ≠ .full b ∧ e.half1 ≠ .full b) : e.offered = .none := by
  have empty {h : Half} (notFull : ∀ b, h ≠ .full b) : h.fullBlock = .none := by
    cases h with
    | full b => exact absurd rfl (notFull b)
    | _ => rfl
  unfold ExportEngine.offered
  rw [empty fun b => (none b).1, empty fun b => (none b).2]

/-! ## Decision points (R184, R185) -/

variable {s : State}

/-- Without a reply and a sendable report the arbiter turns to the EXPORT engine. -/
theorem sendIfDue_export (idle : s.link.tx = none) (ready : s.pins.ready = true) (noReply : s.link.reply = none)
    (noReport : s.link.nextReport = none) : s.sendIfDue =
      match s.exporter.job, s.exporter.offered with
      | some r, some b => (s.setLink { s.link with tx := some ⟨.data, 0x60#8, 0, dataBody r.clip b⟩ }).setExporter
          (s.exporter.takeOffered b)
      | _, _ => s := by
  unfold State.sendIfDue
  dsimp only
  rw [idle, ready, noReply, noReport]
  rfl

theorem sendIfDue_nothing (idle : s.link.tx = none) (ready : s.pins.ready = true) (noReply : s.link.reply = none)
    (noReport : s.link.nextReport = none)
    (noBlock : s.exporter.job = none ∨ ∀ b, s.exporter.half0 ≠ .full b ∧ s.exporter.half1 ≠ .full b) : s.sendIfDue = s := by
  rw [sendIfDue_export idle ready noReply noReport]
  obtain none | none := noBlock
  · rw [none]
  · rw [offered_none none]
    cases s.exporter.job <;> rfl

theorem exec_rdyRise (running : s.pins.resetLow = false) :
    exec .rdyRise s = .next (s.setPins { s.pins with ready := true }).settle :=
  congrArg _ (if_neg (Bool.eq_false_iff.1 running))

/-- The reply that leaves the reply slot lets the head of the waiting requests be decoded. -/
theorem settle_reply {r : Reply} {q : Request} {rest : List Request} (idle : s.link.tx = none) (ready : s.pins.ready = true)
    (waits : s.link.reply = some r) (notAsked : s.link.resetAsked = false) (queued : s.link.buffers = q :: rest) :
    s.settle = (s.setLink { s.link with
      reply := none, tx := some ⟨.reply r.ofReset, r.kind, r.tag, r.body⟩, buffers := rest }).decode q := by
  have held : s.decodeIfDue = s := decodeIfDue_held (.inr (.inl (Option.isSome_of_eq_some waits)))
  unfold State.settle
  rw [held, sendIfDue_reply idle ready waits]
  exact decodeIfDue_taken (s := s.setLink _) rfl notAsked queued

/-! ## A request decoded at its arrival (R177) -/

theorem requestArrives_stored {r : Request} (carried : r.body.length ≤ 1040) :
    s.requestArrives r = s.setLink (s.link.store r) :=
  congrArg s.setLink (if_neg carried.not_gt)

theorem requestArrives_decodes {r : Request} (takes : s.TakesRequest) (carried : r.body.length ≤ 1040) :
    (s.requestArrives r).decodeIfDue = s.decode r := by
  have buffers : s.link.buffers = [] := takes.noneWaiting
  have empty : s = s.setLink { s.link with buffers := [] } := by
    rw [← buffers]
    rfl
  have stored : s.requestArrives r = s.setLink { s.link with buffers := [r] } := by
    rw [requestArrives_stored carried, store_room _ (by rw [buffers]; decide), buffers, List.nil_append]
  have decoded : (s.setLink { s.link with buffers := [r] }).decodeIfDue = (s.setLink { s.link with buffers := [] }).decode r :=
    decodeIfDue_taken (rest := []) takes.noReply takes.noReset rfl
  rw [stored, decoded, ← empty]

/-- A request that is taken at its arrival is decoded, and its reply sent if a frame can begin. -/
theorem request_decodes (code tag : Byte) {body : List Byte} (takes : s.TakesRequest) (carried : body.length ≤ 1040) :
    s.request code tag body = .next (s.decode ⟨code, tag, body⟩).sendIfDue := by
  rw [State.request, event_running _ takes.running, State.settle, requestArrives_decodes takes carried, decodeIfDue_empty]
  rw [sendIfDue_buffers, decode_buffers, takes.noneWaiting]

/-- A decoding leaves the transmitter and the pins as they stand. -/
theorem decode_keeps (r : Request) : (s.decode r).link.tx = s.link.tx ∧ (s.decode r).pins = s.pins := by
  obtain ⟨t, a, ofReset, decoded, rfl | ⟨kind, known, rfl⟩⟩ := decode_eq s r
  · rw [decoded]
    exact ⟨rfl, rfl⟩
  · have kept := (Keeps.refl (p := fun _ => False) s).serve kind r.tag r.body (fun _ _ => id)
    rw [decoded]
    exact ⟨kept.tx, kept.pins⟩

/-- Settles O10. -/
theorem arbiter : Obligations.Arbiter := by
  unfold Obligations.Arbiter
  refine ⟨fun l => ⟨fun i => nextReport_some, nextReport_none⟩, fun s running quiet => ?rise, fun s => ⟨sendIfDue_noSend,
    fun idle ready => ⟨fun r => sendIfDue_reply idle ready, fun i => sendIfDue_report idle ready, ?data,
      sendIfDue_nothing idle ready⟩⟩, fun s r q rest running idle waits notAsked queued => ?emptied,
    fun s k tag body takes carried stuck => ?arrives⟩
  case rise =>
    rw [exec_rdyRise running, settle_quiet]
    exact quiet.imp id .inl
  case data =>
    intro r b noReply noReport job started taking
    have sends := sendIfDue_export idle ready noReply noReport
    constructor
    · intro full lower
      obtain ⟨offered, taken⟩ := offered_half0 full lower
      rw [sends, job, offered]
      dsimp only
      rw [taken, job]
      rfl
    · intro full lower
      obtain ⟨offered, taken⟩ := offered_half1 full lower
      rw [sends, job, offered]
      dsimp only
      rw [taken, job]
      rfl
  case emptied =>
    rw [exec_rdyRise running]
    exact congrArg _ (settle_reply (s := s.setPins { s.pins with ready := true }) idle rfl waits notAsked queued)
  case arrives =>
    obtain ⟨tx, pins⟩ := decode_keeps (s := s) ⟨kindCode k, tag, body⟩
    rw [exec_requestOfKind, request_decodes _ _ takes carried, sendIfDue_noSend]
    rw [tx, pins]
    exact stuck

/-! ## Frame boundaries (R168, R180, R184) -/

theorem freeSent_done {l : LinkController} {j : JobId} {info : JobInfo} (done : l.jobs[j] = .doneUnsent info) :
    l.freeSent (.jobDone j) = { l with jobs := l.jobs.set j.val .free j.isLt } := by
  unfold LinkController.freeSent
  dsimp only
  rw [done]

theorem freeSent_other {l : LinkController} {i : ReportId} (other : ∀ j, i ≠ .jobDone j) : l.freeSent i = l := by
  cases i with
  | jobDone j => exact absurd rfl (other j)
  | _ => rfl

/-- What a boundary makes of the state before the end of its event, by what was sent. -/
theorem frameBoundary_none (x : Straps) (idle : s.link.tx = none) : s.frameBoundary x = s := by
  unfold State.frameBoundary
  rw [idle]

theorem frameBoundary_reply (x : Straps) {f : TxFrame} (sending : s.link.tx = some f) (what : f.what = .reply false) :
    s.frameBoundary x = s.setLink { s.link with tx := none } := by
  unfold State.frameBoundary
  rw [sending]
  dsimp only
  rw [what]

theorem frameBoundary_report (x : Straps) {f : TxFrame} {i : ReportId} (sending : s.link.tx = some f)
    (what : f.what = .report i) :
    s.frameBoundary x = s.setLink (LinkController.freeSent { s.link with tx := none } i) := by
  unfold State.frameBoundary
  rw [sending]
  dsimp only
  rw [what]
  rfl

theorem frameBoundary_data (x : Straps) {f : TxFrame} (sending : s.link.tx = some f) (what : f.what = .data) :
    s.frameBoundary x = (s.setLink { s.link with tx := none }).transmissionEnds := by
  unfold State.frameBoundary
  rw [sending]
  dsimp only
  rw [what]

/-- A boundary while RDY is low and no waiting request can be decoded is the end of the frame alone. -/
theorem exec_frameBoundary_low {t : State} (x : Straps) (running : s.pins.resetLow = false) (ends : s.frameBoundary x = t)
    (low : t.pins.ready = false) (quiet : t.link.buffers = [] ∨ t.link.reply.isSome = true ∨ t.link.resetAsked = true) :
    exec (.frameBoundary x) s = .next t := by
  change s.event (s.frameBoundary x) = _
  rw [event_running _ running, ends, settle_quiet, sendIfDue_noSend (.inr low)]
  exact quiet.imp id fun rest => rest.symm.imp id fun occupied => ⟨occupied, .inr low⟩

/-- A boundary while RDY is high is followed by what RDY_RISE gives. -/
theorem exec_frameBoundary_high {t : State} (x : Straps) (running : s.pins.resetLow = false) (ends : s.frameBoundary x = t)
    (pins : t.pins = s.pins) (high : s.pins.ready = true) : exec (.frameBoundary x) s = exec .rdyRise t := by
  change s.event (s.frameBoundary x) = _
  have raised : t.setPins { t.pins with ready := true } = t := by
    rw [← pins] at high
    rw [← high]
    rfl
  rw [event_running _ running, ends, exec_rdyRise (by rw [pins, running]), raised]

/-- Settles O12: what the boundary makes of the state, by what was sent, then the end of its event. -/
theorem frameBoundary : Obligations.FrameBoundary := by
  unfold Obligations.FrameBoundary
  refine ⟨fun s x running low quiet => ⟨fun idle => ?_, fun f sending what => ?_, fun f j info sending what done => ?_,
    fun f i sending what other => ?_, fun f sending what => ?_⟩, fun s x f running high sending => ?_⟩
  · exact exec_frameBoundary_low x running (frameBoundary_none x idle) low quiet
  · exact exec_frameBoundary_low x running (frameBoundary_reply x sending what) low quiet
  · exact exec_frameBoundary_low x running
      ((frameBoundary_report x sending what).trans (congrArg s.setLink (freeSent_done done))) low quiet
  · exact exec_frameBoundary_low x running
      ((frameBoundary_report x sending what).trans (congrArg s.setLink (freeSent_other other))) low quiet
  · have kept := (Keeps.refl (p := fun _ => True) (s.setLink { s.link with tx := none })).transmissionEnds
    refine exec_frameBoundary_low x running (frameBoundary_data x sending what) (by rw [kept.pins]; exact low) ?_
    have asked : _ = s.link.resetAsked := kept.same .resetAsked trivial
    rw [kept.buffers, kept.reply, asked]
    exact quiet
  · intro idle
    refine ⟨fun what => ?_, fun j info what done => ?_, fun i what other => ?_, fun what => ?_⟩
    · exact exec_frameBoundary_high x running (frameBoundary_reply x sending what) rfl high
    · exact exec_frameBoundary_high x running
        ((frameBoundary_report x sending what).trans (congrArg s.setLink (freeSent_done done))) rfl high
    · exact exec_frameBoundary_high x running
        ((frameBoundary_report x sending what).trans (congrArg s.setLink (freeSent_other other))) rfl high
    · exact exec_frameBoundary_high x running (frameBoundary_data x sending what)
        (Keeps.refl (p := fun _ => False) idle).transmissionEnds.pins high

end Sys2Proof.Machine
end

section
/-! Requests and their replies (R177, R178), the lengths of request bodies (R193, section 11.3), and the settings of the link
(R183, R186, R188). -/

namespace Sys2Proof.Machine

/-! ## The reply slot and the buffers (R177, R178) -/

variable {s : State}

/-- A request that arrives while none can be decoded and no frame can begin is stored, or lost. -/
theorem exec_requestOfKind_waits {k : RequestKind} {tag : Byte} {body : List Byte} (running : s.pins.resetLow = false)
    (carried : body.length ≤ 1040) (waits : s.link.reply.isSome = true ∨ s.link.resetAsked = true)
    (stuck : s.link.tx.isSome = true ∨ s.pins.ready = false) :
    exec (requestOfKind k tag body) s = .next (s.setLink (s.link.store ⟨kindCode k, tag, body⟩)) := by
  obtain ⟨asked, reply, tx⟩ := store_keeps s.link ⟨kindCode k, tag, body⟩
  have stored : (s.setLink (s.link.store ⟨kindCode k, tag, body⟩)).link.tx.isSome = true ∨ s.pins.ready = false := by
    rw [State.setLink_link, tx]
    exact stuck
  rw [exec_requestOfKind, State.request, event_running _ running, requestArrives_stored carried, settle_quiet,
    sendIfDue_noSend stored]
  rw [State.setLink_link, asked, reply]
  obtain occupied | asked := waits
  · exact .inr (.inr ⟨occupied, stored⟩)
  · exact .inr (.inl asked)

theorem place_answer (k : RequestKind) (tag : Byte) {a : Answer} (ofReset : Bool) (known : a ≠ .unknownKind) :
    s.place ⟨kindCode k, tag, []⟩ a ofReset = s.setLink
      { s.link with reply := some ⟨kindCode k + 0x80#8, tag, a.bytes, ofReset⟩ } := by
  unfold State.place replyKind
  rw [if_neg known]

theorem replied_stuck {k : RequestKind} {tag : Byte} {a : Answer} (known : a ≠ .unknownKind)
    (stuck : s.link.tx.isSome = true ∨ s.pins.ready = false) : s.replied k tag a = s.setLink
      { s.link with reply := some ⟨kindCode k + 0x80#8, tag, a.bytes, k == .reset⟩ } := by
  rw [State.replied, place_answer k tag _ known]
  exact sendIfDue_noSend stuck

theorem replied_sent {k : RequestKind} {tag : Byte} {a : Answer} (known : a ≠ .unknownKind) (noReply : s.link.reply = none)
    (idle : s.link.tx = none) (ready : s.pins.ready = true) : s.replied k tag a = s.setLink
      { s.link with tx := some ⟨.reply (k == .reset), kindCode k + 0x80#8, tag, a.bytes⟩ } := by
  rw [State.replied, place_answer k tag _ known]
  refine (sendIfDue_reply (s := s.setLink { s.link with reply := some _ }) idle ready rfl).trans ?_
  rw [← noReply]
  rfl

theorem decode_unlisted {r : Request} (unlisted : kindOfCode r.kind = none) :
    s.decode r = s.place r .unknownKind false := by
  unfold State.decode
  rw [unlisted]

theorem decode_badLength {k : RequestKind} {tag : Byte} {body : List Byte} (illegal : legalLength k body = false) :
    s.decode ⟨kindCode k, tag, body⟩ = s.place ⟨kindCode k, tag, body⟩ .badLength false := by
  unfold State.decode
  dsimp only
  rw [kindOfCode_kindCode]
  dsimp only
  rw [illegal]
  rfl

/-! ## Kinds and lengths (R193, section 11.3) -/

theorem kindOfCode_eq_some {k : RequestKind} {code : Byte} : kindOfCode code = some k ↔ kindCode k = code := by
  constructor
  · intro listed
    simpa using List.find?_some listed
  · rintro rfl
    exact kindOfCode_kindCode k

theorem legalLength_fixed {k : RequestKind} {n : Nat} (fixed : fixedLength k = some n) (body : List Byte) :
    legalLength k body = true ↔ body.length = n := by
  unfold legalLength
  rw [fixed]
  exact beq_iff_eq

theorem listThen_iff {body : List Byte} {more : Nat} :
    listThen body more = true ↔ ∃ count rest, body = count :: rest ∧ rest.length = count.toNat + more := by
  cases body with
  | nil => simp [listThen]
  | cons count rest => simp [listThen]

/-- A tile record on the link: the ten bytes before its label count, and its label. -/
def tileBytes (t : List Byte × List Byte) : List Byte := t.1 ++ byteOf t.2.length :: t.2

theorem exists_ten_of_length {l : List Byte} (ten : l.length = 10) :
    ∃ a b c d e f g h i j, l = [a, b, c, d, e, f, g, h, i, j] := by
  match l, ten with
  | [a, b, c, d, e, f, g, h, i, j], _ => exact ⟨a, b, c, d, e, f, g, h, i, j, rfl⟩

@[simp] theorem byteOf_ofToNat (b : Byte) : byteOf b.toNat = b := by simp [byteOf]

/-- The records of a body are read exactly when they use up its bytes. -/
theorem readTiles_isSome {n : Nat} {bytes : List Byte} : (readTiles n bytes).isSome = true ↔
    ∃ tiles : List (List Byte × List Byte), tiles.length = n ∧ (∀ t ∈ tiles, t.1.length = 10 ∧ t.2.length < 256) ∧
      bytes = tiles.flatMap tileBytes := by
  induction n generalizing bytes with
  | zero =>
    constructor
    · intro read
      cases bytes with
      | nil => exact ⟨[], rfl, by simp, rfl⟩
      | cons b bytes => simp [readTiles] at read
    · rintro ⟨tiles, none, _, rfl⟩
      rw [List.length_eq_zero_iff.1 none]
      rfl
  | succ n ih =>
    constructor
    · intro read
      match bytes with
      | x1 :: x0 :: y1 :: y0 :: w1 :: w0 :: h1 :: h0 :: source :: alternate :: count :: rest =>
        unfold readTiles at read
        split at read
        · next fits =>
          rw [Option.isSome_map] at read
          obtain ⟨tiles, length, shaped, left⟩ := ih.1 read
          have label : (rest.take count.toNat).length = count.toNat := by rw [List.length_take]; omega
          refine ⟨([x1, x0, y1, y0, w1, w0, h1, h0, source, alternate], rest.take count.toNat) :: tiles, by simp [length],
            ?_, ?_⟩
          · intro t mem
            obtain rfl | mem := List.mem_cons.1 mem
            · exact ⟨rfl, label.trans_lt count.isLt⟩
            · exact shaped t mem
          · rw [List.flatMap_cons, ← left, tileBytes, label, byteOf_ofToNat]
            simp
        · cases read
    · rintro ⟨tiles, length, shaped, rfl⟩
      match tiles, length with
      | t :: tiles, length =>
        obtain ⟨ten, short⟩ := shaped t List.mem_cons_self
        obtain ⟨head, label⟩ := t
        obtain ⟨a, b, c, d, e, f, g, h, i, j, rfl⟩ := exists_ten_of_length ten
        have count : (byteOf label.length).toNat = label.length := (byteOf_toNat _).trans (Nat.mod_eq_of_lt short)
        have left : (readTiles n (tiles.flatMap tileBytes)).isSome = true :=
          ih.2 ⟨tiles, by simpa using length, fun t mem => shaped t (List.mem_cons_of_mem _ mem), rfl⟩
        have spelled : ((([a, b, c, d, e, f, g, h, i, j], label) :: tiles).flatMap tileBytes) =
            a :: b :: c :: d :: e :: f :: g :: h :: i :: j :: byteOf label.length :: (label ++ tiles.flatMap tileBytes) := by
          simp [tileBytes]
        rw [spelled, readTiles, if_pos (by rw [count]; simp), Option.isSome_map, count, List.drop_left]
        exact left

theorem legalLength_layoutWrite {body : List Byte} : legalLength .layoutWrite body = true ↔
    ∃ (layout : Byte) (tiles : List (List Byte × List Byte)), tiles.length < 256 ∧
      (∀ t ∈ tiles, t.1.length = 10 ∧ t.2.length < 256) ∧ body = layout :: byteOf tiles.length :: tiles.flatMap tileBytes := by
  constructor
  · intro legal
    match body with
    | layout :: count :: rest =>
      obtain ⟨tiles, length, shaped, spelled⟩ := readTiles_isSome.1 legal
      refine ⟨layout, tiles, length ▸ count.isLt, shaped, ?_⟩
      rw [length, byteOf_ofToNat, spelled]
  · rintro ⟨layout, tiles, few, shaped, rfl⟩
    have count : (byteOf tiles.length).toNat = tiles.length := (byteOf_toNat _).trans (Nat.mod_eq_of_lt few)
    exact readTiles_isSome.2 ⟨tiles, count.symm, shaped, rfl⟩

/-- Settles O8. -/
theorem requestsAndReplies : Obligations.RequestsAndReplies := by
  unfold Obligations.RequestsAndReplies
  refine ⟨⟨fun s k tag body running carried waits stuck => ⟨fun room => ?_, fun full => ?_⟩,
    fun s k tag a noReply known => ⟨replied_stuck known, replied_sent known noReply⟩⟩,
    fun s tag body takes carried => ⟨fun kind unlisted => ?_, fun k illegal => ?_⟩, fun k code => kindOfCode_eq_some,
    fun k code length listed => ?_, rfl, rfl, rfl, rfl,
    fun body => ⟨fun k listed => ?_, listThen_iff, legalLength_layoutWrite⟩⟩
  · rw [exec_requestOfKind_waits running carried waits stuck, store_room _ room]
  · rw [exec_requestOfKind_waits running carried waits stuck, store_full _ full]
  · refine (request_decodes kind tag takes carried).trans ?_
    rw [decode_unlisted unlisted]
    rfl
  · rw [exec_requestOfKind, request_decodes _ tag takes carried, decode_badLength illegal]
    rfl
  · have listedLengths : kindCode k = code ∧ fixedLength k = some length := by
      refine (?_ : ∀ e ∈ _, kindCode e.1 = e.2.1 ∧ fixedLength e.1 = some e.2.2) _ listed
      decide
    exact ⟨listedLengths.1, legalLength_fixed listedLengths.2⟩
  · obtain rfl | rfl := listed <;> exact listThen_iff

end Sys2Proof.Machine
end

section
/-! The settings of the link: REPORT_MASK (R183), TIME_SET (R186) and RESET (R188). -/

namespace Sys2Proof.Machine

/-! ## Sets and tests -/

/-- The bits of a carried set are its members in order (R191). -/
theorem setBits_testBit (members : List Bool) (n : Nat) : (setBits members).testBit n = members.getD n false := by
  induction members generalizing n with
  | nil => simp [setBits]
  | cons b rest ih =>
    have unfolds : setBits (b :: rest) = b.toNat + 2 * setBits rest := rfl
    have low : b.toNat < 2 := Bool.toNat_lt b
    cases n with
    | zero =>
      rw [unfolds, Nat.testBit_zero, List.getD_cons_zero]
      cases b <;> simp
    | succ n =>
      have half : (b.toNat + 2 * setBits rest) / 2 = setBits rest := by omega
      rw [unfolds, Nat.testBit_succ, half, ih, List.getD_cons_succ]

/-- Of tests in order the first that fails is named. -/
theorem firstBad_append {before after : List (Nat × Bool)} {f : Nat} (passed : ∀ p ∈ before, p.2 = false) :
    firstBad (before ++ (f, true) :: after) = some f := by
  have skips : before.find? (·.2) = none := List.find?_eq_none.2 fun p mem => by simp [passed p mem]
  rw [firstBad, List.find?_append, skips]
  rfl

theorem firstBad_none {tests : List (Nat × Bool)} (passed : ∀ p ∈ tests, p.2 = false) : firstBad tests = none := by
  rw [firstBad, List.find?_eq_none.2 fun p mem => by simp [passed p mem]]
  rfl

/-! ## REPORT_MASK (R183) -/

theorem maskable_iff {n : Nat} : maskable n = true ↔ n ∈ [1, 2, 3, 4, 6, 7] := by
  simp [maskable]
  omega

theorem classSet_bit (classes : List Nat) {n : Nat} (small : n < 8) :
    (classSet classes).getLsbD n = true ↔ n ∈ classes := by
  have bit : (classSet classes).getLsbD n = classes.contains n := by
    rw [classSet, byteOf, BitVec.getLsbD_ofNat, setBits_testBit]
    simp [small]
  rw [bit, List.contains_iff_mem]

/-- The items of a list carried with its count (R191). -/
theorem listItems_counted {items : List Byte} (few : items.length < 256) :
    listItems (byteOf items.length :: items) = items.map (·.toNat) := by
  have count : field1 (byteOf items.length :: items) 0 = items.length := (byteOf_toNat _).trans (Nat.mod_eq_of_lt few)
  rw [listItems, count, List.drop_one, List.tail_cons, List.take_length]

/-- The tests of a REPORT_MASK: the count, then each class at its place. -/
def maskTests (classes : List Byte) : List (Nat × Bool) :=
  (0, decide (6 < classes.length)) :: (classes.map (·.toNat)).zipIdx.map fun p => (p.2 + 1, !maskable p.1)

theorem serveReportMask_eq (s : State) (tag : Byte) {classes : List Byte} (few : classes.length < 256) :
    serveReportMask s tag (byteOf classes.length :: classes) =
      match firstBad (maskTests classes) with
      | some f => (s, .badField f)
      | none => (s.setLink { s.link with masked := classSet (classes.map (·.toNat)) }, .ok []) := by
  have count : field1 (byteOf classes.length :: classes) 0 = classes.length :=
    (byteOf_toNat _).trans (Nat.mod_eq_of_lt few)
  unfold serveReportMask
  rw [listItems_counted few, count]
  rfl

theorem maskTests_pass {classes : List Byte} (few : classes.length ≤ 6)
    (allowed : ∀ b ∈ classes, b.toNat ∈ [1, 2, 3, 4, 6, 7]) : ∀ p ∈ maskTests classes, p.2 = false := by
  intro p mem
  obtain rfl | mem := List.mem_cons.1 mem
  · simpa using few
  · obtain ⟨⟨n, i⟩, place, rfl⟩ := List.mem_map.1 mem
    obtain ⟨b, listed, rfl⟩ := List.mem_map.1 (List.fst_mem_of_mem_zipIdx place)
    simp only [maskable_iff.2 (allowed b listed), Bool.not_true]

theorem maskTests_append (classes rest : List Byte) (b : Byte) : ∃ after,
    maskTests (classes ++ b :: rest) = ((0, decide (6 < (classes ++ b :: rest).length)) ::
      (classes.map (·.toNat)).zipIdx.map fun p => (p.2 + 1, !maskable p.1)) ++ (classes.length + 1, !maskable b.toNat) :: after := by
  simp [maskTests, List.zipIdx_append]

theorem exec_reportMask {s t : State} {tag : Byte} {classes : List Byte} {a : Answer} (takes : s.TakesRequest)
    (few : classes.length < 256) (served : serveReportMask s tag (byteOf classes.length :: classes) = (t, a)) :
    exec (.reportMask tag (byteOf classes.length :: classes)) s = .next (t.replied .reportMask tag a) := by
  have count : (byteOf classes.length).toNat = classes.length := (byteOf_toNat _).trans (Nat.mod_eq_of_lt few)
  exact exec_requestOfKind_served (kind := .reportMask) takes (by simp; omega)
    (listThen_iff.2 ⟨_, _, rfl, count.symm⟩) served

theorem toNat_append_byte {n : Nat} (x : BitVec n) (b : Byte) : (x ++ b).toNat = x.toNat * 256 + b.toNat := by
  rw [BitVec.toNat_append, ← Nat.shiftLeft_add_eq_or_of_lt b.isLt, Nat.shiftLeft_eq]

/-- The four bytes of a number, high byte first, are its word. -/
theorem field4_word (b3 b2 b1 b0 : Byte) : BitVec.ofNat 32 (field4 [b3, b2, b1, b0] 0) = b3 ++ b2 ++ b1 ++ b0 := by
  have value : field4 [b3, b2, b1, b0] 0 = ((b3.toNat * 256 + b2.toNat) * 256 + b1.toNat) * 256 + b0.toNat := by
    simp only [field4, nat4, nat2, List.getD_cons_zero, List.getD_cons_succ]
    omega
  refine BitVec.eq_of_toNat_eq ?_
  rw [BitVec.toNat_ofNat, value, toNat_append_byte, toNat_append_byte, toNat_append_byte]
  omega

/-- Settles O14: each request as the link controller serves it. -/
theorem linkSettings : Obligations.LinkSettings := by
  unfold Obligations.LinkSettings
  refine fun s tag takes => ⟨fun classes few allowed => ?_, fun classes many few => ?_,
    fun classes rest b few allowed refused => ?_, fun b3 b2 b1 b0 => ?_, ?_⟩
  · refine ⟨classSet (classes.map (·.toNat)), fun n small => ?_, exec_reportMask takes (by omega) ?_⟩
    · rw [classSet_bit _ small, List.mem_map]
      constructor
      · rintro ⟨b, listed, rfl⟩
        rwa [byteOf_ofToNat]
      · intro listed
        exact ⟨_, listed, (byteOf_toNat n).trans (Nat.mod_eq_of_lt (by omega))⟩
    · rw [serveReportMask_eq s tag (by omega), firstBad_none (maskTests_pass few allowed)]
  · refine exec_reportMask takes few ?_
    have bad : firstBad (maskTests classes) = some 0 := by
      rw [maskTests, decide_eq_true many]
      rfl
    rw [serveReportMask_eq s tag few, bad]
  · have length : classes.length + 1 + rest.length = (classes ++ b :: rest).length := by simp; omega
    rw [length]
    refine exec_reportMask takes (by omega) ?_
    obtain ⟨after, tests⟩ := maskTests_append classes rest b
    have notMaskable : maskable b.toNat = false := Bool.eq_false_iff.2 fun allowed => refused (maskable_iff.1 allowed)
    have bad : firstBad (maskTests (classes ++ b :: rest)) = some (classes.length + 1) := by
      rw [tests, notMaskable]
      refine firstBad_append fun p mem => ?_
      obtain rfl | mem := List.mem_cons.1 mem
      · exact decide_eq_false (by omega)
      · exact maskTests_pass (by omega) allowed p (List.mem_cons_of_mem _ mem)
    rw [serveReportMask_eq s tag (by omega), bad]
  · rw [← field4_word]
    exact exec_requestOfKind_served (kind := .timeSet) takes (by simp) rfl rfl
  · exact exec_requestOfKind_served (kind := .reset) takes (by simp) rfl rfl

end Sys2Proof.Machine
end

section
/-! The resets (R188, R189) with the first output frame start of each screen in their event (R83, log 8). -/

namespace Sys2Proof.Machine

/-- The tile of an UNCONFIGURED screen of the reset setup, which shows no camera (R89). -/
def ResolvedTile.unconfigured : ResolvedTile :=
  { rect := ⟨0, 0, 1280, 800⟩, full := ⟨0, 0, 1280, 800⟩, label := [], shown := none, alternate := false, slot := none,
    captureTime := none, markers := { Markers.none with unconfigured := true }, overflow := 0 }

/-- The screen record after its first output frame start: that tile drawn, no slot pinned (R83). -/
def ScreenRecord.firstFrame : ScreenRecord :=
  { ScreenRecord.reset with
    frameCount := 1, tiles := [ResolvedTile.unconfigured], period := { ends := 33, rate := 30, place := 0 } }

/-- A tile list without slots pins none. -/
theorem pinnedSlots_nil {tiles : List ResolvedTile} (none : ∀ t ∈ tiles, t.slot = none) : pinnedSlots tiles = [] := by
  refine List.filter_eq_nil_iff.2 fun i _ => ?_
  simp only [List.any_eq_true, not_exists, not_and, beq_iff_eq]
  intro t mem
  rw [none t mem]
  exact nofun

/-- The first output frame start of a screen after a reset selects UNCONFIGURED and draws its tile; VIEW is not raised, the view
being the one after reset (R80, R83, R88). -/
theorem startOutputFrame_first {s : State} (i : ScreenId) (screen : s.screen i = ScreenRecord.reset)
    (cab : s.doors.cab = .none) (elapsed : s.elapsed = 0) (now : s.now = 0) :
    s.startOutputFrame i true = s.setScreen i ScreenRecord.firstFrame := by
  let counted := s.setScreen i { ScreenRecord.reset with frameCount := 1 }
  have record : counted.screen i = { ScreenRecord.reset with frameCount := 1 } := s.setScreen_screen i _
  have view : counted.selectView i = ⟨.unconfigured, none, none⟩ := by
    have inactive : counted.doors.activeScreen = none := by
      unfold DoorUnit.activeScreen
      rw [State.setScreen_doors, cab]
    unfold State.selectView
    dsimp only
    rw [record, inactive]
    rfl
  have built : counted.builtTiles i ⟨.unconfigured, none, none⟩ = [⟨⟨0, 0, 1280, 800⟩, .blank, none, [],
      { Markers.none with unconfigured := true }, 0⟩] := by
    unfold State.builtTiles
    dsimp only
    rw [record]
    rfl
  have resolved : counted.resolveTiles i [⟨⟨0, 0, 1280, 800⟩, .blank, none, [],
      { Markers.none with unconfigured := true }, 0⟩] = (counted, [ResolvedTile.unconfigured]) := by
    unfold State.resolveTiles State.resolveTile
    dsimp only
    rw [record]
    rfl
  unfold State.startOutputFrame
  dsimp only
  rw [screen]
  have start : s.setScreen i { ScreenRecord.reset with frameCount := ScreenRecord.reset.frameCount + 1 } = counted := rfl
  have pinned : pinnedSlots [ResolvedTile.unconfigured] = [] := pinnedSlots_nil (by simp [ResolvedTile.unconfigured])
  have clock : counted.now = 0 ∧ counted.elapsed = 0 := by cases i <;> exact ⟨now, elapsed⟩
  rw [start, view, built, resolved]
  dsimp only
  rw [record, pinned, clock.1, clock.2]
  refine (if_pos rfl).trans ?_
  cases i <;> rfl

/-- A reset is every block at its values after reset and a first output frame on each screen. -/
theorem makeReset_eq (s : State) (cause : ResetCause) (rate : LinkRate) : s.makeReset cause rate =
    ((s.atReset cause rate).setScreen .a ScreenRecord.firstFrame).setScreen .b ScreenRecord.firstFrame := by
  unfold State.makeReset
  rw [startOutputFrame_first .a rfl rfl rfl rfl, startOutputFrame_first .b rfl rfl rfl rfl]

/-! ## START after a reset (R181, R189) -/

theorem raisedStart_eq (before : ReportEntry) (cause : ResetCause) (rate : LinkRate) :
    raisedStart before cause rate = startAfter before cause rate := by
  cases cause <;> cases pending : before.pending <;>
    simp [raisedStart, startAfter, ReportEntry.raised, ReportEntry.reset, saturate, pending]

theorem makeReset_report_start (s : State) (cause : ResetCause) (rate : LinkRate) :
    (s.makeReset cause rate).link.report .start = startAfter (s.link.report .start) cause rate := by
  rw [makeReset_eq, ← raisedStart_eq]
  exact LinkController.report_setReport_same _ .start _

theorem makeReset_report_other (s : State) (cause : ResetCause) (rate : LinkRate) {i : ReportId} (other : i ≠ .start) :
    (s.makeReset cause rate).link.report i = ReportEntry.reset := by
  rw [makeReset_eq]
  exact (LinkController.report_setReport_ne _ _ other).trans (report_reset rate other)

/-- After a reset START is the next report. -/
theorem makeReset_nextReport (s : State) (cause : ResetCause) (rate : LinkRate) :
    (s.makeReset cause rate).link.nextReport = some .start := by
  have pending : ((s.makeReset cause rate).link.report .start).pending = true := by
    rw [makeReset_report_start]
    rfl
  have unmasked : (s.makeReset cause rate).link.isMasked 0 = false := by
    rw [makeReset_eq]
    exact (by decide : (0 : Byte).getLsbD 0 = false)
  unfold LinkController.nextReport
  exact List.find?_cons_of_pos (by rw [pending]; exact congrArg Bool.not unmasked)

/-! ## The state after a reset -/

/-- What stands after a reset whether START has left or not. -/
theorem afterReset_of {s t : State} {cause : ResetCause} {rate : LinkRate} {pins : Pins} {reports : Vector ReportEntry 50}
    {tx : Option TxFrame} (from_ : t = ((s.makeReset cause rate).setLink
      { (s.makeReset cause rate).link with reports := reports, tx := tx }))
    (arePins : s.pins = pins) (others : ∀ i : ReportId, i ≠ .start → t.link.report i = ReportEntry.reset)
    (waits : pins.ready = false ∨ pins.resetLow = true →
      t.link.tx = none ∧ t.link.report .start = startAfter (s.link.report .start) cause rate)
    (leaves : pins.ready = true → pins.resetLow = false → t.link.tx = some ⟨.report .start, 0x40#8, 0,
      reportBody .start (startAfter (s.link.report .start) cause rate)⟩) : State.AfterReset s t cause rate pins := by
  subst from_
  rw [makeReset_eq] at *
  exact
    { pending := rfl, pixels := rfl, pinsAre := arePins, elapsed := rfl, slots := rfl, cameras := rfl, controls := rfl,
      doors := rfl, layouts := rfl, soil := rfl, clips := rfl, exporter := rfl, split := fun i => by cases i <;> rfl,
      screen := fun i => by cases i <;> exact ⟨rfl, rfl, rfl, rfl, rfl, rfl, rfl⟩,
      link := ⟨rfl, rfl, rfl, rfl, rfl, fun j => Vector.getElem_ofFn j.isLt, rfl, rfl, rfl⟩,
      reports := others, startWaits := waits, startLeaves := leaves }

/-- The report that the arbiter sends changes the report table and the transmitter alone. -/
theorem sendIfDue_start {m : State} (idle : m.link.tx = none) (ready : m.pins.ready = true) (noReply : m.link.reply = none)
    (next : m.link.nextReport = some .start) : m.sendIfDue = m.setLink { m.link with
      reports := (m.link.setReport .start (m.link.report .start).cleared).reports,
      tx := some ⟨.report .start, 0x40#8, 0, reportBody .start (m.link.report .start)⟩ } :=
  sendIfDue_report idle ready noReply next

theorem sendIfDue_start_tx {m : State} (idle : m.link.tx = none) (ready : m.pins.ready = true) (noReply : m.link.reply = none)
    (next : m.link.nextReport = some .start) :
    m.sendIfDue.link.tx = some ⟨.report .start, 0x40#8, 0, reportBody .start (m.link.report .start)⟩ := by
  rw [sendIfDue_start idle ready noReply next]
  rfl

/-- A state right after a reset of one state is so of another with its queue, its pixel bytes and its START. -/
theorem afterReset_congr {s r t : State} {cause : ResetCause} {rate : LinkRate} {pins : Pins}
    (h : State.AfterReset r t cause rate pins) (pending : r.pending = s.pending) (pixels : r.pixels = s.pixels)
    (start : r.link.report .start = s.link.report .start) : State.AfterReset s t cause rate pins :=
  { h with
    pending := h.pending.trans pending
    pixels := h.pixels.trans pixels
    startWaits := by rw [← start]; exact h.startWaits
    startLeaves := by rw [← start]; exact h.startLeaves }

/-- A reset whose event has no end leaves START to be sent. -/
theorem makeReset_afterReset (s : State) (cause : ResetCause) (rate : LinkRate)
    (stuck : s.pins.ready = false ∨ s.pins.resetLow = true) : State.AfterReset s (s.makeReset cause rate) cause rate s.pins := by
  have silent : (s.makeReset cause rate).link.tx = none := by rw [makeReset_eq]; rfl
  have unchanged (m : State) : m = m.setLink { m.link with reports := m.link.reports, tx := m.link.tx } := rfl
  refine afterReset_of (unchanged _) rfl
    (fun i => makeReset_report_other s cause rate) (fun _ => ⟨silent, makeReset_report_start s cause rate⟩)
    (fun ready running => ?_)
  rw [ready, running] at stuck
  exact absurd stuck (by decide)

/-- A reset whose event ends sends START where RDY is high. -/
theorem makeReset_settle_afterReset (s : State) (cause : ResetCause) (rate : LinkRate) (running : s.pins.resetLow = false) :
    State.AfterReset s (s.makeReset cause rate).settle cause rate s.pins := by
  have noneWaiting : (s.makeReset cause rate).link.buffers = [] := by rw [makeReset_eq]; rfl
  have silent : (s.makeReset cause rate).link.tx = none := by rw [makeReset_eq]; rfl
  have noReply : (s.makeReset cause rate).link.reply = none := by rw [makeReset_eq]; rfl
  have pins : (s.makeReset cause rate).pins = s.pins := by rw [makeReset_eq]; rfl
  rw [settle_unasked noneWaiting]
  cases ready : s.pins.ready with
  | false =>
    rw [sendIfDue_noSend (.inr (by rw [pins, ready]))]
    exact makeReset_afterReset s cause rate (.inl ready)
  | true =>
    have sent := sendIfDue_start silent (by rw [pins, ready]) noReply (makeReset_nextReport s cause rate)
    refine afterReset_of sent rfl (fun i other => ?_) (fun stuck => ?_) (fun _ _ => ?_)
    · rw [sent]
      exact (LinkController.report_setReport_ne _ _ other).trans (makeReset_report_other s cause rate other)
    · rw [ready, running] at stuck
      exact absurd stuck (by decide)
    · rw [sendIfDue_start_tx silent (by rw [pins, ready]) noReply (makeReset_nextReport s cause rate),
        makeReset_report_start]

/-- Settles O3: each of the three resets is one of these. -/
theorem resetsRestore : Obligations.ResetsRestore := by
  unfold Obligations.ResetsRestore
  refine fun s x => ⟨?powerOn, fun held => ?resetLine, fun running f sending what => ?request⟩
  case powerOn =>
    cases held : s.pins.resetLow with
    | true =>
      exact ⟨_, congrArg Host.Outcome.next (if_pos held), makeReset_afterReset s .powerOn (rateOf x) (.inr held)⟩
    | false =>
      exact ⟨_, congrArg Host.Outcome.next (if_neg (Bool.eq_false_iff.1 held)),
        makeReset_settle_afterReset s .powerOn (rateOf x) held⟩
  case resetLine =>
    have after := makeReset_settle_afterReset (s.setResetLow false) .resetLine (rateOf x) rfl
    exact ⟨_, congrArg Host.Outcome.next (if_pos held), afterReset_congr after rfl rfl rfl⟩
  case request =>
    have after := makeReset_settle_afterReset (s.setLink { s.link with tx := none }) .resetRequest (rateOf x) running
    have ends : s.frameBoundary x = (s.setLink { s.link with tx := none }).makeReset .resetRequest (rateOf x) := by
      unfold State.frameBoundary
      rw [sending]
      dsimp only
      rw [what]
    refine ⟨_, event_running _ running, ?_⟩
    rw [ends]
    exact afterReset_congr after rfl rfl rfl

end Sys2Proof.Machine
end

section
/-! The requests of the slot manager (spec/01): what each gives by the state of the ring and of the slot it is made on. -/

namespace Sys2Proof.Machine

namespace SlotManager

variable {m : SlotManager} {c : Cam}

theorem setRing_setSlot (m : SlotManager) (c : Cam) (x : Option Ring) (i : SlotNo) (y : SlotRecord) :
    (m.setRing c x).setSlot i y = (m.setSlot i y).setRing c x := rfl

theorem joinBlank_eq {i : SlotNo} {r : Ring} (ring : m.ring c = some r) : m.joinBlank c i =
    (m.setSlot i ⟨.blank c, ⟨false, false, false⟩⟩).setRing c (some { r with blank := r.blank ++ [i] }) := by
  unfold joinBlank
  dsimp only
  rw [ring_setSlot, ring]
  rfl

/-! ## Discards and takes (R8, R9) -/

theorem discard_noRing (none : m.ring c = none) : m.discard c = m := by
  unfold discard
  rw [none]

theorem discard_notFilling {r : Ring} (ring : m.ring c = some r) (none : r.filling = none) : m.discard c = m := by
  unfold discard
  rw [ring]
  dsimp only
  rw [none]

theorem discard_filled {r : Ring} {i : SlotNo} (ring : m.ring c = some r) (filling : r.filling = some i) :
    m.discard c = (m.setSlot i ⟨.blank c, ⟨false, false, false⟩⟩).setRing c
      (some { ready := r.ready, blank := r.blank ++ [i], filling := none }) := by
  unfold discard
  rw [ring]
  dsimp only
  rw [filling]
  dsimp only
  rw [joinBlank_eq (ring_setRing m c _), setRing_setSlot, setRing_setRing]

theorem take_noRing (f : FrameFields) (absent : m.ring c = none) : m.take c f = (m, none) := by
  unfold take
  dsimp only
  rw [discard_noRing absent, absent]

theorem take_blank {f : FrameFields} {r : Ring} {i : SlotNo} {rest : List SlotNo} (ring : (m.discard c).ring c = some r)
    (blank : r.blank = i :: rest) : m.take c f =
      (((m.discard c).setSlot i ⟨.filling c f, ⟨false, false, false⟩⟩).setRing c
        (some { ready := r.ready, blank := rest, filling := some i }), some i) := by
  unfold take
  dsimp only
  rw [ring]
  dsimp only
  rw [blank]
  rfl

/-- A take from a ring without BLANK slots is the choice of a READY slot. -/
theorem take_ready {f : FrameFields} {r : Ring} (ring : (m.discard c).ring c = some r) (blank : r.blank = []) :
    m.take c f = match r.ready.dropLast.find? (m.discard c).takeable with
      | some i => (((m.discard c).setSlot i ⟨.filling c f, ⟨false, false, false⟩⟩).setRing c
          (some { ready := r.ready.erase i, blank := [], filling := some i }), some i)
      | none => (m.discard c, none) := by
  unfold take
  dsimp only
  rw [ring]
  dsimp only
  rw [blank]
  rfl

theorem takeable_iff (i : SlotNo) : m.takeable i = true ↔ ¬(0 < (m.slot i).holders.count ∨ m.claimOf i ≠ none) := by
  unfold takeable
  rw [Bool.and_eq_true, beq_iff_eq, Option.isNone_iff_eq_none, not_or, not_not, Nat.pos_iff_ne_zero, not_not]

/-- The oldest READY slot before the newest that a take may choose. -/
theorem find_takeable {older newer : List SlotNo} {i : SlotNo} (behind : newer ≠ []) (passed : ∀ j ∈ older, ¬ m.takeable j)
    (chosen : m.takeable i = true) : (older ++ i :: newer).dropLast.find? m.takeable = some i ∧
    (older ++ i :: newer).erase i = older ++ newer := by
  have absent : i ∉ older := fun mem => passed i mem chosen
  constructor
  · rw [List.dropLast_append_of_ne_nil (List.cons_ne_nil i newer), List.dropLast_cons_of_ne_nil behind, List.find?_append,
      List.find?_eq_none.2 passed, List.find?_cons_of_pos chosen]
    rfl
  · rw [List.erase_append_right _ absent, List.erase_cons_head]

/-! ## Pins (R10, R12) -/

theorem newest_eq {r : Ring} (ring : m.ring c = some r) : m.newest c = r.ready.getLast? := newest_of_ring ring

theorem pinNewest_none {x : Reader} (absent : m.newest c = none) : m.pinNewest c x = (m, none) := by
  unfold pinNewest
  rw [absent]

theorem pinNewest_some {x : Reader} {i : SlotNo} (newest : m.newest c = some i) :
    m.pinNewest c x = (m.setSlot i ⟨(m.slot i).place, (m.slot i).holders.set x true⟩, some i) := by
  unfold pinNewest
  rw [newest]

theorem unpin_notHeld {i : SlotNo} {x : Reader} (free : (m.slot i).holders.has x = false) : m.unpin i x = m :=
  if_neg (Bool.eq_false_iff.1 free)

/-- The manager with a reader's pin removed from a slot. -/
def unpinned (m : SlotManager) (i : SlotNo) (x : Reader) : SlotManager :=
  m.setSlot i ⟨(m.slot i).place, (m.slot i).holders.set x false⟩

theorem unpin_held {i : SlotNo} {x : Reader} (held : (m.slot i).holders.has x = true) : m.unpin i x =
    match (m.slot i).place with
    | .retiring _ _ => if ((m.slot i).holders.set x false).count = 0 then (m.unpinned i x).giveBack i else m.unpinned i x
    | _ => m.unpinned i x := by
  unfold unpin
  rw [if_pos held]
  dsimp only
  rw [slot_setSlot]
  rfl

end SlotManager

theorem Holders.has_set (h : Holders) (x y : Reader) (v : Bool) : (h.set x v).has y = if y = x then v else h.has y := by
  cases x <;> cases y <;> rfl

theorem Holders.count_le (h : Holders) : h.count ≤ 3 := by
  have a := Bool.toNat_lt h.screenA
  have b := Bool.toNat_lt h.screenB
  have e := Bool.toNat_lt h.engine
  unfold Holders.count
  omega

theorem Holders.count_set_true {h : Holders} {x : Reader} (free : h.has x = false) : (h.set x true).count = h.count + 1 := by
  cases x <;> simp only [Holders.has] at free <;> simp [Holders.set, Holders.count, free] <;> omega

theorem Holders.set_true {h : Holders} {x : Reader} (held : h.has x = true) : h.set x true = h := by
  obtain ⟨a, b, e⟩ := h
  cases x <;> simp only [Holders.has] at held <;> rw [held] <;> rfl

theorem Holders.count_set_false {h : Holders} {x : Reader} (held : h.has x = true) : (h.set x false).count + 1 = h.count := by
  cases x <;> simp only [Holders.has] at held <;> simp [Holders.set, Holders.count, held] <;> omega

open SlotManager in
/-- Settles O15. -/
theorem discardAndTake : Obligations.DiscardAndTake := by
  unfold Obligations.DiscardAndTake
  refine ⟨fun m c => ⟨discard_noRing, fun r => discard_notFilling, fun r i => discard_filled⟩, ?_⟩
  intro m c f n busy filled
  refine ⟨take_noRing f, fun r i rest => take_blank, fun r older i newer ring blank ready behind passed chosen => ?_,
    fun r ring blank passed => ?_⟩
  · obtain ⟨found, erased⟩ := find_takeable (m := n) behind (fun j mem => (takeable_iff j).not.2 (not_not_intro (passed j mem)))
      ((takeable_iff i).2 chosen)
    rw [take_ready ring blank, ready, found]
    dsimp only
    rw [erased]
  · have none : r.ready.dropLast.find? n.takeable = none :=
      List.find?_eq_none.2 fun j mem => (takeable_iff j).not.2 (not_not_intro (passed j mem))
    rw [take_ready ring blank, none]

open SlotManager in
/-- Settles O16. -/
theorem pins : Obligations.Pins := by
  unfold Obligations.Pins
  refine ⟨fun m c x => ⟨fun none => ?_, fun r ring none => ?_, fun r older i ring ready => ?_⟩,
    fun m i x => ⟨unpin_notHeld, fun held inPlace => ?_, fun c f held retiring => ?_⟩,
    fun h x y v => ⟨h.has_set x y v, h.count_le, Holders.count_set_true, Holders.set_true⟩⟩
  · exact pinNewest_none (by rw [newest, none])
  · exact pinNewest_none (by rw [newest_eq ring, none]; rfl)
  · exact pinNewest_some (by rw [newest_eq ring, ready, List.getLast?_concat])
  · rw [unpin_held held]
    split
    · next c f place => exact absurd place (inPlace c f)
    · rfl
  · have one : ((m.slot i).holders.set x false).count = 0 ↔ (m.slot i).holders.count = 1 := by
      have := Holders.count_set_false held
      omega
    have unpins := unpin_held held
    rw [retiring] at unpins
    simp only [one] at unpins
    exact unpins

end Sys2Proof.Machine
end

section
/-! Rings established, claims, publications, releases and dissolutions (spec/01): each operation on the ring and the slot it is
made on. -/

namespace Sys2Proof.Machine

namespace SlotManager

variable {m : SlotManager} {c : Cam}

/-! ## The making of a ring (R7) -/

/-- Slots that join a ring one after another stand behind its BLANK slots, and nothing else changes. -/
theorem joinAll_eq (l : List SlotNo) : ∀ {m : SlotManager} {r : Ring}, m.ring c = some r →
    let n := l.foldl (fun m i => m.joinBlank c i) m
    n.ring c = some { r with blank := r.blank ++ l } ∧ (∀ d, d ≠ c → n.ring d = m.ring d) ∧ n.deficit = m.deficit ∧
    n.freePool = m.freePool ∧ (∀ i ∈ l, n.slot i = ⟨.blank c, ⟨false, false, false⟩⟩) ∧ ∀ i, i ∉ l → n.slot i = m.slot i := by
  induction l with
  | nil =>
    intro m r ring
    refine ⟨?_, fun _ _ => rfl, rfl, rfl, fun i mem => absurd mem List.not_mem_nil, fun _ _ => rfl⟩
    rw [List.append_nil]
    exact ring
  | cons j rest ih =>
    intro m r ring
    have joined := joinBlank_eq (i := j) ring
    obtain ⟨ringC, rings, deficit, pool, slots, others⟩ := ih (m := m.joinBlank c j) (r := { r with blank := r.blank ++ [j] })
      (by rw [joined, ring_setRing])
    have slot (i : SlotNo) : (m.joinBlank c j).slot i = if i = j then ⟨.blank c, ⟨false, false, false⟩⟩ else m.slot i := by
      rw [joined, slot_setRing]
      split
      · next same => rw [same, slot_setSlot]
      · next other => rw [slot_setSlot_ne _ _ _ _ other]
    refine ⟨?_, fun d other => ?_, ?_, ?_, fun i mem => ?_, fun i absent => ?_⟩
    · rw [List.foldl_cons, ringC, List.append_assoc]
      rfl
    · rw [List.foldl_cons, rings d other, joined, ring_setRing_ne _ _ _ _ other, ring_setSlot]
    · rw [List.foldl_cons, deficit, joined]
      rfl
    · rw [List.foldl_cons, pool, joined]
      rfl
    · by_cases behind : i ∈ rest
      · exact slots i behind
      · obtain rfl | behind' := List.mem_cons.1 mem
        · rw [List.foldl_cons, others i behind, slot, if_pos rfl]
        · exact absurd behind' behind
    · obtain ⟨other, behind⟩ := not_or.1 (List.mem_cons.not.1 absent)
      rw [List.foldl_cons, others i behind, slot, if_neg other]

theorem establish_ring {r : Ring} (depth : Nat) (ring : m.ring c = some r) : m.establish c depth = some m := by
  unfold establish
  rw [ring]

theorem establish_noSlots {depth : Nat} (absent : m.ring c = none) (short : m.freePool.length < depth) :
    m.establish c depth = none := by
  unfold establish
  rw [absent]
  exact if_neg short.not_ge

theorem establish_slots {depth : Nat} (absent : m.ring c = none) (enough : depth ≤ m.freePool.length) :
    m.establish c depth = some ((m.freePool.take depth).foldl (fun m i => m.joinBlank c i)
      ({ m with freePool := m.freePool.drop depth }.setRing c (some { ready := [], blank := [], filling := none }))) := by
  unfold establish
  rw [absent]
  exact if_pos enough

/-! ## Claims (R13 to R15) -/

theorem setSlot_setSlot (m : SlotManager) (i : SlotNo) (x y : SlotRecord) : (m.setSlot i x).setSlot i y = m.setSlot i y := by
  simp [setSlot]

theorem setPlace_setPlace (m : SlotManager) (i : SlotNo) (p q : Place) : (m.setPlace i p).setPlace i q = m.setPlace i q := by
  unfold setPlace
  rw [slot_setSlot, setSlot_setSlot]

/-- A claimed slot leaves its ring for its clip. -/
theorem moveOut_claimed {i : SlotNo} {d : Cam} {f : FrameFields} {k : ClipId} {r : Ring}
    (place : (m.slot i).place = .ready d f (some k)) (ring : m.ring c = some r) : m.moveOut c i =
      (m.setPlace i (.clip d f k)).setRing c (some { r with ready := r.ready.erase i }) := by
  unfold moveOut
  rw [place]
  dsimp only
  have same : (m.setPlace i (.clip d f k)).ring c = some r := ring
  rw [same]

theorem replace_pool {j : SlotNo} {rest : List SlotNo} (pool : m.freePool = j :: rest) :
    m.replace c = { m with freePool := rest }.joinBlank c j := by
  unfold replace
  rw [pool]

theorem replace_deficit (pool : m.freePool = []) : m.replace c = { m with deficit := m.deficit ++ [c] } := by
  unfold replace
  rw [pool]

theorem claim_gone {k : ClipId} {i : SlotNo} {q : Word32}
    (other : ∀ f old, (m.slot i).place = .ready c f old → f.sequence ≠ q) : m.claim k c i q = (m, .gone) := by
  unfold claim
  split
  · next d f old place => exact if_neg fun ⟨same, named⟩ => other f old (same ▸ place) named
  · rfl

theorem claim_claimed {k other : ClipId} {i : SlotNo} {f : FrameFields}
    (place : (m.slot i).place = .ready c f (some other)) : m.claim k c i f.sequence = (m, .claimed) := by
  unfold claim
  rw [place]
  exact if_pos ⟨rfl, rfl⟩

theorem claim_hold {k : ClipId} {i : SlotNo} {f : FrameFields} (place : (m.slot i).place = .ready c f none)
    (full : m.holdLimit ≤ m.holdCount) : m.claim k c i f.sequence = (m, .hold) := by
  unfold claim
  rw [place]
  exact (if_pos ⟨rfl, rfl⟩).trans (if_neg full.not_gt)

/-- A claim that passes its tests counts, and leaves the newest slot in the ring. -/
theorem claim_granted {k : ClipId} {i : SlotNo} {f : FrameFields} (place : (m.slot i).place = .ready c f none)
    (room : m.holdCount < m.holdLimit) :
    let held := { m with holdCount := m.holdCount + 1 }.setPlace i (.ready c f (some k))
    m.claim k c i f.sequence =
      if m.newest c = some i then (held, .grantedInRing) else (held.moveIntoClip c i, .grantedMoved) := by
  unfold claim
  rw [place]
  exact (if_pos ⟨rfl, rfl⟩).trans (if_pos room)

theorem claim_moves {k : ClipId} {i : SlotNo} {f : FrameFields} {r : Ring} (place : (m.slot i).place = .ready c f none)
    (room : m.holdCount < m.holdLimit) (ring : m.ring c = some r) (notNewest : r.ready.getLast? ≠ some i) :
    m.claim k c i f.sequence = ((({ m with holdCount := m.holdCount + 1 }.setPlace i (.clip c f k)).setRing c
      (some { r with ready := r.ready.erase i })).replace c, .grantedMoved) := by
  rw [claim_granted place room, newest_eq ring, if_neg notNewest, moveIntoClip, moveOut_claimed (r := r), setPlace_setPlace]
  · rw [setPlace, slot_setSlot]
  · exact ring

/-! ## Publications (R15, R16) -/

theorem publish_noRing (absent : m.ring c = none) : m.publish c = (m, none) := by
  unfold publish
  rw [absent]

theorem publish_notFilling {r : Ring} (ring : m.ring c = some r) (none : r.filling = none) : m.publish c = (m, .none) := by
  unfold publish
  rw [ring]
  dsimp only
  rw [none]

/-- The ring of a published slot: the FILLING slot is the newest READY slot. -/
def published (m : SlotManager) (c : Cam) (r : Ring) (i : SlotNo) (f : FrameFields) : SlotManager :=
  (m.setPlace i (.ready c f none)).setRing c (some { ready := r.ready ++ [i], blank := r.blank, filling := none })

/-- A publication, then the move of the newest slot before it where that carries a claim. -/
theorem publish_filling {r : Ring} {i : SlotNo} {f : FrameFields} (ring : m.ring c = some r) (filling : r.filling = some i)
    (place : (m.slot i).place = .filling c f) : m.publish c =
      match r.ready.getLast? with
      | none => (m.published c r i f, some ⟨c, i, f.sequence, f.number, none⟩)
      | some old =>
        match (m.published c r i f).moveNotice old with
        | none => (m.published c r i f, some ⟨c, i, f.sequence, f.number, none⟩)
        | some v => ((m.published c r i f).moveIntoClip c old, some ⟨c, i, f.sequence, f.number, some v⟩) := by
  unfold publish
  rw [ring]
  dsimp only
  rw [filling]
  dsimp only
  rw [place]
  rfl

theorem moveNotice_unclaimed {i : SlotNo} (unclaimed : m.claimOf i = none) : m.moveNotice i = none := by
  unfold moveNotice
  split
  · next place =>
    unfold claimOf at unclaimed
    rw [place] at unclaimed
    cases unclaimed
  · rfl

theorem moveNotice_claimed {i : SlotNo} {d : Cam} {f : FrameFields} {k : ClipId}
    (place : (m.slot i).place = .ready d f (some k)) : m.moveNotice i = some ⟨i, d, f.sequence, k⟩ := by
  unfold moveNotice
  rw [place]

/-! ## Releases and dissolutions (R19, R20) -/

theorem releaseOne_clip {k : ClipId} {i : SlotNo} {f : FrameFields} (place : (m.slot i).place = .clip c f k) :
    m.releaseOne k i = { m with holdCount := m.holdCount - 1 }.leave i := by
  unfold releaseOne
  rw [place]
  exact if_pos rfl

theorem releaseOne_claimed {k : ClipId} {i : SlotNo} {f : FrameFields} (place : (m.slot i).place = .ready c f (some k)) :
    m.releaseOne k i = { m with holdCount := m.holdCount - 1 }.setPlace i (.ready c f none) := by
  unfold releaseOne
  rw [place]
  exact if_pos rfl

theorem releaseOne_other {k : ClipId} {i : SlotNo}
    (other : ∀ c f, (m.slot i).place ≠ .clip c f k ∧ (m.slot i).place ≠ .ready c f (some k)) : m.releaseOne k i = m := by
  unfold releaseOne
  split
  · next c f k' place => exact if_neg fun (same : k' = k) => (other c f).1 (same ▸ place)
  · next c f k' place => exact if_neg fun (same : k' = k) => (other c f).2 (same ▸ place)
  · rfl

theorem retire_clip {i : SlotNo} {f : FrameFields} {k : ClipId} (place : (m.slot i).place = .clip c f k) :
    m.retire i = m.setPlace i (.retiring c f) := by
  unfold retire
  rw [place]

/-- Slots that return or retire shorten the deficit queue from its head. -/
theorem deficit_giveBack_suffix (m : SlotManager) (i : SlotNo) : (m.giveBack i).deficit <:+ m.deficit := by
  cases deficit : m.deficit with
  | nil =>
    rw [giveBack_nil i deficit]
    exact deficit ▸ List.suffix_refl m.deficit
  | cons d rest =>
    rw [giveBack_cons i deficit]
    unfold joinBlank
    dsimp only
    split <;> exact List.suffix_cons d rest

theorem deficit_retire (m : SlotManager) (i : SlotNo) : (m.retire i).deficit = m.deficit := by
  unfold retire
  split <;> rfl

theorem deficit_leave_suffix (m : SlotManager) (i : SlotNo) : (m.leave i).deficit <:+ m.deficit := by
  unfold leave
  split
  · exact deficit_giveBack_suffix m i
  · rw [deficit_retire]

theorem deficit_foldl_suffix {f : SlotManager → SlotNo → SlotManager} (step : ∀ m i, (f m i).deficit <:+ m.deficit)
    (l : List SlotNo) : ∀ m : SlotManager, (l.foldl f m).deficit <:+ m.deficit := by
  induction l with
  | nil => exact fun m => List.suffix_refl _
  | cons i rest ih => exact fun m => (ih _).trans (step m i)

theorem holdCount_foldl {f : SlotManager → SlotNo → SlotManager} (step : ∀ m i, (f m i).holdCount = m.holdCount)
    (l : List SlotNo) : ∀ m : SlotManager, (l.foldl f m).holdCount = m.holdCount := by
  induction l with
  | nil => exact fun m => rfl
  | cons i rest ih => exact fun m => (ih _).trans (step m i)

theorem deficit_moveOut (m : SlotManager) (c : Cam) (i : SlotNo) : (m.moveOut c i).deficit = m.deficit := by
  unfold moveOut
  split
  · dsimp only
    split <;> rfl
  · rfl

/-- A dissolution leaves the hold count, and no deficit entry of its camera where it had a ring. -/
theorem dissolve_counts (m : SlotManager) (c : Cam) : (m.dissolve c).1.holdCount = m.holdCount ∧
    (m.ring c ≠ none → (m.dissolve c).1.deficitOf c = 0) := by
  unfold dissolve
  cases ring : m.ring c with
  | none => exact ⟨rfl, fun ne => absurd rfl ne⟩
  | some r =>
    dsimp only
    generalize moved : r.ready.getLast?.bind _ = notice
    let owed : SlotManager := { m with deficit := m.deficit.filter (· != c) }
    have left (n : SlotManager) (hold : n.holdCount = m.holdCount) (deficit : n.deficit = owed.deficit) (a b l : List SlotNo) :
        (l.foldl leave ((n.giveBackAll a).giveBackAll b)).holdCount = m.holdCount ∧
        (l.foldl leave ((n.giveBackAll a).giveBackAll b)).deficit.count c = 0 := by
      constructor
      · rw [holdCount_foldl holdCount_leave, giveBackAll, holdCount_foldl holdCount_giveBack, giveBackAll,
          holdCount_foldl holdCount_giveBack, hold]
      · have suffix := (deficit_foldl_suffix deficit_leave_suffix l _).trans
          ((deficit_foldl_suffix deficit_giveBack_suffix b _).trans (deficit_foldl_suffix deficit_giveBack_suffix a n))
        refine List.count_eq_zero.2 fun mem => ?_
        have entry := suffix.mem mem
        rw [deficit] at entry
        simpa using (List.mem_filter.1 entry).2
    cases notice with
    | none =>
      obtain ⟨hold, count⟩ := left owed rfl rfl r.filling.toList r.blank r.ready
      exact ⟨hold, fun _ => count⟩
    | some v =>
      obtain ⟨hold, count⟩ := left (owed.moveOut c v.slot) (holdCount_moveOut _ _ _) (deficit_moveOut _ _ _)
        r.filling.toList r.blank (r.ready.erase v.slot)
      exact ⟨hold, fun _ => count⟩

end SlotManager

open SlotManager in
/-- Settles O17. -/
theorem returnsAndRings : Obligations.ReturnsAndRings := by
  unfold Obligations.ReturnsAndRings
  refine ⟨fun m i => ⟨giveBack_nil i, fun c rest r deficit ring => ?_⟩, fun m c i r => joinBlank_eq, fun m c depth =>
    ⟨fun r => establish_ring depth, establish_noSlots, fun absent enough => ?_⟩⟩
  · rw [giveBack_cons i deficit, joinBlank_eq (m := { m with deficit := rest }) ring]
  · obtain ⟨ring, rings, deficit, pool, slots, others⟩ := joinAll_eq (m.freePool.take depth)
      (ring_setRing { m with freePool := m.freePool.drop depth } c (some { ready := [], blank := [], filling := none }))
    exact ⟨_, establish_slots absent enough, pool, ring, fun d other => (rings d other).trans (ring_setRing_ne _ _ _ _ other),
      deficit, slots, others⟩

open SlotManager in
/-- Settles O18. -/
theorem claimsAndPublications : Obligations.ClaimsAndPublications := by
  unfold Obligations.ClaimsAndPublications
  refine ⟨fun m k c i q => ⟨claim_gone, ?_⟩, fun m c => ⟨publish_noRing, fun r => publish_notFilling, ?_⟩⟩
  · rintro f rfl
    refine ⟨fun other => claim_claimed, claim_hold, fun place room r ring => ?_⟩
    intro counted moved
    refine ⟨fun newest => ?_, fun notNewest pool => ?_, fun j rest notNewest pool => ?_⟩
    · rw [claim_granted place room, newest_eq ring, if_pos newest]
    · rw [claim_moves place room ring notNewest, replace_deficit]
      · rfl
      · exact pool
    · rw [claim_moves place room ring notNewest, replace_pool (j := j) (rest := rest)]
      exact pool
  · intro r i f ring filling place n
    have published := publish_filling ring filling place
    refine ⟨fun first => ?_, fun old newest unclaimed => ?_, fun old d g k newest claimed => ?_⟩
    · rw [published, first]
      rfl
    · have told : (m.published c r i f).moveNotice old = none := moveNotice_unclaimed unclaimed
      rw [published, newest]
      dsimp only
      rw [told]
      rfl
    · intro moved notice
      have told : (m.published c r i f).moveNotice old = some ⟨old, d, g.sequence, k⟩ := moveNotice_claimed claimed
      have out : (m.published c r i f).moveOut c old = moved := moveOut_claimed claimed (ring_setRing _ _ _)
      rw [published, newest]
      dsimp only
      rw [told]
      dsimp only
      rw [moveIntoClip, out]
      exact ⟨fun pool => by rw [replace_deficit (m := moved) pool]; rfl, fun j rest pool => by rw [replace_pool (m := moved) pool]⟩

open SlotManager in
/-- Settles O19: entry by entry for a release; by what a dissolution gives back for the rest. -/
theorem releaseAndDissolve : Obligations.ReleaseAndDissolve := by
  unfold Obligations.ReleaseAndDissolve
  refine ⟨fun m k i => ?_, fun m c => ⟨fun absent => ?_, ring_dissolve m c, (dissolve_counts m c).2,
    (dissolve_counts m c).1, fun r accounted ring => dissolve_spec m c r accounted ring⟩⟩
  · intro fewer
    refine ⟨fun c f place free => ?_, fun c f place pinned => ?_, fun c f => releaseOne_claimed, releaseOne_other,
      fun rest => rfl⟩
    · exact (releaseOne_clip place).trans (if_pos free)
    · exact (releaseOne_clip place).trans ((if_neg pinned).trans (retire_clip (m := fewer) place))
  · unfold dissolve
    rw [absent]

end Sys2Proof.Machine
end

section
/-! The field values of request bodies (R191, R192), and the queries (R22, R26, R78, R102, R144, R160, R187). -/

namespace Sys2Proof.Machine

/-! ## Field values -/

theorem camOf_val (c : Cam) : camOf c.val = some c := dif_pos c.isLt

theorem camOf_above {n : Nat} (above : 13 < n) : camOf n = none := dif_neg (by omega)

theorem slotOf_val (i : SlotNo) : slotOf i.val = some i := dif_pos i.isLt

theorem slotOf_above {n : Nat} (above : 160 ≤ n) : slotOf n = none := dif_neg (by omega)

theorem clipOf_val (k : ClipId) : clipOf k.val = some k := dif_pos k.isLt

theorem clipOf_above {n : Nat} (above : 7 < n) : clipOf n = none := dif_neg (by omega)

theorem layoutOf_val (l : LayoutNo) : layoutOf l.val = some l := dif_pos l.isLt

theorem layoutOf_above {n : Nat} (above : 15 < n) : layoutOf n = none := dif_neg (by omega)

theorem screenOf_above {n : Nat} (above : 1 < n) : screenOf n = none := by
  unfold screenOf
  rw [if_neg (by omega), if_neg (by omega)]

@[simp] theorem field1_zero (n : Byte) (rest : List Byte) : field1 (n :: rest) 0 = n.toNat := rfl

/-! ## What each query answers -/

variable {s : State} (tag : Byte) {n : Byte}

theorem serveSlotQuery_slot {i : SlotNo} (number : n.toNat = i.val) :
    serveSlotQuery s tag [n] = (s, .ok (s.slotQuery (some i))) := by
  simp [serveSlotQuery, number, slotOf_val]

theorem serveSlotQuery_counts : serveSlotQuery s tag [0xFF#8] = (s, .ok (s.slotQuery none)) := rfl

theorem serveSlotQuery_refused (above : 160 ≤ n.toNat) (other : n ≠ 0xFF#8) :
    serveSlotQuery s tag [n] = (s, .badField 0) := by
  have other : n.toNat ≠ 255 := fun same => other (BitVec.eq_of_toNat_eq same)
  simp [serveSlotQuery, slotOf_above above, other, refuse]

theorem serveCameraQuery_camera {c : Cam} (number : n.toNat = c.val) :
    serveCameraQuery s tag [n] = (s, .ok (s.cameraQuery c)) := by
  simp [serveCameraQuery, number, camOf_val]

theorem serveCameraQuery_refused (above : 13 < n.toNat) : serveCameraQuery s tag [n] = (s, .badField 0) := by
  simp [serveCameraQuery, camOf_above above, refuse]

theorem serveSoilQuery_camera {c : Cam} (number : n.toNat = c.val) :
    serveSoilQuery s tag [n] = (s, .ok (s.soilQuery c)) := by
  simp [serveSoilQuery, number, camOf_val]

theorem serveSoilQuery_refused (above : 13 < n.toNat) : serveSoilQuery s tag [n] = (s, .badField 0) := by
  simp [serveSoilQuery, camOf_above above, refuse]

theorem serveScreenQuery_refused (above : 1 < n.toNat) : serveScreenQuery s tag [n] = (s, .badField 0) := by
  simp [serveScreenQuery, screenOf_above above, refuse]

theorem serveLayoutQuery_layout {l : LayoutNo} (number : n.toNat = l.val) :
    serveLayoutQuery s tag [n] = (s, .ok (s.layoutQuery l)) := by
  simp [serveLayoutQuery, number, layoutOf_val]

theorem serveLayoutQuery_refused (above : 15 < n.toNat) : serveLayoutQuery s tag [n] = (s, .badField 0) := by
  simp [serveLayoutQuery, layoutOf_above above, refuse]

theorem serveClipQuery_clip {k : ClipId} (number : n.toNat = k.val) :
    serveClipQuery s tag [n] = (s, .ok (s.clipQuery k)) := by
  simp [serveClipQuery, number, clipOf_val]

theorem serveClipQuery_refused (above : 7 < n.toNat) : serveClipQuery s tag [n] = (s, .badField 0) := by
  simp [serveClipQuery, clipOf_above above, refuse]

/-! ## The bytes of the replies -/

theorem camByte_eq (c : Option Cam) : camByte c = [match c with | none => 0xFF#8 | some c => byteOf c.val] := by
  cases c <;> rfl

theorem layoutByte_eq (l : Option LayoutNo) :
    layoutByte l = [match l with | none => 0xFF#8 | some l => byteOf l.val] := by
  cases l <;> rfl

theorem doorRecord_bytes (r : DoorMapRecord) :
    byte1 r.side.ctorIdx ++ byte1 r.rank ++ camByte r.camera ++ camByte r.alternate =
      [match r.side with | .left => 0x00#8 | .right => 0x01#8, byteOf r.rank,
       match r.camera with | none => 0xFF#8 | some c => byteOf c.val,
       match r.alternate with | none => 0xFF#8 | some c => byteOf c.val] := by
  rw [camByte_eq, camByte_eq]
  cases r.side <;> rfl

theorem TileSource.code_eq (x : TileSource) : x.code =
    match x with | .camera c => byteOf c.val | .front => 0x40#8 | .rear => 0x41#8 | .blank => 0x42#8 := by
  cases x <;> rfl

theorem TileRecord.bytes_eq (t : TileRecord) : t.bytes =
    bytes2 t.rect.x ++ bytes2 t.rect.y ++ bytes2 t.rect.w ++ bytes2 t.rect.h ++
      [match t.source with | .camera c => byteOf c.val | .front => 0x40#8 | .rear => 0x41#8 | .blank => 0x42#8,
       match t.alternate with | none => 0xFF#8 | some c => byteOf c.val, byteOf t.label.length] ++ t.label := by
  unfold TileRecord.bytes listOf
  rw [camByte_eq, TileSource.code_eq, List.flatMap_singleton']
  simp

/-- The set of screens that hold a value, screen A in the least significant bit (R191). -/
theorem set1_holders (a b x : Option LayoutNo) :
    set1 [a == x, b == x] = [byteOf ((if a = x then 1 else 0) + (if b = x then 2 else 0))] := by
  rw [beq_eq_decide, beq_eq_decide]
  by_cases first : a = x <;> by_cases second : b = x <;> simp [set1, setBits, first, second]

theorem SlotManager.ringSize_some {m : SlotManager} {c : Cam} {r : Ring} (ring : m.ring c = some r) :
    m.ringSize c = r.ready.length + r.blank.length + (if r.filling = none then 0 else 1) := by
  unfold SlotManager.ringSize
  rw [ring]
  dsimp only
  cases r.filling <;> rfl

theorem SlotManager.ringSize_none {m : SlotManager} {c : Cam} (ring : m.ring c = none) : m.ringSize c = 0 := by
  unfold SlotManager.ringSize
  rw [ring]

theorem ScreenSetup.bytes_length (c : ScreenSetup) : (flag1 c.enable ++ bytes2 c.width ++ bytes2 c.height ++ byte1 c.rate ++
    bytes2 c.holdOver ++ bytes2 c.freezeLimit ++ layoutByte c.fallback ++ flag1 c.showReleased).length = 12 := by
  rw [layoutByte_eq]
  simp [flag1, byte1, bytes2_length]

theorem soilEngine_length (e : Option Examination) :
    (flag1 e.isSome ++ camByte (e.map (·.camera)) ++ present4 (e.map (·.sequence))).length = 7 := by
  cases e <;> rfl

theorem linkQuery_form (l : LinkController) : l.linkQuery = l.jobs.toList.flatMap JobEntry.bytes ++
    (l.reports.toList.flatMap fun e => [byteOf e.pending.toNat, byteOf e.count]) ++ [l.masked] ++
     bytes2 l.faults.format ++ bytes2 l.faults.crc ++ bytes2 l.faults.length ++ bytes2 l.faults.oversize ++
     bytes2 l.faults.gap ++ bytes2 l.faults.overrun ++ [byteOf l.buffers.length] ++ bytes4 l.timeBase.toNat := by
  simp [LinkController.linkQuery, FaultTotals.bytes, flag1, byte1, word4]

theorem State.slotQuery_form (s : State) (named : Option SlotNo) : s.slotQuery named =
    [byteOf s.slots.freePool.length] ++
      ((List.finRange 14).flatMap fun c : Cam =>
        [byteOf (s.slots.ring c).isSome.toNat, byteOf (s.cam c).setup.depth, byteOf (s.slots.ringSize c),
         byteOf (s.slots.deficit.count c)]) ++
      [byteOf s.slots.retiringCount, byteOf s.slots.holdCount, byteOf s.slots.holdLimit] ++
      match named with
      | none => []
      | some i => s.slots.slotBytes i := by
  simp only [State.slotQuery, byte1, flag1, List.append_assoc, List.cons_append, List.nil_append]
  rfl

theorem SlotManager.slotBytes_number (m : SlotManager) (i : SlotNo) : ∃ more, m.slotBytes i = byteOf i.val :: more :=
  ⟨_, by simp only [SlotManager.slotBytes, byte1, List.append_assoc, List.cons_append, List.nil_append]; rfl⟩

theorem exists_middle {begins whole : List Byte} (within : begins <+: whole) (generation : List Byte) (size deficit : Nat) :
    ∃ middle, whole ++ generation ++ byte1 size ++ byte1 deficit =
      begins ++ middle ++ generation ++ [byteOf size, byteOf deficit] := by
  obtain ⟨middle, rfl⟩ := within
  exact ⟨middle, by simp [byte1]⟩

theorem State.cameraQuery_form (s : State) (c : Cam) : ∃ middle, s.cameraQuery c =
    bytes2 (s.cam c).setup.width ++ bytes2 (s.cam c).setup.height ++
      [byteOf (s.cam c).setup.rate, byteOf (s.cam c).setup.depth] ++ bytes2 (s.cam c).setup.frameTimeout ++
      bytes2 (s.cam c).setup.recoveryInterval ++ middle ++ bytes2 (s.cam c).generation.toNat ++
      [byteOf (s.slots.ringSize c), byteOf (s.slots.deficit.count c)] := by
  unfold State.cameraQuery
  refine exists_middle ?_ _ _ _
  simp only [List.append_assoc, byte1, List.cons_append, List.nil_append, List.prefix_append_right_inj,
    List.cons_prefix_cons, List.prefix_append, and_self]

theorem State.doorQuery_form (s : State) : ∃ table, s.doorQuery =
    (s.doors.map.toList.flatMap fun r => [match r.side with | .left => 0x00#8 | .right => 0x01#8, byteOf r.rank,
      match r.camera with | none => 0xFF#8 | some c => byteOf c.val,
      match r.alternate with | none => 0xFF#8 | some c => byteOf c.val]) ++
    [match s.doors.endA with | none => 0xFF#8 | some c => byteOf c.val,
     match s.doors.endB with | none => 0xFF#8 | some c => byteOf c.val] ++ table := by
  have records := List.flatMap_congr (l := s.doors.map.toList) fun r _ => doorRecord_bytes r
  unfold State.doorQuery
  dsimp only
  rw [records, camByte_eq, camByte_eq]
  exact ⟨_, by simp only [List.append_assoc]; rfl⟩

theorem State.screenQuery_form (s : State) (i : ScreenId) : ∃ more, s.screenQuery i =
    (flag1 (s.screen i).setup.enable ++ bytes2 (s.screen i).setup.width ++ bytes2 (s.screen i).setup.height ++
      byte1 (s.screen i).setup.rate ++ bytes2 (s.screen i).setup.holdOver ++ bytes2 (s.screen i).setup.freezeLimit ++
      layoutByte (s.screen i).setup.fallback ++ flag1 (s.screen i).setup.showReleased) ++
    (match (s.screen i).requested with | none => 0xFF#8 | some l => byteOf l.val) ::
    (match (s.screen i).forced with | none => 0xFF#8 | some l => byteOf l.val) :: more := by
  unfold State.screenQuery ScreenRecord.bytes
  rw [layoutByte_eq (s.screen i).requested, layoutByte_eq (s.screen i).forced]
  exact ⟨_, by simp only [List.append_assoc]; rfl⟩

theorem State.layoutQuery_form (s : State) (l : LayoutNo) : s.layoutQuery l =
    byteOf s.layouts[l].length :: (s.layouts[l].flatMap TileRecord.bytes ++
      [byteOf ((if (s.screen .a).requested = some l then 1 else 0) + (if (s.screen .b).requested = some l then 2 else 0)),
       byteOf ((if (s.screen .a).forced = some l then 1 else 0) + (if (s.screen .b).forced = some l then 2 else 0)),
       byteOf ((if (s.screen .a).setup.fallback = some l then 1 else 0) +
         (if (s.screen .b).setup.fallback = some l then 2 else 0))]) := by
  unfold State.layoutQuery listOf
  dsimp only
  rw [set1_holders, set1_holders, set1_holders]
  simp only [List.append_assoc, List.cons_append, List.nil_append]
  rfl

theorem State.soilQuery_form (s : State) (c : Cam) : ∃ middle, s.soilQuery c = byteOf (s.soilOf c).watch.toNat :: (middle ++
    [byteOf s.soil.tuning.window, byteOf s.soil.tuning.learn, byteOf s.soil.tuning.ratio, byteOf s.soil.tuning.zones,
     byteOf s.soil.tuning.confirm, byteOf s.soil.tuning.cleanRun, byteOf s.soil.tuning.trial] ++
    (flag1 s.soil.engine.isSome ++ camByte (s.soil.engine.map (·.camera)) ++ present4 (s.soil.engine.map (·.sequence)))) := by
  have watch : ∃ middle, (s.soilOf c).bytes = byteOf (s.soilOf c).watch.toNat :: middle := by
    unfold SoilRecord.bytes
    exact ⟨_, by simp only [List.append_assoc]; rfl⟩
  obtain ⟨middle, watch⟩ := watch
  refine ⟨middle, ?_⟩
  unfold State.soilQuery
  dsimp only
  rw [watch]
  simp only [Tuning.bytes, byte1, List.append_assoc, List.cons_append, List.nil_append]

theorem State.clipQuery_form (s : State) (k : ClipId) : s.clipQuery k = byteOf k.val ::
    ((match s.clip k with | none => [0x00#8] | some clip => clip.bytes) ++ s.clips.map.obstruction.bytes ++
      s.clips.map.doorFault.bytes ++ s.clips.map.soiled.bytes ++ bytes2 s.clips.missed ++
      [byteOf s.slots.holdCount, byteOf s.slots.holdLimit]) := by
  unfold State.clipQuery
  simp only [byte1, List.append_assoc, List.cons_append, List.nil_append]
  rfl

theorem partInfo_form (l : LinkController) : l.partInfo = [0x4C, 0x61, 0x62, 0x72, 0x69, 0x6F, 0x05, 0x8E, Config.revision,
    match l.rate with | .mbaud1_5 => 0 | .mbaud3 => 1 | .mbaud6 => 2 | .mbaud12 => 3, 14, 2, 0, 160, 12, 8, 8, 16] := by
  unfold LinkController.partInfo
  cases l.rate <;> rfl

/-- Settles O13: the requests by what each query answers, then the bytes of each reply. -/
theorem queriesChangeNothing : Obligations.QueriesChangeNothing := by
  unfold Obligations.QueriesChangeNothing
  refine ⟨fun s tag n takes => ?requests, fun s => ?slot, State.cameraQuery_form, fun l => ⟨_, linkQuery_form l⟩,
    fun s => ?replies, fun s tag takes => ?part⟩
  case requests =>
    have served {kind : RequestKind} {body : List Byte} {a : Answer} (short : body.length ≤ 1)
        (legal : legalLength kind body = true) (block : serve kind s tag body = (s, a)) :
        exec (requestOfKind kind tag body) s = .next (s.replied kind tag a) :=
      exec_requestOfKind_served takes (by omega) legal block
    refine ⟨served (kind := .linkQuery) (Nat.zero_le 1) rfl rfl, served (kind := .doorQuery) (Nat.zero_le 1) rfl rfl,
      fun i number => served (kind := .slotQuery) le_rfl rfl (serveSlotQuery_slot tag number),
      fun counts => served (kind := .slotQuery) le_rfl rfl (counts ▸ serveSlotQuery_counts tag),
      fun above other => served (kind := .slotQuery) le_rfl rfl (serveSlotQuery_refused tag above other),
      fun c number => ⟨served (kind := .cameraQuery) le_rfl rfl (serveCameraQuery_camera tag number),
        served (kind := .soilQuery) le_rfl rfl (serveSoilQuery_camera tag number)⟩,
      fun above => ⟨served (kind := .cameraQuery) le_rfl rfl (serveCameraQuery_refused tag above),
        served (kind := .soilQuery) le_rfl rfl (serveSoilQuery_refused tag above)⟩,
      fun screen => served (kind := .screenQuery) le_rfl rfl (screen ▸ rfl),
      fun screen => served (kind := .screenQuery) le_rfl rfl (screen ▸ rfl),
      fun above => served (kind := .screenQuery) le_rfl rfl (serveScreenQuery_refused tag above),
      fun l number => served (kind := .layoutQuery) le_rfl rfl (serveLayoutQuery_layout tag number),
      fun above => served (kind := .layoutQuery) le_rfl rfl (serveLayoutQuery_refused tag above),
      fun k number => served (kind := .clipQuery) le_rfl rfl (serveClipQuery_clip tag number),
      fun above => served (kind := .clipQuery) le_rfl rfl (serveClipQuery_refused tag above)⟩
  case slot =>
    intro counts
    refine ⟨(s.slotQuery_form none).trans (List.append_nil _), fun i => ?_, fun c r => SlotManager.ringSize_some,
      fun c => SlotManager.ringSize_none⟩
    obtain ⟨more, numbered⟩ := s.slots.slotBytes_number i
    exact ⟨more, (s.slotQuery_form (some i)).trans (congrArg (counts ++ ·) numbered)⟩
  case replies =>
    intro camera layout
    refine ⟨s.doorQuery_form, fun i => ?screen, ?layouts, fun c => ?soil, fun k => ?clip⟩
    case screen =>
      obtain ⟨more, form⟩ := s.screenQuery_form i
      exact ⟨_, more, (s.screen i).setup.bytes_length, form⟩
    case layouts =>
      intro l source tile screens
      refine (s.layoutQuery_form l).trans ?_
      rw [funext TileRecord.bytes_eq] <;> rfl
    case soil =>
      obtain ⟨middle, form⟩ := s.soilQuery_form c
      exact ⟨middle, _, form, soilEngine_length s.soil.engine⟩
    case clip =>
      refine ⟨_, fun free => ?_, s.clipQuery_form k⟩
      rw [free]
  case part =>
    have answer : serve .partInfo s tag [] = (s, .ok _) := congrArg (fun bytes => (s, Answer.ok bytes)) (partInfo_form s.link)
    exact exec_requestOfKind_served (kind := .partInfo) takes (Nat.zero_le _) rfl answer

end Sys2Proof.Machine
end

section
/-! The requests of the camera ports (spec/02, spec/03): CAMERA_SETUP (R25), CAMERA_START (R27), CAMERA_STOP (R33), CAMERA_COMMAND
(R56), and the control queue (R48, R51, R54, R58). -/

namespace Sys2Proof.Machine

/-- Of tests in order, the first that fails is named. -/
theorem firstBad_cons (f : Nat) (bad : Bool) (rest : List (Nat × Bool)) :
    firstBad ((f, bad) :: rest) = if bad = true then some f else firstBad rest := by
  cases bad <;> rfl

theorem firstBad_nil : firstBad [] = none := rfl

variable {s : State} {c : Cam}

/-! ## CAMERA_SETUP (R25) -/

theorem setupFault_eq (x : Setup) : setupFault x =
    if ¬(320 ≤ x.width ∧ x.width ≤ 1280 ∧ x.width % 32 = 0) then some 1
    else if ¬(200 ≤ x.height ∧ x.height ≤ 800 ∧ x.height % 8 = 0) then some 2
    else if ¬(10 ≤ x.rate ∧ x.rate ≤ 30) then some 3
    else if ¬(2 ≤ x.depth ∧ x.depth ≤ 8) then some 4
    else if ¬(50 ≤ x.frameTimeout ∧ x.frameTimeout ≤ 2000) then some 5
    else if ¬(x.recoveryInterval = 0 ∨ (500 ≤ x.recoveryInterval ∧ x.recoveryInterval ≤ 60000)) then some 6
    else if x.frameTimeout * x.rate < 1000 then some 5
    else none := by
  have tests {n low high : Nat} : outside n low high = true ↔ ¬(low ≤ n ∧ n ≤ high) := by rw [outside_iff]; omega
  unfold setupFault
  simp only [firstBad_cons, firstBad_nil]
  refine if_congr ?_ rfl (if_congr ?_ rfl (if_congr tests rfl (if_congr tests rfl (if_congr tests rfl
    (if_congr ?_ rfl (if_congr decide_eq_true_iff rfl rfl))))))
  · simp only [Bool.or_eq_true, tests, bne_iff_ne]
    omega
  · simp only [Bool.or_eq_true, tests, bne_iff_ne]
    omega
  · simp only [Bool.and_eq_true, tests, bne_iff_ne]
    omega

theorem serveCameraSetup_camera {tag : Byte} {body : List Byte} (number : field1 body 0 = c.val) :
    serveCameraSetup s tag body = match setupFault (bodySetup body) with
      | some f => (s, .badField f)
      | none => if (s.cam c).state.stopped then (s.setCam c { s.cam c with setup := bodySetup body }, .ok [])
                else (s, .state) := by
  unfold serveCameraSetup
  rw [number, camOf_val]
  rfl

theorem CaptureState.stopped_iff {x : CaptureState} : x.stopped = true ↔ x = .off ∨ x = .failed := by
  simp [CaptureState.stopped]

/-- Settles O21: the tests of R25 in their order, then the capture state. -/
theorem cameraSetup : Obligations.CameraSetup := by
  unfold Obligations.CameraSetup
  intro s tag body takes length width height rate depth timeout interval answered
  have served {t : State} {a : Answer} (block : serveCameraSetup s tag body = (t, a)) : answered t a :=
    exec_requestOfKind_served (kind := .cameraSetup) takes (by omega) (beq_iff_eq.2 length) block
  refine ⟨fun above => served ?_, fun c number => ?_⟩
  · unfold serveCameraSetup
    rw [camOf_above above]
    rfl
  · let reply : Option Nat → Prop
      | some f => answered s (.badField f)
      | none => if (s.cam c).state = .off ∨ (s.cam c).state = .failed then
          answered (s.setCam c { s.cam c with setup := ⟨width, height, rate, depth, timeout, interval⟩ }) (.ok [])
        else answered s .state
    have replied : reply (setupFault (bodySetup body)) := by
      have block := serveCameraSetup_camera (s := s) (tag := tag) number
      cases fault : setupFault (bodySetup body) with
      | some f =>
        rw [fault] at block
        exact served block
      | none =>
        rw [fault] at block
        simp only [CaptureState.stopped_iff] at block
        show if _ then _ else _
        split
        · next stopped => exact served (block.trans (if_pos stopped))
        · next moving => exact served (block.trans (if_neg moving))
    rw [setupFault_eq] at replied
    simp only [apply_ite reply] at replied
    exact replied

/-! ## The control queue (R48, R51, R54, R58) -/

namespace ControlRecord

variable {r : ControlRecord}

theorem enqueue_full {w : EntryWork} (full : 3 ≤ r.queue.length) : r.enqueue w = none := if_neg (by omega)

theorem pump_inFlight (busy : r.inFlight ≠ none) : r.pump = r := by
  unfold pump
  split
  · next idle _ => exact absurd idle busy
  · rfl

theorem pump_alone {w : EntryWork} (idle : r.inFlight = none) : { r with queue := [QueueEntry.admitted w] }.pump =
    { queue := [⟨w, true, false⟩], inFlight := some w.command, attempt := .first, responseTimer := none,
      unsent := r.unsent + 1 } := by
  unfold pump
  rw [idle]
  rfl

theorem enqueue_idle {w : EntryWork} (empty : r.queue = []) (idle : r.inFlight = none) : r.enqueue w = some
    { queue := [⟨w, true, false⟩], inFlight := some w.command, attempt := .first, responseTimer := none,
      unsent := r.unsent + 1 } := by
  unfold enqueue
  rw [empty, if_pos (by decide)]
  exact congrArg some (pump_alone idle)

theorem enqueue_behind {w : EntryWork} (room : r.queue.length < 3) (busy : r.inFlight ≠ none) :
    r.enqueue w = some { r with queue := r.queue ++ [⟨w, false, false⟩] } :=
  (if_pos room).trans (congrArg some (pump_inFlight busy))

theorem unsentHeater_eq_false {e : QueueEntry} (other : e.started = false → ∀ o, e.work ≠ .heater o) :
    e.unsentHeater = false := by
  unfold QueueEntry.unsentHeater
  split
  · next o work =>
    cases started : e.started with
    | true => rfl
    | false => exact absurd work (other started o)
  · rfl

theorem heaterRequest_replaces {ahead behind : List QueueEntry} {on old flushed : Bool}
    (others : ∀ e ∈ ahead ++ behind, e.started = false → ∀ o, e.work ≠ .heater o)
    (queue : r.queue = ahead ++ ⟨.heater old, false, flushed⟩ :: behind) :
    r.heaterRequest on = some { r with queue := ahead ++ ⟨.heater on, false, flushed⟩ :: behind } := by
  have kept (l : List QueueEntry) (within : ∀ e ∈ l, e ∈ ahead ++ behind) :
      (l.map fun e => if e.unsentHeater then { e with work := .heater on } else e) = l := by
    refine (List.map_congr_left fun e mem => if_neg ?_).trans (List.map_id l)
    exact Bool.eq_false_iff.1 (unsentHeater_eq_false (others e (within e mem)))
  have waits : r.queue.any QueueEntry.unsentHeater = true := by
    rw [queue]
    exact List.any_eq_true.2 ⟨⟨.heater old, false, flushed⟩, by simp, rfl⟩
  unfold heaterRequest
  rw [if_pos waits, queue, List.map_append, List.map_cons, kept ahead fun e => List.mem_append_left behind,
    kept behind fun e => List.mem_append_right ahead]
  rfl

theorem heaterRequest_admitted {on : Bool} (none : ∀ e ∈ r.queue, e.started = false → ∀ o, e.work ≠ .heater o) :
    r.heaterRequest on = r.enqueue (.heater on) :=
  if_neg fun waiting => by
    obtain ⟨e, mem, unsent⟩ := List.any_eq_true.1 waiting
    rw [unsentHeater_eq_false (none e mem)] at unsent
    cases unsent

theorem flush_empty (empty : r.queue = []) (idle : r.inFlight = none) : r.flush =
    ({ queue := [⟨.streamOff, true, false⟩], inFlight := some .streamOff, attempt := .first, responseTimer := none,
       unsent := r.unsent + 1 }, []) := by
  unfold flush
  rw [empty]
  exact congrArg (·, []) (pump_alone idle)

theorem flush_started {e : QueueEntry} {rest : List QueueEntry} (queue : r.queue = e :: rest) (started : e.started = true)
    (busy : r.inFlight ≠ none) :
    r.flush = ({ r with queue := [{ e with flushed := true }, ⟨.streamOff, false, false⟩] }, rest) := by
  unfold flush
  rw [queue]
  dsimp only
  rw [if_pos started]
  exact congrArg (·, rest) (pump_inFlight busy)

theorem flush_waiting {e : QueueEntry} {rest : List QueueEntry} (queue : r.queue = e :: rest) (waiting : e.started = false)
    (idle : r.inFlight = none) : r.flush =
    ({ queue := [⟨.streamOff, true, false⟩], inFlight := some .streamOff, attempt := .first, responseTimer := none,
       unsent := r.unsent + 1 }, rest ++ [e]) := by
  unfold flush
  rw [queue]
  dsimp only
  rw [if_neg (Bool.eq_false_iff.1 waiting)]
  exact congrArg (·, rest ++ [e]) (pump_alone idle)

end ControlRecord

open ControlRecord in
/-- Settles O25. -/
theorem controlQueue : Obligations.ControlQueue :=
  ⟨fun _ _ => ⟨enqueue_full, enqueue_idle, enqueue_behind⟩, fun _ _ _ _ _ _ => heaterRequest_replaces,
    fun _ _ => heaterRequest_admitted, fun _ _ _ => ⟨flush_empty, flush_started, flush_waiting⟩⟩

end Sys2Proof.Machine
end

section
/-! Cameras started, stopped and commanded (spec/02, spec/03): CAMERA_START (R27), CAMERA_STOP (R33), the entry to FAILED (R35) and
CAMERA_COMMAND (R56). -/

namespace Sys2Proof.Machine

variable {s : State} {c : Cam}

/-! ## Camera state notices (R43) -/

theorem soilNotice_other {now : CaptureState} (lost : now ≠ .lost) (stopping : now ≠ .stopping) (failed : now ≠ .failed) :
    s.soilNotice c now = s := by
  cases now <;> simp_all [State.soilNotice]

theorem clipNotice_other {old now : CaptureState}
    (other : old ≠ .running ∨ (now ≠ .lost ∧ now ≠ .stopping ∧ now ≠ .failed)) : s.clipNotice c old now = s := by
  refine if_neg fun ⟨running, left⟩ => ?_
  obtain notRunning | ⟨lost, stopping, failed⟩ := other
  · exact notRunning running
  · obtain h | h | h := left <;> contradiction

theorem cameraNotice_other {old now : CaptureState} (lost : now ≠ .lost) (stopping : now ≠ .stopping)
    (failed : now ≠ .failed) : s.cameraNotice c old now = s := by
  unfold State.cameraNotice
  rw [soilNotice_other lost stopping failed, clipNotice_other (.inr ⟨lost, stopping, failed⟩)]

/-! ## CAMERA_START (R27) -/

theorem serveCameraStart_refused {tag n : Byte} (above : 13 < n.toNat) : serveCameraStart s tag [n] = (s, .badField 0) := by
  simp [serveCameraStart, camOf_above above, refuse]

theorem serveCameraStart_moving {tag n : Byte} (number : n.toNat = c.val) (moving : (s.cam c).state.stopped = false) :
    serveCameraStart s tag [n] = (s, .state) := by
  simp [serveCameraStart, number, camOf_val, moving, refuse]

/-- The tests of a CAMERA_START of a camera in OFF or FAILED, and what it does when they pass. -/
theorem serveCameraStart_stopped {tag n : Byte} (number : n.toNat = c.val) (stopped : (s.cam c).state.stopped = true) :
    serveCameraStart s tag [n] =
      match (s.ctl c).enqueue (s.cam c).bringUp, s.link.freeJob with
      | none, _ => (s, .busy)
      | some _, none => (s, .busy)
      | some control, some j =>
        match s.slots.establish c (s.cam c).setup.depth with
        | none => (s, .noSlots)
        | some m =>
          (((((s.setSlots m).openJob j .cameraStart c.val tag).setCtl c control).setCam c ((s.cam c).started j)).raiseCameraAll c
            (healthCauses (s.cam c) ((s.cam c).started j) ++ [.start]), .accepted j) := by
  simp only [serveCameraStart, field1_zero, number, camOf_val, stopped, refuse, cameraNotice_other (now := .bringUp) nofun nofun nofun]
  rw [if_neg nofun]
  cases (s.ctl c).enqueue (s.cam c).bringUp <;> cases s.link.freeJob <;> rfl

/-- Settles O22: the tests of R27 in their order. -/
theorem cameraStart : Obligations.CameraStart := by
  unfold Obligations.CameraStart
  intro s tag n takes answered
  have served {t : State} {a : Answer} (block : serveCameraStart s tag [n] = (t, a)) : answered t a :=
    exec_requestOfKind_served (kind := .cameraStart) takes (by simp) rfl block
  refine ⟨fun above => served (serveCameraStart_refused above), fun c number => ?_⟩
  intro r work
  refine ⟨fun off failed => served (serveCameraStart_moving number ?moving), fun stopped => ?_⟩
  case moving =>
    rw [Bool.eq_false_iff, ne_eq, CaptureState.stopped_iff, not_or]
    exact ⟨off, failed⟩
  have block := serveCameraStart_stopped (s := s) (tag := tag) number (CaptureState.stopped_iff.2 stopped)
  refine ⟨fun full => served (block.trans ?_), fun room noJob => served (block.trans ?_),
    fun j room job noSlots => served (block.trans ?_), fun j control m job admitted ring => served (block.trans ?_)⟩
  · rw [ControlRecord.enqueue_full full]
  · rw [noJob]
    cases (s.ctl c).enqueue (s.cam c).bringUp <;> rfl
  · have admitted : (s.ctl c).enqueue (s.cam c).bringUp = some _ := if_pos room
    rw [admitted, job]
    dsimp only
    rw [noSlots]
  · have admitted : (s.ctl c).enqueue (s.cam c).bringUp = some control := admitted
    rw [admitted, job]
    dsimp only
    rw [ring]
    rfl

/-! ## CAMERA_STOP and the entry to FAILED (R33, R35) -/

theorem setCam_setCam (x y : CameraRecord) : (s.setCam c x).setCam c y = s.setCam c y := by
  simp [State.setCam, State.setCameras]

theorem endJob?_setCam (x : CameraRecord) (j : Option JobId) (result : JobResult) (data : List Byte) :
    (s.setCam c x).endJob? j result data = (s.endJob? j result data).setCam c x := by
  cases j <;> rfl

theorem slotMoved_setCam (x : CameraRecord) (v : Option Moved) :
    (s.setCam c x).slotMoved v = (s.slotMoved v).setCam c x := by
  cases v <;> rfl

theorem dissolveRing_setCam (x : CameraRecord) : (s.setCam c x).dissolveRing c = (s.dissolveRing c).setCam c x :=
  slotMoved_setCam (s := s.setSlots (s.slots.dissolve c).1) x (s.slots.dissolve c).2

theorem endRemoved_passThrough {e : QueueEntry} {p : PassCommand} {j : JobId} (work : e.work = .passThrough p j)
    (rest : List QueueEntry) :
    s.endRemoved (e :: rest) = (s.endJob j .aborted [p.command.code]).endRemoved rest := by
  unfold State.endRemoved
  rw [List.foldl_cons, work]

theorem endRemoved_other {e : QueueEntry} (other : ∀ p j, e.work ≠ .passThrough p j) (rest : List QueueEntry) :
    s.endRemoved (e :: rest) = s.endRemoved rest := by
  unfold State.endRemoved
  rw [List.foldl_cons]
  split
  · next p j work => exact absurd work (other p j)
  · rfl

theorem endRemoved_setCam (x : CameraRecord) (removed : List QueueEntry) :
    (s.setCam c x).endRemoved removed = (s.endRemoved removed).setCam c x := by
  induction removed generalizing s with
  | nil => rfl
  | cons e rest ih =>
    cases work : e.work with
    | passThrough p j =>
      rw [endRemoved_passThrough work, endRemoved_passThrough work, ← ih]
      rfl
    | bringUp | streamOff | heater =>
      have other : ∀ p j, e.work ≠ .passThrough p j := by rw [work]; exact nofun
      rw [endRemoved_other other, endRemoved_other other, ih]

theorem PassCommand.code_eq (p : PassCommand) :
    p.command.code = match p with | .identify => 0x01#8 | .heater _ => 0x05#8 | .status => 0x06#8 := by
  cases p <;> rfl

/-- The record of a camera that enters FAILED (R35). -/
def CameraRecord.failed (r : CameraRecord) : CameraRecord :=
  { r.halted with recoveryPending := false, generation := r.generation + 1, state := .failed }

/-- The record of a camera that a CAMERA_STOP takes to STOPPING (R33). -/
def CameraRecord.stopping (r : CameraRecord) : CameraRecord :=
  { r.halted with generation := r.generation + 1, startJob := none, recoveryPending := false, state := .stopping }

theorem failCamera_eq (s : State) (c : Cam) (cause : CameraCause) : s.failCamera c cause =
    (((s.dissolveRing c).setCam c (s.cam c).failed).cameraNotice c (s.cam c).state .failed).raiseCamera c cause := by
  unfold State.failCamera
  dsimp only
  rw [dissolveRing_setCam, setCam_setCam, State.setCam_cam]
  rfl

/-- A camera that stops, all but the notice: the ring dissolved, the queue flushed, the start job ended. -/
def State.stoppedParts (s : State) (c : Cam) : State :=
  (((s.dissolveRing c).setCtl c (s.ctl c).flush.1).endRemoved (s.ctl c).flush.2).endJob? (s.cam c).startJob .aborted []

theorem slotMoved_ctl (v : Option Moved) : (s.slotMoved v).ctl c = s.ctl c := by
  cases v <;> rfl

theorem flushControl_dissolved (s : State) (c : Cam) : (s.dissolveRing c).flushControl c =
    ((s.dissolveRing c).setCtl c (s.ctl c).flush.1).endRemoved (s.ctl c).flush.2 := by
  have same : (s.dissolveRing c).ctl c = s.ctl c := slotMoved_ctl (s := s.setSlots _) _
  unfold State.flushControl
  rw [same]

theorem flushControl_setCam (x : CameraRecord) : (s.setCam c x).flushControl c = (s.flushControl c).setCam c x :=
  endRemoved_setCam (s := s.setCtl c (s.ctl c).flush.1) x (s.ctl c).flush.2

theorem stopCamera_eq (s : State) (c : Cam) : s.stopCamera c =
    (((s.stoppedParts c).setCam c (s.cam c).stopping).cameraNotice c (s.cam c).state .stopping).raiseCamera c .stop := by
  unfold State.stopCamera
  dsimp only
  rw [dissolveRing_setCam, setCam_setCam, State.setCam_cam, flushControl_setCam, State.setCam_cam,
    endJob?_setCam, setCam_setCam, State.setCam_cam, flushControl_dissolved]
  rfl

theorem serveCameraStop_stopped {tag n : Byte} (number : n.toNat = c.val)
    (state : (s.cam c).state = .stopping ∨ (s.cam c).state = .off ∨ (s.cam c).state = .failed) :
    serveCameraStop s tag [n] = (s, .ok []) := by
  simp only [serveCameraStop, field1_zero, number, camOf_val]
  obtain state | state | state := state <;> rw [state]

theorem serveCameraStop_moving {tag n : Byte} (number : n.toNat = c.val)
    (state : (s.cam c).state = .bringUp ∨ (s.cam c).state = .searching ∨ (s.cam c).state = .running ∨ (s.cam c).state = .lost) :
    serveCameraStop s tag [n] = (s.stopCamera c, .ok []) := by
  simp only [serveCameraStop, field1_zero, number, camOf_val]
  obtain state | state | state | state := state <;> rw [state]

/-- Settles O23. -/
theorem cameraStop : Obligations.CameraStop := by
  unfold Obligations.CameraStop
  refine ⟨failCamera_eq, fun s e rest => ?_, fun _ _ _ _ => rfl, fun s tag n takes => ?_⟩
  · intro kind
    refine ⟨rfl, fun p j work => ?_, fun other => endRemoved_other other rest⟩
    rw [endRemoved_passThrough work, PassCommand.code_eq] <;> rfl
  · intro answered
    have served {t : State} {a : Answer} (block : serveCameraStop s tag [n] = (t, a)) : answered t a :=
      exec_requestOfKind_served (kind := .cameraStop) takes (by simp) rfl block
    refine ⟨fun above => served ?_, fun c number => ?_⟩
    · simp [serveCameraStop, camOf_above above, refuse]
    · intro r
      refine ⟨fun state => served (serveCameraStop_stopped number state), fun state => ?_⟩
      intro stopped dissolved flushed ended
      exact served ((serveCameraStop_moving number state).trans (congrArg (·, Answer.ok []) (stopCamera_eq s c)))

/-! ## CAMERA_COMMAND (R56) -/

theorem any_isPassThrough_iff {queue : List QueueEntry} :
    queue.any QueueEntry.isPassThrough = true ↔ ∃ e ∈ queue, ∃ q j, e.work = .passThrough q j := by
  have passes (e : QueueEntry) : e.isPassThrough = true ↔ ∃ q j, e.work = .passThrough q j := by
    unfold QueueEntry.isPassThrough
    cases e.work <;> simp
  simp only [List.any_eq_true, passes]

/-- The tests of a CAMERA_COMMAND whose kind and setting name a pass-through, and what it does when they pass. -/
theorem serveCameraCommand_named {tag n kind setting : Byte} {p : PassCommand} (number : n.toNat = c.val)
    (named : passCommandOf kind.toNat setting.toNat = .ok p) :
    serveCameraCommand s tag [n, kind, setting] =
      if (s.cam c).state = .stopping then (s, .state)
      else if p.isHeater && (s.soilOf c).watch then (s, .state)
      else if (s.ctl c).queue.any QueueEntry.isPassThrough then (s, .busy)
      else
        match s.link.freeJob with
        | none => (s, .busy)
        | some j =>
          match (s.ctl c).enqueue (.passThrough p j) with
          | none => (s, .busy)
          | some control => ((s.openJob j .cameraCommand c.val tag).setCtl c control, .accepted j) := by
  have fields : passCommandOf (field1 [n, kind, setting] 1) (field1 [n, kind, setting] 2) = .ok p := named
  unfold serveCameraCommand
  rw [fields, field1_zero, number, camOf_val]
  rfl

theorem serveCameraCommand_field {tag n kind setting : Byte} {f : Nat} (number : n.toNat = c.val)
    (fault : passCommandOf kind.toNat setting.toNat = .error f) :
    serveCameraCommand s tag [n, kind, setting] = (s, .badField f) := by
  have fields : passCommandOf (field1 [n, kind, setting] 1) (field1 [n, kind, setting] 2) = .error f := fault
  unfold serveCameraCommand
  rw [fields, field1_zero, number, camOf_val]
  rfl

theorem passCommandOf_kind {kind : Byte} (setting : Byte) (identify : kind ≠ 1#8) (heater : kind ≠ 5#8) (status : kind ≠ 6#8) :
    passCommandOf kind.toNat setting.toNat = .error 1 := by
  have identify : kind.toNat ≠ 1 := fun same => identify (BitVec.eq_of_toNat_eq same)
  have heater : kind.toNat ≠ 5 := fun same => heater (BitVec.eq_of_toNat_eq same)
  have status : kind.toNat ≠ 6 := fun same => status (BitVec.eq_of_toNat_eq same)
  simp [passCommandOf, identify, heater, status]

theorem passCommandOf_setting {setting : Byte} (off : setting ≠ 0#8) (on : setting ≠ 1#8) :
    passCommandOf (5#8).toNat setting.toNat = .error 2 := by
  have unknown : flagOf setting.toNat = none := by
    have off : setting.toNat ≠ 0 := fun same => off (BitVec.eq_of_toNat_eq same)
    have on : setting.toNat ≠ 1 := fun same => on (BitVec.eq_of_toNat_eq same)
    simp [flagOf, off, on]
  show (match flagOf setting.toNat with | some on => Except.ok (PassCommand.heater on) | none => .error 2) = _
  rw [unknown]

/-- The four kinds and settings that name a pass-through; a heater setting has kind 5. -/
theorem passCommandOf_named {kind setting : Byte} {p : PassCommand}
    (named : (kind = 1#8 ∧ p = .identify) ∨ (kind = 6#8 ∧ p = .status) ∨ (kind = 5#8 ∧ setting = 0#8 ∧ p = .heater false) ∨
      (kind = 5#8 ∧ setting = 1#8 ∧ p = .heater true)) :
    passCommandOf kind.toNat setting.toNat = .ok p ∧ (p.isHeater = true ↔ kind = 5#8) := by
  obtain ⟨rfl, rfl⟩ | ⟨rfl, rfl⟩ | ⟨rfl, rfl, rfl⟩ | ⟨rfl, rfl, rfl⟩ := named <;> exact ⟨rfl, by decide⟩

/-- Settles O24: the fields, then the tests of R56 in their order. -/
theorem cameraCommand : Obligations.CameraCommand := by
  unfold Obligations.CameraCommand
  intro s tag n kind setting takes answered
  have served {t : State} {a : Answer} (block : serveCameraCommand s tag [n, kind, setting] = (t, a)) : answered t a :=
    exec_requestOfKind_served (kind := .cameraCommand) takes (by simp) rfl block
  refine ⟨fun above => served ?_, fun c number => ⟨fun identify heater status => ?_, fun heater off on => ?_,
    fun p named => ?_⟩⟩
  · unfold serveCameraCommand
    rw [field1_zero, camOf_above above]
    rfl
  · exact served (serveCameraCommand_field number (passCommandOf_kind setting identify heater status))
  · exact served (serveCameraCommand_field number (heater ▸ passCommandOf_setting off on))
  · intro passes
    obtain ⟨command, isHeater⟩ := passCommandOf_named named
    have block := serveCameraCommand_named (s := s) (tag := tag) number command
    refine ⟨fun stopping => served (block.trans (if_pos stopping)), fun moving heater watch => served (block.trans ?_),
      fun moving allowed => ?_⟩
    · rw [if_neg moving, isHeater.2 heater, watch]
      rfl
    · have unwatched : ¬ (p.isHeater && (s.soilOf c).watch) = true := by
        rw [Bool.and_eq_true, isHeater, not_and_or, Bool.not_eq_true]
        exact allowed
      rw [if_neg moving, if_neg unwatched] at block
      refine ⟨fun pass => served (block.trans (if_pos (any_isPassThrough_iff.2 pass))), fun free full => served (block.trans ?_),
        fun free noJob => served (block.trans ?_), fun j control free job admitted => served (block.trans ?_)⟩
      · rw [if_neg (any_isPassThrough_iff.not.2 free)]
        cases s.link.freeJob with
        | none => rfl
        | some j => dsimp only; rw [ControlRecord.enqueue_full full]
      · rw [if_neg (any_isPassThrough_iff.not.2 free), noJob]
      · rw [if_neg (any_isPassThrough_iff.not.2 free), job]
        dsimp only
        rw [admitted]

end Sys2Proof.Machine
end

section
/-! Frames and timers of a camera port (spec/02): the health counts (R37 to R42), a frame-start (R23, R29, R37), a frame-end (R39), a
line of a state whose frame store is not canonical (R38, log 12), and the timers (R30, R31). -/

namespace Sys2Proof.Machine

variable {s : State} {c : Cam}

/-- While no request waits, an event of a block ends with the arbiter's decision. -/
theorem exec_unasked {i : Instr} {t : State} (unasked : s.Unasked) (effect : blockEffect s i = some t) :
    exec i s = .next t.sendIfDue := by
  rw [exec_blockEffect effect, event_unasked unasked (blockEffect_keeps effect)]

/-! ## Health (R40 to R42, R44) -/

theorem bumpTotal_below {which : CameraTotal} {e : Nat} {n : Word32} (below : n ≠ 0xFFFFFFFF#32) :
    bumpTotal which c e n = n + 1 := if_neg below

theorem healthCauses_eq (a b : CameraRecord) : healthCauses a b =
    (if b.degraded = a.degraded then [] else [.health]) ++ (if b.starved = a.starved then [] else [.health]) := by
  unfold healthCauses
  cases a.degraded <;> cases b.degraded <;> cases a.starved <;> cases b.starved <;> rfl

/-- Settles O26. -/
theorem healthCounts : Obligations.HealthCounts := by
  unfold Obligations.HealthCounts
  refine ⟨fun s c cause causes => ⟨rfl, rfl, rfl⟩, fun r c e k q => ?_⟩
  intro up
  refine ⟨fun below => ?_, fun below => ?_, fun below => ?_, rfl, fun b => ?_⟩
  · unfold CameraRecord.damaged
    rw [bumpTotal_below below]
    rfl
  · have fewer : (!decide (4 ≤ saturate 255 r.goodRun)) = decide (saturate 255 r.goodRun < 4) := by
      rw [← decide_not, decide_eq_decide]
      exact not_le
    unfold CameraRecord.good
    rw [bumpTotal_below below, fewer]
    rfl
  · unfold CameraRecord.skipped
    rw [bumpTotal_below below]
    rfl
  · rw [healthCauses_eq]
    refine ⟨fun d st => ?_, fun d st => ?_, fun d st => ?_, fun d st => ?_⟩
    · rw [if_pos d, if_pos st]; rfl
    · rw [if_neg d, if_pos st]; rfl
    · rw [if_pos d, if_neg st]; rfl
    · rw [if_neg d, if_neg st]; rfl

/-! ## Frame-starts (R23, R29, R37) -/

theorem takesPackets_iff {x : CaptureState} : x.takesPackets = true ↔ x = .searching ∨ x = .running ∨ x = .lost := by
  cases x <;> simp [CaptureState.takesPackets]

theorem nat2_word (high low : Byte) : BitVec.ofNat 16 (nat2 high low) = high ++ low := by
  refine BitVec.eq_of_toNat_eq ?_
  rw [toNat_append_byte, BitVec.toNat_ofNat, nat2]
  have := high.isLt
  have := low.isLt
  omega

theorem readFrameStart_good {n1 n0 w1 w0 h1 h0 check : Byte} (good : check = crc8 [0x01#8, n1, n0, w1, w0, h1, h0]) :
    readFrameStart [n1, n0, w1, w0, h1, h0, check] = some ⟨n1 ++ n0, nat2 w1 w0, nat2 h1 h0⟩ := by
  rw [← nat2_word]
  exact if_pos good.symm

theorem readFrameStart_bad {n1 n0 w1 w0 h1 h0 check : Byte} (bad : ¬ check = crc8 [0x01#8, n1, n0, w1, w0, h1, h0]) :
    readFrameStart [n1, n0, w1, w0, h1, h0, check] = none :=
  if_neg fun same => bad same.symm

theorem readFrameStart_length {packet : List Byte} (other : packet.length ≠ 7) : readFrameStart packet = none := by
  unfold readFrameStart
  split
  · exact absurd rfl other
  · rfl

theorem frameStart_ignored {packet : List Byte}
    (ignored : (s.cam c).state.takesPackets = false ∨ readFrameStart packet = none) : s.frameStart c packet = s := by
  unfold State.frameStart
  obtain notTaken | unread := ignored
  · exact if_neg (Bool.eq_false_iff.1 notTaken)
  · rw [unread]
    exact ite_self s

/-- The record of a camera after a frame-start has been seen (R29). -/
def State.seenRecord (s : State) (c : Cam) (number : Word16) : CameraRecord :=
  { s.cam c with
    frameTimer := some (s.elapsed + (s.cam c).setup.frameTimeout), lastStart := some s.now, lastNumber := some number,
    state := .running, recoveryTimer := if (s.cam c).state = .lost then none else (s.cam c).recoveryTimer }

/-- The record after the frame being received has been cut off (R37). -/
def State.cutRecord (s : State) (c : Cam) (number : Word16) : CameraRecord :=
  if (s.cam c).receive = .receiving then (s.seenRecord c number).damaged c s.elapsed .truncated else s.seenRecord c number

/-- The slots after the frame being received has been cut off (R37). -/
def State.cutSlots (s : State) (c : Cam) : SlotManager :=
  if (s.cam c).receive = .receiving then s.slots.discard c else s.slots

theorem frameStartSeen_eq (p : FrameStart) : s.frameStartSeen c p =
    (s.setCam c (s.seenRecord c p.number), if (s.cam c).state = .running then [] else [.frameStart]) := by
  unfold State.frameStartSeen
  dsimp only
  rw [cameraNotice_other (now := .running) nofun nofun nofun]
  split <;> rfl

theorem damageFrame_discards {kind : DamageKind} (slot : kind ≠ .geometry) : s.damageFrame c kind =
    ((s.setSlots (s.slots.discard c)).setCam c ((s.cam c).damaged c s.elapsed kind),
     healthCauses (s.cam c) ((s.cam c).damaged c s.elapsed kind)) := by
  unfold State.damageFrame
  rw [if_neg slot]
  rfl

theorem damageFrame_geometry : s.damageFrame c .geometry = (s.setCam c ((s.cam c).damaged c s.elapsed .geometry),
    healthCauses (s.cam c) ((s.cam c).damaged c s.elapsed .geometry)) := rfl

theorem healthCauses_self (r : CameraRecord) : healthCauses r r = [] := by simp [healthCauses]

theorem setSlots_setCam (m n : SlotManager) (x y : CameraRecord) :
    (((s.setSlots m).setCam c x).setSlots n).setCam c y = (s.setSlots n).setCam c y :=
  setCam_setCam (s := s.setSlots n) x y

/-- The frame being received, cut off by a frame-start (R37). -/
theorem cut_eq (s : State) (c : Cam) (number : Word16) :
    (if (s.cam c).receive = .receiving then (s.setCam c (s.seenRecord c number)).damageFrame c .truncated
     else (s.setCam c (s.seenRecord c number), [])) =
    ((s.setSlots (s.cutSlots c)).setCam c (s.cutRecord c number), healthCauses (s.seenRecord c number) (s.cutRecord c number)) := by
  unfold State.cutSlots State.cutRecord
  by_cases receiving : (s.cam c).receive = .receiving
  · rw [if_pos receiving, if_pos receiving, if_pos receiving, damageFrame_discards (by decide), State.setCam_cam]
    exact congrArg (·, _) (setSlots_setCam (s := s) s.slots _ _ _)
  · rw [if_neg receiving, if_neg receiving, if_neg receiving, healthCauses_self]
    rfl

/-- A frame-start that is taken: the frame being received is cut off, then the frame begins or is damaged GEOMETRY. -/
theorem frameStart_taken {packet : List Byte} {p : FrameStart} (taken : (s.cam c).state.takesPackets = true)
    (read : readFrameStart packet = some p) {t : State} (cut : (s.setSlots (s.cutSlots c)).setCam c (s.cutRecord c p.number) = t)
    {ended : State × List CameraCause} (ends : (if p.width = (s.cam c).setup.width ∧ p.height = (s.cam c).setup.height
      then t.takeFrame c p else t.damageFrame c .geometry) = ended) :
    s.frameStart c packet = ended.1.raiseCameraAll c ((if (s.cam c).state = .running then [] else [.frameStart]) ++
      healthCauses (s.seenRecord c p.number) (s.cutRecord c p.number) ++ ended.2) := by
  have seen : ((s.setCam c (s.seenRecord c p.number)).cam c).receive = (s.cam c).receive := by
    rw [State.setCam_cam]
    rfl
  have setup : (t.cam c).setup = (s.cam c).setup := by
    rw [← cut, State.setCam_cam]
    unfold State.cutRecord
    split <;> rfl
  unfold State.frameStart
  rw [if_pos taken, read]
  dsimp only
  rw [frameStartSeen_eq]
  dsimp only
  rw [seen, cut_eq]
  dsimp only
  rw [cut, setup, ends]

theorem takeFrame_given {p : FrameStart} {m : SlotManager} {i : SlotNo} {f : FrameFields}
    (fields : FrameFields.mk ((s.cam c).sequence + 1) p.number ((s.cam c).lastStart.getD s.now)
      ⟨(s.cam c).setup.width, (s.cam c).setup.height⟩ = f)
    (given : s.slots.take c f = (m, some i)) {asked : CameraRecord}
    (sequence : { s.cam c with sequence := (s.cam c).sequence + 1 } = asked) : s.takeFrame c p =
      ((s.setSlots m).setCam c asked.slotGiven, healthCauses asked asked.slotGiven) := by
  unfold State.takeFrame
  dsimp only
  rw [fields, given, sequence]

theorem takeFrame_skipped {p : FrameStart} {m : SlotManager} {f : FrameFields}
    (fields : FrameFields.mk ((s.cam c).sequence + 1) p.number ((s.cam c).lastStart.getD s.now)
      ⟨(s.cam c).setup.width, (s.cam c).setup.height⟩ = f)
    (refused : s.slots.take c f = (m, none)) {asked : CameraRecord}
    (sequence : { s.cam c with sequence := (s.cam c).sequence + 1 } = asked) : s.takeFrame c p =
      ((s.setSlots m).setCam c (asked.skipped c s.elapsed), healthCauses asked (asked.skipped c s.elapsed)) := by
  unfold State.takeFrame
  dsimp only
  rw [fields, refused, sequence]

/-- Settles O27. -/
theorem frameStart : Obligations.FrameStart := by
  unfold Obligations.FrameStart
  intro s c n1 n0 w1 w0 h1 h0 check unasked old packet good taken
  have run (p : List Byte) : exec (.frameStart c p) s = .next (s.frameStart c p).sendIfDue := exec_unasked unasked rfl
  refine ⟨fun ignored => ?_, fun other length => ?_, fun takes checked => ?_⟩
  · rw [run, frameStart_ignored]
    refine ignored.imp (fun notTaken => ?_) readFrameStart_bad
    rw [Bool.eq_false_iff, ne_eq, takesPackets_iff]
    exact notTaken
  · rw [run, frameStart_ignored (.inr (readFrameStart_length length))]
  · intro r seen cut slots before
    have began {ended : State × List CameraCause} (ends : (if nat2 w1 w0 = r.setup.width ∧ nat2 h1 h0 = r.setup.height
        then ((s.setSlots slots).setCam c cut).takeFrame c ⟨n1 ++ n0, nat2 w1 w0, nat2 h1 h0⟩
        else ((s.setSlots slots).setCam c cut).damageFrame c .geometry) = ended) :
        s.frameStart c packet = ended.1.raiseCameraAll c (before ++ ended.2) :=
      frameStart_taken (takesPackets_iff.2 takes) (readFrameStart_good checked) rfl ends
    have here : ((s.setSlots slots).setCam c cut).cam c = cut := State.setCam_cam _ _ _
    have kept : cut.setup = r.setup ∧ cut.sequence = r.sequence ∧ cut.lastStart = some s.now := by
      unfold cut
      split <;> exact ⟨rfl, rfl, rfl⟩
    clear_value before cut slots
    refine ⟨fun other => ?_, fun width height => ?_⟩
    · intro damaged
      rw [run, began ((if_neg (not_and_or.2 other)).trans damageFrame_geometry), here, setCam_setCam]
      rfl
    · intro asked frame
      have fields : FrameFields.mk (cut.sequence + 1) (n1 ++ n0) (cut.lastStart.getD s.now)
          ⟨cut.setup.width, cut.setup.height⟩ = frame := by
        obtain ⟨setup, sequence, lastStart⟩ := kept
        rw [setup, sequence, lastStart]
        rfl
      rw [← here] at fields
      refine ⟨fun m i given => ?_, fun m refused => ?_⟩
      · rw [run, began ((if_pos ⟨width, height⟩).trans (takeFrame_given fields given rfl)), here, setSlots_setCam]
      · rw [run, began ((if_pos ⟨width, height⟩).trans (takeFrame_skipped fields refused rfl)), here, setSlots_setCam]
        rfl

/-! ## Frame-ends (R39) -/

theorem readFrameEnd_good {n1 n0 check : Byte} (good : check = crc8 [0x03#8, n1, n0]) :
    readFrameEnd [n1, n0, check] = some (nat2 n1 n0) := if_pos good.symm

theorem readFrameEnd_bad {n1 n0 check : Byte} (bad : ¬ check = crc8 [0x03#8, n1, n0]) :
    readFrameEnd [n1, n0, check] = none := if_neg fun same => bad same.symm

theorem readFrameEnd_length {packet : List Byte} (other : packet.length ≠ 3) : readFrameEnd packet = none := by
  unfold readFrameEnd
  split
  · exact absurd rfl other
  · rfl

theorem frameEnd_ignored {packet : List Byte} (ignored :
    ¬ ((s.cam c).state.takesPackets = true ∧ (s.cam c).receive = .receiving) ∨ readFrameEnd packet = none) :
    s.frameEnd c packet = s := by
  unfold State.frameEnd
  obtain notTaken | unread := ignored
  · exact if_neg notTaken
  · rw [unread]
    exact ite_self s

theorem frameEnd_taken {packet : List Byte} {count : Nat} (taken : (s.cam c).state.takesPackets = true)
    (receiving : (s.cam c).receive = .receiving) (read : readFrameEnd packet = some count) : s.frameEnd c packet =
      if count = (s.cam c).setup.height ∧ (s.cam c).nextLine = (s.cam c).setup.height then s.publishFrame c
      else s.damageOnly c .count := by
  unfold State.frameEnd
  dsimp only
  rw [if_pos ⟨taken, receiving⟩, read]

theorem damageOnly_discards {kind : DamageKind} (slot : kind ≠ .geometry) : s.damageOnly c kind =
    ((s.setSlots (s.slots.discard c)).setCam c ((s.cam c).damaged c s.elapsed kind)).raiseCameraAll c
      (healthCauses (s.cam c) ((s.cam c).damaged c s.elapsed kind)) := by
  unfold State.damageOnly
  rw [damageFrame_discards slot]

theorem publishFrame_quiet {m : SlotManager} (quiet : s.slots.publish c = (m, none)) : s.publishFrame c =
    ((s.setSlots m).setCam c ((s.cam c).good c s.elapsed (s.cam c).sequence)).raiseCameraAll c
      (healthCauses (s.cam c) ((s.cam c).good c s.elapsed (s.cam c).sequence)) := by
  unfold State.publishFrame
  rw [quiet]
  rfl

theorem publishFrame_notice {m : SlotManager} {n : PublicationNotice} (notice : s.slots.publish c = (m, some n)) :
    s.publishFrame c =
    (((s.setSlots m).publicationNotice n).setCam c ((s.cam c).good c s.elapsed (s.cam c).sequence)).raiseCameraAll c
      (healthCauses (s.cam c) ((s.cam c).good c s.elapsed (s.cam c).sequence)) := by
  have elapsed : ((s.setSlots m).publicationNotice n).elapsed = s.elapsed :=
    ((Keeps.refl (p := fun _ => False) (s.setSlots m)).publicationNotice n).elapsed
  unfold State.publishFrame
  rw [notice]
  dsimp only
  rw [elapsed]

/-- Settles O29. -/
theorem frameEnd : Obligations.FrameEnd := by
  unfold Obligations.FrameEnd
  intro s c n1 n0 check unasked r run taken good whole damaged
  have runs (p : List Byte) : exec (.frameEnd c p) s = .next (s.frameEnd c p).sendIfDue := exec_unasked unasked rfl
  refine ⟨fun ignored => ?_, fun other length => ?_, fun takes checked broken => ?_, fun takes checked complete => ?_⟩
  · refine (runs _).trans ?_
    rw [frameEnd_ignored]
    refine ignored.imp (fun notTaken => ?_) readFrameEnd_bad
    rw [takesPackets_iff]
    exact notTaken
  · rw [runs, frameEnd_ignored (.inr (readFrameEnd_length length))]
  · refine (runs _).trans ?_
    rw [frameEnd_taken (takesPackets_iff.2 takes.1) takes.2 (readFrameEnd_good checked), if_neg broken,
      damageOnly_discards (by decide)]
  · intro published
    have publishes : s.frameEnd c [n1, n0, check] = s.publishFrame c :=
      (frameEnd_taken (takesPackets_iff.2 takes.1) takes.2 (readFrameEnd_good checked)).trans (if_pos complete)
    refine ⟨fun m quiet => (runs _).trans ?_, fun m n notice => (runs _).trans ?_⟩
    · rw [publishes, publishFrame_quiet quiet]
    · rw [publishes, publishFrame_notice notice]

/-! ## A line of a frame store that is not canonical (R38, log 12) -/

theorem readLine_good (n1 n0 : Byte) (pixels : List Byte) :
    readLine (n1 :: n0 :: (pixels ++ bytes2 (crc16 (n1 :: n0 :: pixels)).toNat)) = some ⟨nat2 n1 n0, pixels⟩ := by
  have check := field2_append pixels [] (crc16 (n1 :: n0 :: pixels)).isLt
  have length : (pixels ++ bytes2 (crc16 (n1 :: n0 :: pixels)).toNat).length = pixels.length + 2 := by simp
  rw [List.append_nil] at check
  unfold readLine
  dsimp only
  rw [length, if_pos (by omega), Nat.add_sub_cancel, List.take_left, if_pos check.symm]

/-- A line that is taken and good, of a setup whose lines lie in their slot. -/
theorem linePacket_good {packet : List Byte} {line : Line} (taken : (s.cam c).state.takesPackets = true)
    (receiving : (s.cam c).receive = .receiving) (read : readLine packet = some line)
    (whole : line.pixels.length = 2 * (s.cam c).setup.width) (next : line.number = (s.cam c).nextLine)
    (within : line.number < (s.cam c).setup.height) (range : (s.cam c).setup.InRange) :
    s.linePacket c packet = .next (s.storeLine c line) := by
  unfold State.linePacket
  dsimp only
  rw [if_pos ⟨taken, receiving⟩, read]
  dsimp only
  rw [if_neg (not_not_intro whole), if_neg (by omega), if_neg (range.line_fits within).not_gt]

theorem exec_linePacket_next {packet : List Byte} {t : State} (running : s.pins.resetLow = false)
    (deals : s.linePacket c packet = .next t) : exec (.linePacket c packet) s = .next t.settle := by
  refine (if_neg (Bool.eq_false_iff.1 running)).trans ?_
  rw [deals]

theorem storeLine_pixels {line : Line} {r : Ring} {i : SlotNo} (ring : s.slots.ring c = some r) (filling : r.filling = some i) :
    (s.storeLine c line).pixels =
      Memory.writeBytes s.pixels (slotAddress i (line.number * (2 * (s.cam c).setup.width))) line.pixels := by
  unfold State.storeLine SlotManager.fillingSlot
  rw [ring]
  dsimp only
  rw [filling]
  rfl

/-- Cells out of order: no write of a zero below the first cell removes the second. -/
def unsortedCells : List Host.Cell := [(1000000, 1), (0, 7)]

theorem read_unsortedCells : Memory.read unsortedCells 0 = 7 := rfl

theorem writeBytes_unsortedCells (n : Nat) : ∀ a, a + n ≤ 1000000 →
    Memory.writeBytes unsortedCells a (List.replicate n 0) = unsortedCells := by
  induction n with
  | zero => exact fun a _ => rfl
  | succ n ih =>
    intro a below
    have kept : Memory.write unsortedCells a 0 = unsortedCells := (if_pos (by omega)).trans (if_pos rfl)
    rw [List.replicate_succ, Memory.writeBytes, kept]
    exact ih (a + 1) (by omega)

/-- Camera 0 receives its first line into slot 0, and the frame store holds its cells out of order. -/
def unsortedState : State :=
  ((State.reset.setPixels unsortedCells).setSlots
    (SlotManager.reset.setRing 0 (some { ready := [], blank := [], filling := some 0 }))).setCam 0
    { CameraRecord.reset with state := .running, receive := .receiving }

theorem unsortedState_cam :
    unsortedState.cam 0 = { CameraRecord.reset with state := .running, receive := .receiving } := State.setCam_cam _ _ _

theorem unsortedState_setup : (unsortedState.cam 0).setup = CameraRecord.reset.setup := by rw [unsortedState_cam]

theorem unsortedState_ring : unsortedState.slots.ring 0 = some { ready := [], blank := [], filling := some 0 } :=
  SlotManager.ring_setRing _ _ _

/-- Refutes O28: a line of zeros leaves the 7 that stands at its first byte in a frame store whose cells are out of order. The
statement holds of the frame stores in canonical form, which every step keeps (StepKeepsInvariants), but it does not ask for one. -/
theorem not_linePacket : ¬ Obligations.LinePacket := by
  unfold Obligations.LinePacket
  intro holds
  let zeros : List Byte := List.replicate 1280 0
  let crc := (crc16 (0 :: 0 :: zeros)).toNat
  have range : (unsortedState.cam 0).setup.InRange := unsortedState_setup ▸ (by decide : setupFault CameraRecord.reset.setup = none)
  have zerosLength : zeros.length = 1280 := List.length_replicate
  obtain ⟨-, -, -, -, good⟩ := holds unsortedState 0 0 0 (byteOf (crc / 256)) (byteOf crc) zeros ⟨rfl, rfl⟩ range
  obtain ⟨m, ran, -, written⟩ := good (by rw [unsortedState_cam]; exact ⟨.inr (.inl rfl), rfl⟩)
    (nat2_byteOf (crc16 (0 :: 0 :: zeros)).isLt) (by rw [unsortedState_cam, zerosLength]; rfl) (by rw [unsortedState_cam]; rfl)
    (by rw [unsortedState_cam]; decide) _ 0 unsortedState_ring rfl
  have deals : unsortedState.linePacket 0 (0 :: 0 :: (zeros ++ bytes2 crc)) = .next (unsortedState.storeLine 0 ⟨0, zeros⟩) :=
    linePacket_good (by rw [unsortedState_cam]; rfl) (by rw [unsortedState_cam]) (readLine_good 0 0 zeros)
      (by rw [unsortedState_cam]; exact zerosLength) (by rw [unsortedState_cam]; rfl) (by rw [unsortedState_cam]; decide) range
  have stored : (unsortedState.storeLine 0 ⟨0, zeros⟩).pixels = unsortedCells := by
    rw [storeLine_pixels unsortedState_ring rfl]
    exact writeBytes_unsortedCells 1280 _ (by decide)
  have same := (exec_linePacket_next rfl deals).symm.trans ran
  have pixels : unsortedCells = m := by
    have := congrArg State.pixels (Host.Outcome.next.inj same)
    rwa [settle_pixels, stored, sendIfDue_pixels] at this
  have seven : Memory.read m 0 = 0 := written 0 (by rw [zerosLength]; decide)
  rw [← pixels, read_unsortedCells] at seven
  exact absurd seven (by decide)

/-! ## Timers (R30, R31) -/

theorem due_false {t : Timer} (running : ∀ d, t = some d → s.elapsed < d) : s.due t = false := by
  rw [Bool.eq_false_iff, ne_eq, due_iff]
  exact fun ⟨d, timer, reached⟩ => absurd reached (running d timer).not_ge

theorem frameTimerExpired_ignored
    (ignored : s.due (s.cam c).frameTimer = false ∨ ((s.cam c).state ≠ .searching ∧ (s.cam c).state ≠ .running)) :
    s.frameTimerExpired c = s := by
  refine if_neg fun ⟨due, state⟩ => ?_
  obtain notDue | ⟨searching, running⟩ := ignored
  · rw [notDue] at due
    cases due
  · exact state.elim searching running

/-- The record after a frame timer has expired (R30): the frame being received is damaged TIMEOUT. -/
def State.timedOutRecord (s : State) (c : Cam) : CameraRecord :=
  if (s.cam c).receive = .receiving then (s.cam c).damaged c s.elapsed .timeout else s.cam c

theorem frameTimerExpired_due (due : s.due (s.cam c).frameTimer = true)
    (state : (s.cam c).state = .searching ∨ (s.cam c).state = .running) : s.frameTimerExpired c =
    (((s.setSlots (s.cutSlots c)).setCam c { s.timedOutRecord c with
      state := .lost, frameTimer := none,
      recoveryTimer := if (s.cam c).setup.recoveryInterval = 0 then none
        else some (s.elapsed + (s.cam c).setup.recoveryInterval) }).cameraNotice c (s.cam c).state .lost).raiseCameraAll c
      (healthCauses (s.cam c) (s.timedOutRecord c) ++ [.frameTimeout]) := by
  unfold State.frameTimerExpired State.timedOutRecord State.cutSlots
  dsimp only
  rw [if_pos ⟨due, state⟩]
  by_cases receiving : (s.cam c).receive = .receiving
  · rw [if_pos receiving, if_pos receiving, if_pos receiving, damageFrame_discards (by decide)]
    dsimp only
    rw [State.setCam_cam, setCam_setCam]
    rfl
  · rw [if_neg receiving, if_neg receiving, if_neg receiving, healthCauses_self]
    rfl

theorem recoveryTimerExpired_ignored (ignored : s.due (s.cam c).recoveryTimer = false ∨ (s.cam c).state ≠ .lost) :
    s.recoveryTimerExpired c = s := by
  refine if_neg fun ⟨due, state⟩ => ?_
  obtain notDue | notLost := ignored
  · rw [notDue] at due
    cases due
  · exact notLost state

theorem recoveryTimerExpired_due (due : s.due (s.cam c).recoveryTimer = true) (state : (s.cam c).state = .lost) :
    s.recoveryTimerExpired c =
      let again := s.setCam c { s.cam c with recoveryTimer := some (s.elapsed + (s.cam c).setup.recoveryInterval) }
      if (s.cam c).recoveryPending then again
      else
        match (s.ctl c).enqueue (s.cam c).bringUp with
        | none => again
        | some control =>
          (s.setCtl c control).setCam c { s.cam c with recoveryPending := true, recoveryTimer := none } :=
  if_pos ⟨due, state⟩

/-- Settles O30. -/
theorem cameraTimers : Obligations.CameraTimers := by
  unfold Obligations.CameraTimers
  intro s c unasked r
  have frame : exec (.frameTimerExpiry c) s = .next (s.frameTimerExpired c).sendIfDue := exec_unasked unasked rfl
  have recovery : exec (.recoveryTimerExpiry c) s = .next (s.recoveryTimerExpired c).sendIfDue := exec_unasked unasked rfl
  refine ⟨fun searching running => ?_, fun notDue => ?_, fun d timer reached state => ?_, fun notLost => ?_,
    fun notDue => ?_, fun d timer reached state => ⟨fun again => ?_, fun control free admitted => ?_⟩⟩
  · rw [frame, frameTimerExpired_ignored (.inr ⟨searching, running⟩)]
  · rw [frame, frameTimerExpired_ignored (.inl (due_false notDue))]
  · intro cut slots lost
    rw [frame, frameTimerExpired_due ((due_iff s _).2 ⟨d, timer, reached⟩) state]
    rfl
  · rw [recovery, recoveryTimerExpired_ignored (.inr notLost)]
  · rw [recovery, recoveryTimerExpired_ignored (.inl (due_false notDue))]
  · rw [recovery, recoveryTimerExpired_due ((due_iff s _).2 ⟨d, timer, reached⟩) state]
    dsimp only
    obtain pending | full := again
    · rw [if_pos pending]
    · rw [ControlRecord.enqueue_full full]
      exact congrArg (fun t : State => Host.Outcome.next t.sendIfDue) (ite_self _)
  · have admitted : (s.ctl c).enqueue (s.cam c).bringUp = some control := admitted
    rw [recovery, recoveryTimerExpired_due ((due_iff s _).2 ⟨d, timer, reached⟩) state]
    dsimp only
    rw [if_neg (Bool.eq_false_iff.1 free), admitted]

end Sys2Proof.Machine
end

section
/-! The control path (spec/03): responses and their check (R49, R50), the sending of commands (R48), and what the current entry makes of
an ending (R28, R32, R34, R52 to R59). -/

namespace Sys2Proof.Machine

variable {s : State} {c : Cam}

/-! ## Attempts and endings (R48 to R50) -/

theorem failAttempt_first (first : (s.ctl c).attempt = .first) : s.failAttempt c = s.setCtl c (s.ctl c).resend := by
  unfold State.failAttempt
  rw [first]

theorem failAttempt_second (second : (s.ctl c).attempt = .second) :
    s.failAttempt c = s.endCommand c (.failed .cameraTimeout) := by
  unfold State.failAttempt
  rw [second]

theorem endCommand_entry {e : QueueEntry} {rest : List QueueEntry} (queue : (s.ctl c).queue = e :: rest) (x : CommandEnd) :
    s.endCommand c x = ((s.setCtl c (s.ctl c).idled).endEntry c e x).pumpControl c := by
  have current : ((s.setCtl c (s.ctl c).idled).ctl c).queue = e :: rest := by
    rw [State.setCtl_ctl]
    exact queue
  unfold State.endCommand
  dsimp only
  rw [current]

theorem cameraResponse_idle {packet : List Byte} (idle : (s.ctl c).inFlight = none) : s.cameraResponse c packet = s := by
  unfold State.cameraResponse
  rw [idle]

theorem cameraResponse_failed {packet : List Byte} {k : LaneCommand} (inFlight : (s.ctl c).inFlight = some k)
    (failed : checkResponse k packet = none) : s.cameraResponse c packet = s.failAttempt c := by
  unfold State.cameraResponse
  rw [inFlight]
  dsimp only
  rw [failed]

theorem cameraResponse_ended {packet : List Byte} {k : LaneCommand} {x : CommandEnd} (inFlight : (s.ctl c).inFlight = some k)
    (ended : checkResponse k packet = some x) : s.cameraResponse c packet = s.endCommand c x := by
  unfold State.cameraResponse
  rw [inFlight]
  dsimp only
  rw [ended]

theorem responseTimerExpired_ignored (ignored : s.due (s.ctl c).responseTimer = false ∨ (s.ctl c).inFlight = none) :
    s.responseTimerExpired c = s := by
  refine if_neg fun ⟨due, busy⟩ => ?_
  obtain notDue | idle := ignored
  · rw [notDue] at due
    cases due
  · rw [idle] at busy
    cases busy

theorem responseTimerExpired_due {k : LaneCommand} (due : s.due (s.ctl c).responseTimer = true)
    (inFlight : (s.ctl c).inFlight = some k) : s.responseTimerExpired c = s.failAttempt c :=
  if_pos ⟨due, by rw [inFlight]; rfl⟩

/-! ## The check of a response (R49) -/

/-- A response with an echo, a result and a payload, by its check code, its echo and its result. -/
theorem checkResponse_eq (k : LaneCommand) (echo result check : Byte) (payload : List Byte) :
    checkResponse k (echo :: result :: (payload ++ [check])) =
      if check = crc8 (0x04#8 :: echo :: result :: payload) ∧ echo = k.code then
        if result = 0#8 then if payload.length = k.payloadLength then some (.done payload) else none
        else if result = 1#8 then if payload = [] then some (.failed .cameraRefused) else none
        else none
      else none := by
  have shape : echo :: result :: (payload ++ [check]) = (echo :: result :: payload) ++ [check] := rfl
  unfold checkResponse
  rw [shape, List.getLast?_concat, List.dropLast_concat]
  dsimp only
  refine if_congr (and_congr_left' eq_comm) (if_congr Iff.rfl rfl (if_congr Iff.rfl ?_ rfl)) rfl
  exact if_congr List.length_eq_zero_iff rfl rfl

/-! ## Sending (R48) -/

theorem pumpControl_sends {e : QueueEntry} {rest : List QueueEntry} (idle : (s.ctl c).inFlight = none)
    (queue : (s.ctl c).queue = e :: rest) : s.pumpControl c = s.setCtl c
      { queue := { e with started := true } :: rest, inFlight := some e.work.command, attempt := .first,
        responseTimer := none, unsent := (s.ctl c).unsent + 1 } := by
  unfold State.pumpControl ControlRecord.pump
  rw [idle, queue]

theorem setCtl_self : s.setCtl c (s.ctl c) = s := by
  simp [State.setCtl, State.ctl, State.setControls]

theorem pumpControl_nothing (nothing : (s.ctl c).inFlight ≠ none ∨ (s.ctl c).queue = []) : s.pumpControl c = s := by
  have same : (s.ctl c).pump = s.ctl c := by
    unfold ControlRecord.pump
    split
    · next idle queue =>
      obtain busy | empty := nothing
      · exact absurd idle busy
      · rw [empty] at queue
        cases queue
    · rfl
  rw [State.pumpControl, same, setCtl_self]

theorem EntryWork.command_eq (w : EntryWork) : w.command = match w with
    | .bringUp _ _ _ .identify => LaneCommand.identify
    | .bringUp w h f .configure => .configure w h f
    | .bringUp _ _ _ .streamOn => .streamOn
    | .streamOff => .streamOff
    | .heater on => .heater on
    | .passThrough .identify _ => .identify
    | .passThrough .status _ => .status
    | .passThrough (.heater on) _ => .heater on := by
  cases w with
  | bringUp w h f step => cases step <;> rfl
  | streamOff => rfl
  | heater on => rfl
  | passThrough p j => cases p <;> rfl

/-- Settles O31: the events by what an attempt and an ending do, then the check, the sending and the last byte. -/
theorem cameraResponse : Obligations.CameraResponse := by
  unfold Obligations.CameraResponse
  refine ⟨⟨fun s c packet unasked => ?events, fun k echo result check payload => ?checks⟩, fun s c => ?sends,
    fun s c running => ?lastByte⟩
  case events =>
    intro q again idle
    have response : exec (.cameraResponse c packet) s = .next (s.cameraResponse c packet).sendIfDue := exec_unasked unasked rfl
    have timer : exec (.responseTimerExpiry c) s = .next (s.responseTimerExpired c).sendIfDue := exec_unasked unasked rfl
    refine ⟨fun free => ⟨?_, ?_⟩, fun notDue => ?_, fun k inFlight failed first => ?_,
      fun k d inFlight loaded reached first => ?_, fun k e rest inFlight queue => ⟨fun x ended => ?_, fun second failed => ?_,
        fun d second loaded reached => ?_⟩⟩
    · rw [response, cameraResponse_idle free]
    · rw [timer, responseTimerExpired_ignored (.inr free)]
    · rw [timer, responseTimerExpired_ignored (.inl (due_false notDue))]
    · rw [response, cameraResponse_failed inFlight failed, failAttempt_first first]
      rfl
    · rw [timer, responseTimerExpired_due ((due_iff s _).2 ⟨d, loaded, reached⟩) inFlight, failAttempt_first first]
      rfl
    · rw [response, cameraResponse_ended inFlight ended, endCommand_entry queue]
      rfl
    · rw [response, cameraResponse_failed inFlight failed, failAttempt_second second, endCommand_entry queue]
      rfl
    · rw [timer, responseTimerExpired_due ((due_iff s _).2 ⟨d, loaded, reached⟩) inFlight, failAttempt_second second,
        endCommand_entry queue]
      rfl
  case checks =>
    intro packet good
    have check := checkResponse_eq k echo result check payload
    refine ⟨fun bad => check.trans (if_neg bad), fun passed done length => (check.trans (if_pos passed)).trans ?_,
      fun passed done length => (check.trans (if_pos passed)).trans ?_, fun passed refused empty => (check.trans (if_pos passed)).trans ?_,
      fun passed refused more => (check.trans (if_pos passed)).trans ?_, ?_⟩
    · rw [if_pos done, if_pos length]
    · rw [if_pos done, if_neg length]
    · rw [refused, if_neg (by decide), if_pos rfl, if_pos empty]
    · rw [refused, if_neg (by decide), if_pos rfl, if_neg more]
    · cases k <;> rfl
  case sends =>
    intro q command
    refine ⟨fun e rest idle queue => ?_, pumpControl_nothing⟩
    rw [pumpControl_sends idle queue, EntryWork.command_eq] <;> rfl
  case lastByte =>
    intro q
    have run : exec (.commandLastByteSent c) s = .next (s.setCtl c (q.lastByteSent s.elapsed)) :=
      whenRunning_running _ running
    refine ⟨fun nothing => ?_, fun k one inFlight => ?_, fun one idle => ?_, fun n more => ?_⟩
    · rw [run, ControlRecord.lastByteSent, nothing]
      exact congrArg _ setCtl_self
    · rw [run, ControlRecord.lastByteSent, one, inFlight]
      rfl
    · rw [run, ControlRecord.lastByteSent, one, idle]
      rfl
    · rw [run, ControlRecord.lastByteSent, more]
      rfl

/-! ## Identity and start data (R24, R28) -/

theorem byteOf_eq {n : Nat} {b : Byte} (value : n % 256 = b.toNat) : byteOf n = b :=
  BitVec.eq_of_toNat_eq ((byteOf_toNat n).trans value)

theorem bytes2_word (high low : Byte) : bytes2 (high ++ low).toNat = [high, low] := by
  have := high.isLt
  have := low.isLt
  rw [bytes2, toNat_append_byte, byteOf_eq (b := high) (by omega), byteOf_eq (b := low) (by omega)]

theorem bytes4_word (b3 b2 b1 b0 : Byte) : bytes4 (b3 ++ b2 ++ b1 ++ b0).toNat = [b3, b2, b1, b0] := by
  have := b3.isLt
  have := b2.isLt
  have := b1.isLt
  have := b0.isLt
  rw [bytes4, toNat_append_byte, toNat_append_byte, toNat_append_byte, byteOf_eq (b := b3) (by omega),
    byteOf_eq (b := b2) (by omega), byteOf_eq (b := b1) (by omega), byteOf_eq (b := b0) (by omega)]

theorem identified_bytes (r : CameraRecord) (m1 m0 s3 s2 s1 s0 heater w1 w0 h1 h0 : Byte) :
    r.identified [m1, m0, s3, s2, s1, s0, heater, w1, w0, h1, h0] = { r with
      identity := some ⟨m1 ++ m0, s3 ++ s2 ++ s1 ++ s0⟩, heaterPresent := heater, largest := some ⟨w1 ++ w0, h1 ++ h0⟩ } := by
  rw [← nat2_word m1 m0, ← nat2_word w1 w0, ← nat2_word h1 h0, ← field4_word s3 s2 s1 s0]
  rfl

theorem startData_some {r : CameraRecord} {x : Identity} {g : Largest} (identity : r.identity = some x)
    (largest : r.largest = some g) : r.startData = bytes2 x.model.toNat ++ bytes4 x.serial.toNat ++ [r.heaterPresent] ++
      bytes2 g.width.toNat ++ bytes2 g.height.toNat := by
  unfold CameraRecord.startData
  rw [identity, largest]
  rfl

/-! ## The current entry and its ending (R52 to R59) -/

section
variable {e : QueueEntry} {rest : List QueueEntry} {w h f : Nat} {b : BringUpStep}

theorem popControl_eq (queue : (s.ctl c).queue = e :: rest) :
    s.popControl c = s.setCtl c { s.ctl c with queue := rest } := by
  unfold State.popControl ControlRecord.popped
  rw [queue]
  rfl

theorem withStep_eq {r : ControlRecord} (queue : r.queue = e :: rest) (work : e.work = .bringUp w h f b) (next : BringUpStep) :
    r.withStep next = { r with queue := { e with work := .bringUp w h f next } :: rest } := by
  obtain ⟨entry, started, flushed⟩ := e
  unfold ControlRecord.withStep
  rw [queue]
  dsimp only at work
  rw [work]

theorem endEntry_flushed (x : CommandEnd) (flushed : e.flushed = true) (other : ∀ p j, e.work ≠ .passThrough p j) :
    s.endEntry c e x = s.popControl c := by
  unfold State.endEntry
  rw [if_pos flushed]
  split
  · next p j work => exact absurd work (other p j)
  · rfl

theorem endEntry_passThrough {p : PassCommand} {j : JobId} (x : CommandEnd) (work : e.work = .passThrough p j) :
    s.endEntry c e x = (s.popControl c).endPassThrough p j x := by
  unfold State.endEntry
  rw [work]
  exact ite_self _

theorem endEntry_bringUp (x : CommandEnd) (current : e.flushed = false) (work : e.work = .bringUp w h f b) :
    s.endEntry c e x = s.endBringUpStep c b x := by
  unfold State.endEntry
  rw [if_neg (Bool.eq_false_iff.1 current), work]

theorem endEntry_streamOff (x : CommandEnd) (current : e.flushed = false) (work : e.work = .streamOff) :
    s.endEntry c e x = (s.popControl c).streamOffEnded c x.failure := by
  unfold State.endEntry
  rw [if_neg (Bool.eq_false_iff.1 current), work]

theorem endEntry_heater {on : Bool} (x : CommandEnd) (current : e.flushed = false) (work : e.work = .heater on) :
    s.endEntry c e x = (s.popControl c).heaterResult c on x.heaterOutcome := by
  unfold State.endEntry
  rw [if_neg (Bool.eq_false_iff.1 current), work]

end

/-! ## The ends of bring-ups and stream-offs (R28, R32, R34) -/

theorem beginSearch_eq (r : CameraRecord) (cause : CameraCause) : s.beginSearch c r cause =
    (s.setCam c { r with
      state := .searching, frameTimer := some (s.elapsed + r.setup.frameTimeout), recoveryTimer := none }).raiseCamera c cause := by
  unfold State.beginSearch
  dsimp only
  rw [cameraNotice_other (now := .searching) nofun nofun nofun]
  rfl

theorem bringUpEnded_started (state : (s.cam c).state = .bringUp) : s.bringUpEnded c none =
    (s.beginSearch c { s.cam c with startJob := none } .bringUpOk).endJob? (s.cam c).startJob .ok (s.cam c).startData := by
  unfold State.bringUpEnded
  dsimp only
  rw [state]

theorem bringUpEnded_notStarted (state : (s.cam c).state = .bringUp) (code : FailCode) : s.bringUpEnded c (some code) =
    ((s.setCam c { s.cam c with startJob := none, lastResult := some code }).failCamera c .bringUpFail).endJob?
      (s.cam c).startJob code.jobResult [] := by
  unfold State.bringUpEnded
  dsimp only
  rw [state]

theorem bringUpEnded_recovered (state : (s.cam c).state = .lost) : s.bringUpEnded c none =
    s.beginSearch c { s.cam c with recoveryPending := false } .recoveryOk := by
  unfold State.bringUpEnded
  dsimp only
  rw [state]

theorem bringUpEnded_notRecovered (state : (s.cam c).state = .lost) (code : FailCode) : s.bringUpEnded c (some code) =
    (s.setCam c { s.cam c with recoveryPending := false, lastResult := some code }).failCamera c .recoveryFail := by
  unfold State.bringUpEnded
  dsimp only
  rw [state]

theorem bringUpEnded_running (state : (s.cam c).state = .running) : s.bringUpEnded c none =
    s.setCam c { s.cam c with recoveryPending := false } := by
  unfold State.bringUpEnded
  dsimp only
  rw [state]

/-- A recovery that fails in RUNNING degrades the camera (R32). -/
theorem bringUpEnded_degraded (state : (s.cam c).state = .running) (code : FailCode) : s.bringUpEnded c (some code) =
    (s.setCam c { s.cam c with recoveryPending := false, lastResult := some code, degraded := true, goodRun := 0 }).raiseCameraAll c
      (if (s.cam c).degraded then [] else [.health]) := by
  have causes (r : CameraRecord) : healthCauses r
      { r with recoveryPending := false, lastResult := some code, degraded := true, goodRun := 0 } =
      if r.degraded then [] else [.health] := by
    unfold healthCauses
    cases r.degraded <;> simp
  unfold State.bringUpEnded
  dsimp only
  rw [state]
  dsimp only
  rw [← state, causes]

theorem streamOffEnded_stopping (state : (s.cam c).state = .stopping) (result : Option FailCode) : s.streamOffEnded c result =
    (s.setCam c { s.cam c with state := .off, lastResult := if result.isSome then result else (s.cam c).lastResult }).raiseCamera
      c .stopped := by
  unfold State.streamOffEnded
  dsimp only
  rw [if_pos state, cameraNotice_other (now := .off) nofun nofun nofun]

/-- Settles O32: the current entry hands the ending on, and the end of each kind does the rest. -/
theorem entryEnds : Obligations.EntryEnds := by
  unfold Obligations.EntryEnds
  refine ⟨fun r m1 m0 s3 s2 s1 s0 heater w1 w0 h1 h0 => ⟨identified_bytes .., ?_⟩, fun r x g => startData_some, rfl, rfl,
    fun s c e rest w h f code payload queue => ?_⟩
  · rw [identified_bytes, startData_some rfl rfl, bytes2_word, bytes4_word, bytes2_word, bytes2_word]
    rfl
  · intro r popped stepped searching
    have pops : s.popControl c = popped := popControl_eq queue
    refine ⟨fun flushed other => ?_, fun p j work => ?_, fun current work => ?_, fun current work => ?_,
      fun current work state => ?_, fun current work state => ?_, fun current work state => ?_,
      fun b current work state => ?_, fun b current work state => ?_, fun b current work state => ?_,
      fun current work state => ?_, fun on current work => ?_⟩
    · rw [endEntry_flushed _ flushed other, endEntry_flushed _ flushed other]
      exact ⟨pops, pops⟩
    · rw [endEntry_passThrough _ work, endEntry_passThrough _ work, endEntry_passThrough _ work, pops]
      refine ⟨rfl, rfl, fun other => ?_, fun on heater => heater ▸ rfl⟩
      cases p with
      | heater on => exact absurd rfl (other on)
      | identify | status => rfl
    · rw [endEntry_bringUp _ current work]
      exact congrArg (State.setCtl _ c) (withStep_eq queue work .configure)
    · rw [endEntry_bringUp _ current work]
      exact congrArg (State.setCtl _ c) (withStep_eq queue work .streamOn)
    · rw [endEntry_bringUp _ current work]
      refine (bringUpEnded_started (s := s.popControl c) state).trans ?_
      rw [beginSearch_eq, pops]
      rfl
    · rw [endEntry_bringUp _ current work]
      refine (bringUpEnded_recovered (s := s.popControl c) state).trans ?_
      rw [beginSearch_eq, pops]
      rfl
    · rw [endEntry_bringUp _ current work]
      refine (bringUpEnded_running (s := s.popControl c) state).trans ?_
      rw [pops]
      rfl
    · rw [endEntry_bringUp _ current work]
      refine (bringUpEnded_notStarted (s := s.popControl c) state code).trans ?_
      rw [pops]
      rfl
    · rw [endEntry_bringUp _ current work]
      refine (bringUpEnded_notRecovered (s := s.popControl c) state code).trans ?_
      rw [pops]
      rfl
    · rw [endEntry_bringUp _ current work]
      refine (bringUpEnded_degraded (s := s.popControl c) state code).trans ?_
      rw [pops]
      rfl
    · rw [endEntry_streamOff _ current work, endEntry_streamOff _ current work]
      constructor
      · refine (streamOffEnded_stopping (s := s.popControl c) state _).trans ?_
        rw [pops]
        rfl
      · refine (streamOffEnded_stopping (s := s.popControl c) state _).trans ?_
        rw [pops]
        rfl
    · rw [endEntry_heater _ current work, endEntry_heater _ current work, endEntry_heater _ current work, pops]
      exact ⟨rfl, rfl, rfl⟩

end Sys2Proof.Machine
end

section
/-! The maps and the table of the door unit (spec/04): END_MAP (R63), DOOR_MAP (R62), DOOR_TABLE (R65), DOOR_CHANGE (R66), the expiry of
the freshness timer (R67) and CAB_SET (R71). -/

namespace Sys2Proof.Machine

variable {s : State} {body : List Byte}

/-! ## Camera numbers that may be absent (R192) -/

theorem camOrNone_eq_some {n : Nat} {x : Option Cam}
    (named : (n = 255 ∧ x = none) ∨ ∃ c : Cam, n = c.val ∧ x = some c) : camOrNone n = some x := by
  obtain ⟨rfl, rfl⟩ | ⟨c, rfl, rfl⟩ := named
  · rfl
  · have below := c.isLt
    unfold camOrNone
    rw [if_neg (by omega), camOf_val]
    rfl

theorem camOrNone_eq_none {n : Nat} (illegal : ¬ (n ≤ 13 ∨ n = 255)) : camOrNone n = none := by
  unfold camOrNone
  rw [if_neg (by omega), camOf_above (by omega)]
  rfl

theorem camOrNone_legal {n : Nat} (legal : n ≤ 13 ∨ n = 255) :
    ∃ x, camOrNone n = some x ∧ ((n = 255 ∧ x = none) ∨ ∃ c : Cam, n = c.val ∧ x = some c) := by
  obtain low | rfl := legal
  · have named : (n = 255 ∧ some (⟨n, by omega⟩ : Cam) = none) ∨ ∃ c : Cam, n = c.val ∧ some ⟨n, by omega⟩ = some c :=
      .inr ⟨⟨n, by omega⟩, rfl, rfl⟩
    exact ⟨_, camOrNone_eq_some named, named⟩
  · exact ⟨none, rfl, .inl ⟨rfl, rfl⟩⟩

/-- An alternate that names the camera, or stands without one, by the bytes that carry them (R62). -/
theorem alternate_clash {first second : Nat} {x y : Option Cam}
    (camera : (first = 255 ∧ x = none) ∨ ∃ c : Cam, first = c.val ∧ x = some c)
    (alternate : (second = 255 ∧ y = none) ∨ ∃ c : Cam, second = c.val ∧ y = some c)
    (clash : second ≠ 255 ∧ (second = first ∨ first = 255)) : y.isSome = true ∧ (y = x ∨ x = none) := by
  obtain ⟨present, clash⟩ := clash
  obtain ⟨absent, -⟩ | ⟨c, rfl, rfl⟩ := alternate
  · exact absurd absent present
  · refine ⟨rfl, ?_⟩
    obtain ⟨-, rfl⟩ | ⟨d, rfl, rfl⟩ := camera
    · exact .inr rfl
    · refine .inl (congrArg some (Fin.ext (clash.resolve_right ?_)))
      exact (d.isLt.trans (by decide)).ne

/-! ## END_MAP (R63) -/

section
variable {tag a b : Byte}

theorem serveEndMap_taken {x y : Option Cam} (first : camOrNone a.toNat = some x) (second : camOrNone b.toNat = some y) :
    serveEndMap s tag [a, b] = (s.setDoors { s.doors with endA := x, endB := y }, .ok []) := by
  have fields : camOrNone (field1 [a, b] 0) = some x ∧ camOrNone (field1 [a, b] 1) = some y := ⟨first, second⟩
  unfold serveEndMap
  rw [fields.1, fields.2]

theorem serveEndMap_first (first : camOrNone a.toNat = none) : serveEndMap s tag [a, b] = (s, .badField 0) := by
  have field : camOrNone (field1 [a, b] 0) = none := first
  unfold serveEndMap
  rw [field]
  rfl

theorem serveEndMap_second {x : Option Cam} (first : camOrNone a.toNat = some x) (second : camOrNone b.toNat = none) :
    serveEndMap s tag [a, b] = (s, .badField 1) := by
  have fields : camOrNone (field1 [a, b] 0) = some x ∧ camOrNone (field1 [a, b] 1) = none := ⟨first, second⟩
  unfold serveEndMap
  rw [fields.1, fields.2]
  rfl

end

/-! ## DOOR_MAP (R62) -/

/-- A record of a DOOR_MAP body, read field by field. -/
theorem bodyDoor_eq (body : List Byte) (d : Nat) : bodyDoor body d =
    if 1 < field1 body (4 * d) then .error (4 * d)
    else if 5 < field1 body (4 * d + 1) then .error (4 * d + 1)
    else
      match camOrNone (field1 body (4 * d + 2)), camOrNone (field1 body (4 * d + 3)) with
      | none, _ => .error (4 * d + 2)
      | some _, none => .error (4 * d + 3)
      | some camera, some alternate =>
        if alternate.isSome ∧ (alternate = camera ∨ camera = none) then .error (4 * d + 3)
        else .ok ⟨if field1 body (4 * d) = 0 then .left else .right, field1 body (4 * d + 1), camera, alternate⟩ := by
  unfold bodyDoor sideOf
  by_cases left : field1 body (4 * d) = 0
  · rw [if_pos left, if_neg (by omega), if_pos left] <;> rfl
  · by_cases right : field1 body (4 * d) = 1
    · rw [if_neg left, if_pos right, if_neg (by omega), if_neg left] <;> rfl
    · rw [if_neg left, if_neg right, if_pos (by omega)]

/-- A record that a DOOR_MAP body holds and R62 allows is read as it stands. -/
theorem bodyDoor_ok {d : Nat} {x : DoorMapRecord}
    (side : field1 body (4 * d) = match x.side with | .left => 0 | .right => 1) (rank : field1 body (4 * d + 1) = x.rank)
    (camera : camOrNone (field1 body (4 * d + 2)) = some x.camera)
    (alternate : camOrNone (field1 body (4 * d + 3)) = some x.alternate) (small : x.rank ≤ 5)
    (other : x.alternate ≠ none → x.camera ≠ none ∧ x.alternate ≠ x.camera) : bodyDoor body d = .ok x := by
  have known : ¬ 1 < field1 body (4 * d) := by rw [side]; cases x.side <;> decide
  have same : (if field1 body (4 * d) = 0 then Side.left else .right) = x.side := by rw [side]; cases x.side <;> rfl
  have allowed : ¬ (x.alternate.isSome = true ∧ (x.alternate = x.camera ∨ x.camera = none)) := fun ⟨present, clash⟩ => by
    obtain ⟨ne, differs⟩ := other (Option.isSome_iff_ne_none.1 present)
    exact clash.elim differs ne
  rw [bodyDoor_eq, if_neg known, if_neg (by omega), camera, alternate, same, rank]
  exact if_neg allowed

theorem bodyDoors_ok {l : List Door} {g : Door → DoorMapRecord} (ok : ∀ d ∈ l, bodyDoor body d.val = .ok (g d)) :
    bodyDoors body l = .ok (l.map g) := by
  induction l with
  | nil => rfl
  | cons d rest ih =>
    unfold bodyDoors
    rw [ok d List.mem_cons_self, ih fun e mem => ok e (List.mem_cons_of_mem d mem)]
    rfl

/-- Of records in door order the first that is refused is named. -/
theorem bodyDoors_error {l : List Door} {d : Door} {f : Nat} (order : l.Pairwise (· < ·)) (listed : d ∈ l)
    (refused : bodyDoor body d.val = .error f) (before : ∀ e : Door, e < d → ∃ x, bodyDoor body e.val = .ok x) :
    bodyDoors body l = .error f := by
  induction l with
  | nil => cases listed
  | cons e rest ih =>
    obtain ⟨first, sorted⟩ := List.pairwise_cons.1 order
    unfold bodyDoors
    obtain rfl | behind := List.mem_cons.1 listed
    · rw [refused]
    · obtain ⟨x, ok⟩ := before e (first d behind)
      rw [ok, ih sorted behind]

theorem serveDoorMap_error {tag : Byte} {f : Nat} (refused : bodyDoors body (List.finRange 12) = .error f) :
    serveDoorMap s tag body = (s, .badField f) := by
  unfold serveDoorMap
  rw [refused]
  rfl

theorem serveDoorMap_ok {tag : Byte} {map : Vector DoorMapRecord 12} (ok : ∀ d : Door, bodyDoor body d.val = .ok map[d]) :
    serveDoorMap s tag body = (s.writeDoorMap map, .ok []) := by
  have read := bodyDoors_ok (l := List.finRange 12) (g := fun d => map[d]) fun d _ => ok d
  have whole : (Vector.ofFn fun d : Door =>
      ((List.finRange 12).map fun d : Door => map[d]).getD d.val (DoorMapRecord.reset d)) = map := by
    ext i small
    simp [List.getD]
  unfold serveDoorMap
  rw [read]
  dsimp only
  rw [whole]

theorem writeDoorMap_fresh {map : Vector DoorMapRecord 12} (fresh : s.doors.fresh = true) :
    s.writeDoorMap map = (s.setDoors { s.doors with map := map }).recomputeAttention [.newMap] := if_pos fresh

theorem writeDoorMap_stale {map : Vector DoorMapRecord 12} (stale : s.doors.fresh = false) :
    s.writeDoorMap map = s.setDoors { s.doors with map := map } := if_neg (Bool.eq_false_iff.1 stale)

/-- Settles O33: END_MAP by what each byte names, DOOR_MAP by the first record that is refused. -/
theorem doorAndEndMaps : Obligations.DoorAndEndMaps := by
  unfold Obligations.DoorAndEndMaps
  refine ⟨rfl, rfl, fun s tag a b takes => ?ends, fun s tag body takes length => ?doors⟩
  case ends =>
    intro answered legal named
    have served {t : State} {x : Answer} (block : serveEndMap s tag [a, b] = (t, x)) : answered t x :=
      exec_requestOfKind_served (kind := .endMap) takes (by simp) rfl block
    have illegal {n : Byte} (not : ¬ legal n) : camOrNone n.toNat = none :=
      camOrNone_eq_none fun low => not (low.imp id fun same => BitVec.eq_of_toNat_eq same)
    have reads {n : Byte} {x : Option Cam} (name : named n x) : camOrNone n.toNat = some x :=
      camOrNone_eq_some (name.imp (fun ⟨same, absent⟩ => ⟨same ▸ rfl, absent⟩) id)
    refine ⟨fun first => served (serveEndMap_first (illegal first)), fun first second => ?_,
      fun x y first second => served (serveEndMap_taken (reads first) (reads second))⟩
    obtain ⟨x, read, -⟩ := camOrNone_legal (n := a.toNat) (first.imp id fun (same : a = 0xFF#8) => same ▸ rfl)
    exact served (serveEndMap_second read (illegal second))
  case doors =>
    intro answered camera holds
    have served {t : State} {x : Answer} (block : serveDoorMap s tag body = (t, x)) : answered t x :=
      exec_requestOfKind_served (kind := .doorMap) takes (by omega) (beq_iff_eq.2 length) block
    have reads {d : Door} {x : DoorMapRecord} (held : holds d x) : bodyDoor body d.val = .ok x := by
      obtain ⟨side, rank, first, second, small, other⟩ := held
      exact bodyDoor_ok side rank (camOrNone_eq_some first) (camOrNone_eq_some second) small other
    refine ⟨fun d before => ?_, fun map held => ?_⟩
    · intro side rank first second legal
      have refused {f : Nat} (error : bodyDoor body d.val = .error f) : answered s (.badField f) :=
        served (serveDoorMap_error (bodyDoors_error (List.pairwise_lt_finRange 12) (List.mem_finRange d) error fun e less =>
          (before e less).imp fun x => reads))
      have record := bodyDoor_eq body d.val
      refine ⟨fun unknown => refused (record.trans (if_pos unknown)), fun known large => ?_, fun known small illegal => ?_,
        fun known small legal clash => ?_⟩
      · exact refused (record.trans ((if_neg (by omega)).trans (if_pos large)))
      · rw [if_neg (by omega), if_neg (by omega), camOrNone_eq_none illegal] at record
        exact refused record
      · rw [if_neg (by omega), if_neg (by omega)] at record
        obtain ⟨x, readFirst, namedFirst⟩ := camOrNone_legal legal
        rw [readFirst] at record
        by_cases legalSecond : second ≤ 13 ∨ second = 255
        · obtain ⟨y, readSecond, namedSecond⟩ := camOrNone_legal legalSecond
          rw [readSecond] at record
          exact refused (record.trans (if_pos (alternate_clash namedFirst namedSecond
            (clash.resolve_left (not_not_intro legalSecond)))))
        · rw [camOrNone_eq_none legalSecond] at record
          exact refused record
    · intro t
      have taken := serveDoorMap_ok (s := s) (tag := tag) fun d => reads (held d)
      exact ⟨fun fresh => served (taken.trans (congrArg (·, Answer.ok []) (writeDoorMap_fresh fresh))),
        fun stale => served (taken.trans (congrArg (·, Answer.ok []) (writeDoorMap_stale stale)))⟩

end Sys2Proof.Machine
end

section
/-! The door table and the cab (spec/04): DOOR_TABLE (R65, R69, R76), DOOR_CHANGE (R66, R76), the expiry of the freshness timer (R67) and
CAB_SET (R71, R85, R117). -/

namespace Sys2Proof.Machine

variable {s : State} {body : List Byte}

/-! ## Fields tested in order -/

/-- Of fields tested in the order of their numbers the first that fails is named. -/
theorem firstBad_range {n d : Nat} {bad : Nat → Bool} (within : d < n) (fails : bad d = true)
    (before : ∀ e, e < d → bad e = false) : firstBad ((List.range n).map fun f => (f, bad f)) = some d := by
  have found : (List.range n).find? bad = some d :=
    List.find?_range_eq_some.2 ⟨fails, List.mem_range.2 within, fun e less => by rw [before e less]; rfl⟩
  rw [firstBad, List.find?_map]
  show ((List.range n).find? bad |>.map _ |>.map _) = some d
  rw [found]
  rfl

theorem firstBad_range_none {n : Nat} {bad : Nat → Bool} (pass : ∀ f, f < n → bad f = false) :
    firstBad ((List.range n).map fun f => (f, bad f)) = none :=
  firstBad_none fun p mem => by
    obtain ⟨f, listed, rfl⟩ := List.mem_map.1 mem
    exact pass f (List.mem_range.1 listed)

/-! ## DOOR_TABLE (R65) -/

theorem doorStateOf_eq (n : Nat) :
    doorStateOf n = [DoorState.locked, .released, .open, .closing, .obstructed, .fault][n]? := by
  match n with
  | 0 | 1 | 2 | 3 | 4 | 5 => rfl
  | n + 6 => rfl

theorem doorStateOf_above {n : Nat} (above : 5 < n) : doorStateOf n = none := by
  rw [doorStateOf_eq]
  exact List.getElem?_eq_none above

theorem doorStateOf_isSome {n : Nat} (small : n ≤ 5) : (doorStateOf n).isSome = true := by
  rw [doorStateOf_eq, List.getElem?_eq_getElem (by simpa using Nat.lt_succ_of_le small)]
  rfl

theorem serveDoorTable_refused {tag : Byte} {d : Door} (above : 5 < field1 body d.val)
    (before : ∀ e : Door, e < d → field1 body e.val ≤ 5) : serveDoorTable s tag body = (s, .badField d.val) := by
  have first : firstBad ((List.range 12).map fun f => (f, (bodyState body f).isNone)) = some d.val :=
    firstBad_range d.isLt (by rw [bodyState, doorStateOf_above above]; rfl) fun e less => by
      rw [Option.isNone_eq_false_iff]
      exact doorStateOf_isSome (before ⟨e, by omega⟩ less)
  unfold serveDoorTable
  rw [first]
  rfl

theorem serveDoorTable_taken {tag : Byte} {states : Door → DoorState} (read : ∀ d : Door, bodyState body d.val = some (states d)) :
    serveDoorTable s tag body = (s.writeDoorTable states, .ok []) := by
  have pass : firstBad ((List.range 12).map fun f => (f, (bodyState body f).isNone)) = none :=
    firstBad_range_none fun f small => by rw [read ⟨f, small⟩]; rfl
  have same : (fun d : Door => (bodyState body d.val).getD .locked) = states := funext fun d => by rw [read d]; rfl
  unfold serveDoorTable
  rw [pass, same]

/-- What an entered state triggers, by the door map (R76). -/
def State.triggerFor (s : State) (map : Vector DoorMapRecord 12) (d : Door) (entered : DoorState) : State :=
  match entered, map[d].camera with
  | .obstructed, some c => s.trigger .obstruction c
  | .fault, some c => s.trigger .doorFault c
  | _, _ => s

theorem doorTrigger_eq {map : Vector DoorMapRecord 12} (same : s.doors.map = map) (d : Door) (entered : DoorState) :
    s.doorTrigger d entered = s.triggerFor map d entered := by
  subst same
  rfl

theorem doorTrigger_map (d : Door) (entered : DoorState) : (s.doorTrigger d entered).doors.map = s.doors.map :=
  ((Keeps.refl (p := (· = .doorMap)) s).doorTrigger d entered).same .doorMap rfl

/-- The triggers of the doors whose state changed leave the door map, so that each reads the map as it stood. -/
theorem foldl_doorTrigger {map : Vector DoorMapRecord 12} {changed : Door → Prop} [DecidablePred changed] {states : Door → DoorState}
    (l : List Door) : ∀ {s : State}, s.doors.map = map →
    l.foldl (fun (t : State) (d : Door) => if changed d then t else t.doorTrigger d (states d)) s =
      l.foldl (fun (t : State) (d : Door) => if changed d then t else t.triggerFor map d (states d)) s := by
  induction l with
  | nil => exact fun _ => rfl
  | cons d rest ih =>
    intro s same
    rw [List.foldl_cons, List.foldl_cons, ← doorTrigger_eq same]
    refine ih ?_
    split
    · exact same
    · exact (doorTrigger_map d _).trans same

/-- What a table hands on before its triggers (R69, R75). -/
def State.tableHanded (s : State) (written : State) : State :=
  if s.doors.fresh then written.recomputeAttention [] else written.recomputeToSnapshot.raise .doorStale
    (.doorStale true s.now (some s.now) s.doors.period)

/-- The state with a table written (R65). -/
def State.tableWritten (s : State) (states : Door → DoorState) : State :=
  s.setDoors { s.doors with
    table := Vector.ofFn fun d => if s.doors.table[d].state = states d then s.doors.table[d] else ⟨states d, s.now⟩,
    lastTable := some s.now, fresh := true,
    timer := if s.doors.period = 0 then s.doors.timer else some (s.elapsed + s.doors.period) }

theorem tableWritten_map (states : Door → DoorState) : (s.tableWritten states).doors.map = s.doors.map := by
  rw [State.tableWritten, State.setDoors_doors]

theorem recomputeToSnapshot_keeps (s : State) : Keeps (· ≠ .attention) s s.recomputeToSnapshot :=
  (Keeps.refl s).recomputeToSnapshot (not_not_intro rfl)

theorem recomputeAttention_keeps (s : State) (more : List DoorNotice) :
    Keeps (· ≠ .attention) s (s.recomputeAttention more) :=
  (Keeps.refl s).recomputeAttention more (not_not_intro rfl)

theorem recomputeToSnapshot_map (s : State) : s.recomputeToSnapshot.doors.map = s.doors.map :=
  (recomputeToSnapshot_keeps s).same .doorMap nofun

theorem recomputeAttention_map (s : State) (more : List DoorNotice) : (s.recomputeAttention more).doors.map = s.doors.map :=
  (recomputeAttention_keeps s more).same .doorMap nofun

/-- A snapshot leaves what DOOR_STALE reports (R70). -/
theorem raiseDoorStale_snapshot (s : State) : s.recomputeToSnapshot.raiseDoorStale =
    s.recomputeToSnapshot.raise .doorStale (.doorStale s.doors.fresh s.now s.doors.lastTable s.doors.period) := by
  have kept := recomputeToSnapshot_keeps s
  obtain ⟨fresh, period, -, lastTable⟩ := kept.same .freshness nofun
  have now : s.recomputeToSnapshot.now = s.now := kept.same .timeBase nofun
  rw [State.raiseDoorStale, fresh, period, lastTable, now]

theorem writeDoorTable_eq (s : State) (states : Door → DoorState) : s.writeDoorTable states =
    (List.finRange 12).foldl (fun (t : State) (d : Door) =>
      if s.doors.table[d].state = states d then t else t.triggerFor s.doors.map d (states d))
      (s.tableHanded (s.tableWritten states)) := by
  have handed : (if s.doors.fresh then (s.tableWritten states).recomputeAttention []
      else (s.tableWritten states).recomputeToSnapshot.raiseDoorStale) = s.tableHanded (s.tableWritten states) := by
    rw [raiseDoorStale_snapshot]
    rfl
  have map : (s.tableHanded (s.tableWritten states)).doors.map = s.doors.map := by
    unfold State.tableHanded
    split
    · rw [recomputeAttention_map, tableWritten_map]
    · rw [State.raise, State.setLink_doors, recomputeToSnapshot_map, tableWritten_map]
  refine Eq.trans ?_ (foldl_doorTrigger (List.finRange 12) map)
  rw [← handed]
  rfl

/-- Settles O34. -/
theorem doorTable : Obligations.DoorTable := by
  unfold Obligations.DoorTable
  intro s tag body takes length answered
  have served {t : State} {x : Answer} (block : serveDoorTable s tag body = (t, x)) : answered t x :=
    exec_requestOfKind_served (kind := .doorTable) takes (by omega) (beq_iff_eq.2 length) block
  refine ⟨fun d above before => served (serveDoorTable_refused above before), fun states read => ?_⟩
  intro old table written handed
  have taken := serveDoorTable_taken (s := s) (tag := tag) fun d => (doorStateOf_eq (field1 body d.val)).trans (read d)
  exact served (taken.trans (congrArg (·, Answer.ok []) (writeDoorTable_eq s states)))

/-! ## DOOR_CHANGE (R66) and the expiry of the freshness timer (R67) -/

section
variable {tag n m : Byte} {d : Door}

theorem doorOf_val (d : Door) : doorOf d.val = some d := dif_pos d.isLt

theorem serveDoorChange_door (above : 11 < n.toNat) : serveDoorChange s tag [n, m] = (s, .badField 0) := by
  have field : doorOf (field1 [n, m] 0) = none := dif_neg (by rw [field1_zero]; omega)
  unfold serveDoorChange
  rw [field]
  rfl

theorem serveDoorChange_named (number : n.toNat = d.val) : serveDoorChange s tag [n, m] =
    match doorStateOf m.toNat with
    | none => (s, .badField 1)
    | some st => if s.doors.fresh then (s.writeDoor d st, .ok []) else (s, .state) := by
  have fields : doorOf (field1 [n, m] 0) = some d ∧ field1 [n, m] 1 = m.toNat := ⟨by rw [field1_zero, number, doorOf_val], rfl⟩
  unfold serveDoorChange
  rw [fields.1, fields.2]
  cases doorStateOf m.toNat <;> rfl

theorem writeDoor_same {st : DoorState} (same : s.doors.table[d].state = st) : s.writeDoor d st = s := if_pos same

theorem writeDoor_changed {st : DoorState} (changed : s.doors.table[d].state ≠ st) : s.writeDoor d st =
    ((s.setDoors { s.doors with table := s.doors.table.set d.val ⟨st, s.now⟩ d.isLt }).recomputeAttention []).triggerFor
      s.doors.map d st := by
  have written : s.doors.table[d].write st s.now = ⟨st, s.now⟩ := if_neg changed
  unfold State.writeDoor
  rw [if_neg changed, written]
  exact doorTrigger_eq (recomputeAttention_map (s.setDoors _) []) d st

end

theorem freshnessExpired_ignored (ignored : s.doors.fresh = false ∨ s.due s.doors.timer = false) :
    s.freshnessExpired = s := by
  refine if_neg fun ⟨fresh, due⟩ => ?_
  obtain stale | notDue := ignored
  · rw [stale] at fresh
    cases fresh
  · rw [notDue] at due
    cases due

theorem freshnessExpired_due (fresh : s.doors.fresh = true) (due : s.due s.doors.timer = true) : s.freshnessExpired =
    let t := s.setDoors { s.doors with fresh := false, timer := none, attention := noAttention }
    (match s.doors.activeScreen with
     | none => t
     | some i => t.setSplit i (t.split i).cleared).raiseDoorStale :=
  if_pos ⟨fresh, due⟩

/-- Settles O35. -/
theorem doorChangeAndStaleness : Obligations.DoorChangeAndStaleness := by
  unfold Obligations.DoorChangeAndStaleness
  refine ⟨fun s tag n m takes => ?change, fun s unasked => ?expiry⟩
  case change =>
    intro answered
    have served {t : State} {x : Answer} (block : serveDoorChange s tag [n, m] = (t, x)) : answered t x :=
      exec_requestOfKind_served (kind := .doorChange) takes (by simp) rfl block
    refine ⟨fun above => served (serveDoorChange_door above), fun d number => ?_⟩
    have named := serveDoorChange_named (s := s) (tag := tag) (m := m) number
    refine ⟨fun above => ?_, fun st read => ?_⟩
    · rw [doorStateOf_above above] at named
      exact served named
    · rw [(doorStateOf_eq m.toNat).trans read] at named
      dsimp only at named
      refine ⟨fun stale => ?_, fun fresh same => ?_, fun fresh changed => ?_⟩
      · exact served (named.trans (if_neg (Bool.eq_false_iff.1 stale)))
      · rw [if_pos fresh, writeDoor_same same] at named
        exact served named
      · intro t
        rw [if_pos fresh, writeDoor_changed changed] at named
        have entered {u : State} (triggers : t.triggerFor s.doors.map d st = u) : answered u (.ok []) :=
          served (named.trans (congrArg (·, Answer.ok []) triggers))
        unfold State.triggerFor at entered
        refine ⟨fun c obstructed camera => entered ?_, fun c fault camera => entered ?_, fun quiet => entered ?_⟩
        · rw [obstructed, camera]
        · rw [fault, camera]
        · obtain ⟨notObstructed, notFault⟩ | absent := quiet
          · cases st with
            | obstructed => exact absurd rfl notObstructed
            | fault => exact absurd rfl notFault
            | _ => rfl
          · rw [absent]
            cases st <;> rfl
  case expiry =>
    have run : exec .freshnessTimerExpiry s = .next s.freshnessExpired.sendIfDue := exec_unasked unasked rfl
    refine ⟨fun stale => ?_, fun notDue => ?_, fun d fresh timer reached => ?_⟩
    · rw [run, freshnessExpired_ignored (.inl stale)]
    · rw [run, freshnessExpired_ignored (.inr (due_false notDue))]
    · intro t cleared report
      rw [run, freshnessExpired_due fresh ((due_iff s _).2 ⟨d, timer, reached⟩)]
      refine ⟨fun cab => ?_, fun cab => ?_, fun cab => ?_⟩
      all_goals
        rw [DoorUnit.activeScreen, cab]
        rfl

/-! ## CAB_SET (R71, R85, R117) -/

theorem cabOf_eq (n : Nat) : cabOf n = [Cab.none, .a, .b][n]? := by
  match n with
  | 0 | 1 | 2 => rfl
  | n + 3 => simp [cabOf]

theorem activeScreen_iff {d : DoorUnit} {i : ScreenId} :
    d.activeScreen = some i ↔ (d.cab = .a ∧ i = .a) ∨ (d.cab = .b ∧ i = .b) := by
  unfold DoorUnit.activeScreen
  cases d.cab <;> cases i <;> decide

theorem serveCabSet_named {tag n : Byte} {cab : Cab} (named : [Cab.none, .a, .b][n.toNat]? = some cab) :
    serveCabSet s tag [n] = (s.setCab cab, .ok []) := by
  have field : cabOf (field1 [n] 0) = some cab := (cabOf_eq n.toNat).trans named
  unfold serveCabSet
  rw [field]

theorem serveCabSet_refused {tag n : Byte} (above : 2 < n.toNat) : serveCabSet s tag [n] = (s, .badField 0) := by
  have field : cabOf (field1 [n] 0) = none := (cabOf_eq n.toNat).trans (List.getElem?_eq_none above)
  unfold serveCabSet
  rw [field]
  rfl

/-- The screen of the cab that is left: its split is cleared, and its output frame cut (R85, R117). -/
def State.leaveScreen (s : State) (i : ScreenId) : State :=
  if (s.screen i).view.mode = .split then ((s.setSplit i SplitRecord.reset).endOutputFrame i).startOutputFrame i true
  else s.setSplit i SplitRecord.reset

theorem cutOutputFrame_cleared (i : ScreenId) : (s.setSplit i (s.split i).cleared).cutOutputFrame i = s.leaveScreen i := by
  unfold State.cutOutputFrame State.leaveScreen
  rw [State.setSplit_screen]
  rfl

theorem leaveScreen_fresh (i : ScreenId) : (s.leaveScreen i).doors.fresh = s.doors.fresh := by
  have cleared : Keeps (· ≠ .attention) s (s.setSplit i (s.split i).cleared) :=
    (Keeps.refl s).setSplit i _ fun _ => SplitRecord.cleared_bounded _
  rw [← cutOutputFrame_cleared]
  exact ((cleared.cutOutputFrame i).same .freshness nofun).1

theorem leaveScreen_setDoors (d : DoorUnit) (i : ScreenId) : (s.setDoors d).leaveScreen i =
    if (s.screen i).view.mode = .split then
      (((s.setDoors d).setSplit i ⟨[], none, [], none⟩).endOutputFrame i).startOutputFrame i true
    else (s.setDoors d).setSplit i ⟨[], none, [], none⟩ := by
  cases i <;> rfl

/-- Attention is recomputed for the new active screen while the table is FRESH (R71). -/
def State.cabReady (s t : State) : State := if s.doors.fresh then t.recomputeToSnapshot else t

theorem setCab_fromNone {cab : Cab} (changed : s.doors.cab ≠ cab) (old : s.doors.activeScreen = none) :
    s.setCab cab = s.cabReady (s.setDoors { s.doors with cab := cab }) := by
  unfold State.setCab
  rw [if_neg changed, old]
  rfl

theorem cabReady_eq {t : State} (same : t.doors.fresh = s.doors.fresh) :
    (if t.doors.fresh then t.recomputeToSnapshot else t) = s.cabReady t := by
  simp only [State.cabReady, same]

theorem setCab_fromScreen {cab : Cab} {i : ScreenId} (changed : s.doors.cab ≠ cab) (old : s.doors.activeScreen = some i) :
    s.setCab cab = s.cabReady ((s.setDoors { s.doors with cab := cab }).leaveScreen i) := by
  have fresh := leaveScreen_fresh (s := s.setDoors { s.doors with cab := cab }) i
  unfold State.setCab
  rw [if_neg changed, old]
  rw [← cutOutputFrame_cleared] at fresh ⊢
  exact cabReady_eq fresh

/-- Settles O37. -/
theorem cabSet : Obligations.CabSet := by
  unfold Obligations.CabSet
  refine ⟨fun d i => activeScreen_iff, fun s tag n takes => ?_⟩
  intro answered cleared
  have served {t : State} {x : Answer} (block : serveCabSet s tag [n] = (t, x)) : answered t x :=
    exec_requestOfKind_served (kind := .cabSet) takes (by simp) rfl block
  refine ⟨fun above => served (serveCabSet_refused above), fun cab named => ?_⟩
  have taken {t : State} (sets : s.setCab cab = t) : answered t (.ok []) :=
    served ((serveCabSet_named named).trans (congrArg (·, Answer.ok []) sets))
  refine ⟨fun same => taken (if_pos same), fun changed => ?_⟩
  intro driven left ready
  have fromScreen {i : ScreenId} (old : s.doors.activeScreen = some i) : answered (ready (left i)) (.ok []) := by
    have sets := setCab_fromScreen changed old
    rw [leaveScreen_setDoors] at sets
    exact taken sets
  exact ⟨fun old => taken (setCab_fromNone changed (by rw [DoorUnit.activeScreen, old])),
    fun old => fromScreen (activeScreen_iff.2 (.inl ⟨old, rfl⟩)), fun old => fromScreen (activeScreen_iff.2 (.inr ⟨old, rfl⟩))⟩

end Sys2Proof.Machine
end

section
/-! Attention (spec/04): the attention of a camera (R74), the outcomes of a recompute (R75), attention order (R72), and to whom a
recompute hands its outcomes (R69, R71, R75, R126). -/

namespace Sys2Proof.Machine

/-! ## The attention of a camera (R74) -/

/-- An attention is at least as urgent as another, and at class 2 FAULT decides. -/
def Attention.Dominates (a b : Attention) : Prop :=
  a.cls.number ≤ b.cls.number ∧ (a.cls = .two → b = ⟨.two, .fault⟩ → a.deciding = .fault)

theorem Attention.better_left {a b x : Attention} (dominates : a.Dominates x) : (a.better b).Dominates x := by
  obtain ⟨le, fault⟩ := dominates
  unfold Attention.better
  split
  · next better =>
    obtain less | ⟨equal, deciding⟩ := better
    · refine ⟨(less.trans_le le).le, fun two same => absurd less ?_⟩
      rw [two, not_lt]
      rw [same] at le
      exact le
    · exact ⟨equal.trans_le le, fun _ _ => deciding⟩
  · exact ⟨le, fault⟩

theorem Attention.better_right (a b : Attention) : (a.better b).Dominates b := by
  unfold Attention.better
  split
  · exact ⟨le_rfl, fun _ same => by rw [same]⟩
  · next notBetter =>
    rw [not_or, not_lt] at notBetter
    obtain ⟨le, notFault⟩ := notBetter
    refine ⟨le, fun two same => absurd ⟨?_, ?_⟩ notFault⟩
    · rw [two, same]
    · rw [same]

theorem Attention.better_eq (a b : Attention) : a.better b = a ∨ a.better b = b := by
  unfold Attention.better
  split
  · exact .inr rfl
  · exact .inl rfl

/-- The best of the attentions that a list of doors gives. -/
def BestOf (given : Door → Attention → Prop) (l : List Door) (best : Option Attention) : Prop :=
  (best = none ↔ ∀ i ∈ l, ∀ a, ¬ given i a) ∧
  ∀ a, best = some a → (∃ i, given i a) ∧ ∀ i ∈ l, ∀ b, given i b → a.Dominates b

section
variable {given : Door → Attention → Prop} {l : List Door} {best : Option Attention} {i : Door}

theorem BestOf.nil : BestOf given [] none :=
  ⟨iff_of_true rfl fun _ mem => absurd mem List.not_mem_nil, nofun⟩

theorem BestOf.skip (h : BestOf given l best) (nothing : ∀ a, ¬ given i a) : BestOf given (l ++ [i]) best := by
  refine ⟨h.1.trans ⟨fun none j mem => ?_, fun none j mem => none j (List.mem_append_left _ mem)⟩,
    fun a is => ⟨(h.2 a is).1, fun j mem b gives => ?_⟩⟩
  · obtain before | last := List.mem_append.1 mem
    · exact none j before
    · rw [List.mem_singleton.1 last]
      exact nothing
  · obtain before | last := List.mem_append.1 mem
    · exact (h.2 a is).2 j before b gives
    · rw [List.mem_singleton.1 last] at gives
      exact absurd gives (nothing b)

theorem BestOf.add {a : Attention} (h : BestOf given l best) (only : ∀ b, given i b ↔ b = a) :
    BestOf given (l ++ [i]) (betterOf best (some a)) := by
  have gives : given i a := (only a).2 rfl
  have last {j : Door} {b : Attention} (mem : j ∈ [i]) (given : given j b) : b = a := by
    rw [List.mem_singleton.1 mem] at given
    exact (only b).1 given
  have chosen {x : Attention} (is : betterOf best (some a) = some x) (found : ∃ j, given j x) (beats : x.Dominates a)
      (before : ∀ j ∈ l, ∀ b, given j b → x.Dominates b) : BestOf given (l ++ [i]) (betterOf best (some a)) := by
    rw [is]
    refine ⟨iff_of_false nofun fun none => none i (by simp) a gives, fun y same => ?_⟩
    obtain rfl := Option.some.inj same
    refine ⟨found, fun j mem b given => ?_⟩
    obtain earlier | own := List.mem_append.1 mem
    · exact before j earlier b given
    · rw [last own given]
      exact beats
  cases best with
  | none =>
    obtain ⟨bare, -⟩ := h
    exact chosen rfl ⟨i, gives⟩ ⟨le_rfl, fun _ same => by rw [same]⟩ fun j mem b given => absurd given (bare.1 rfl j mem b)
  | some y =>
    obtain ⟨found, beats⟩ := h.2 y rfl
    refine chosen rfl ?_ (y.better_right a) fun j mem b given => Attention.better_left (beats j mem b given)
    obtain same | same := y.better_eq a
    · rw [same]; exact found
    · rw [same]; exact ⟨i, gives⟩

end

theorem attentionOf_best (d : DoorUnit) (released : Bool) (c : Cam) :
    BestOf (fun i a => d.map[i].camera = some c ∧ d.table[i].state.attention released = some a) (List.finRange 12)
      (d.attentionOf released c) := by
  unfold DoorUnit.attentionOf
  induction List.finRange 12 using List.reverseRecOn with
  | nil => exact BestOf.nil
  | append_singleton l i ih =>
    rw [List.foldl_concat]
    by_cases mapped : d.map[i].camera = some c
    · rw [if_pos mapped]
      cases gives : d.table[i].state.attention released with
      | none =>
        have same (best : Option Attention) : betterOf best none = best := by cases best <;> rfl
        rw [same]
        exact ih.skip fun a ⟨_, given⟩ => by rw [gives] at given; cases given
      | some a =>
        refine ih.add fun b => ⟨fun ⟨_, given⟩ => ?_, fun same => ⟨mapped, same ▸ gives⟩⟩
        exact Option.some.inj (given.symm.trans gives)
    · rw [if_neg mapped]
      exact ih.skip fun a ⟨own, _⟩ => mapped own

/-! ## Attention order (R72) -/

section
variable {d : DoorUnit} {c : Cam}

theorem orderKey_injective (d : DoorUnit) : Function.Injective d.orderKey := fun x y same => by
  have hx := x.isLt
  have hy := y.isLt
  unfold DoorUnit.orderKey at same
  dsimp only at same
  exact Fin.ext (by omega)

theorem mem_attentionOrder (d : DoorUnit) (c : Cam) : c ∈ d.attentionOrder :=
  (sortByKey_perm d.orderKey allCams).mem_iff.2 (List.mem_finRange c)

theorem attentionOrder_sorted (d : DoorUnit) : d.attentionOrder.Pairwise fun x y => d.orderKey x < d.orderKey y := by
  have distinct : d.attentionOrder.Nodup := (sortByKey_perm d.orderKey allCams).nodup_iff.2 (List.nodup_finRange 14)
  refine ((sortByKey_sorted d.orderKey allCams).and distinct).imp fun ⟨le, ne⟩ => ?_
  exact le.lt_of_ne fun same => ne (orderKey_injective d same)

theorem find?_first {n : Nat} {l : List (Fin n)} {p : Fin n → Bool} {i : Fin n} (sorted : l.Pairwise (· < ·)) (listed : i ∈ l)
    (holds : p i = true) (first : ∀ j, j < i → p j = false) : l.find? p = some i := by
  induction l with
  | nil => cases listed
  | cons j rest ih =>
    obtain ⟨before, sorted⟩ := List.pairwise_cons.1 sorted
    obtain rfl | behind := List.mem_cons.1 listed
    · exact List.find?_cons_of_pos holds
    · rw [List.find?_cons_of_neg (by rw [first j (before i behind)]; decide)]
      exact ih sorted behind

theorem firstDoor_some {i : Door} (mapped : d.map[i].camera = some c) (first : ∀ j : Door, j < i → d.map[j].camera ≠ some c) :
    d.firstDoor c = some i := by
  exact find?_first (List.pairwise_lt_finRange 12) (List.mem_finRange i) (by simpa using mapped) fun j less => by
    simpa using first j less

theorem firstDoor_none (unmapped : ∀ i : Door, d.map[i].camera ≠ some c) : d.firstDoor c = none :=
  List.find?_eq_none.2 fun i _ => by simpa using unmapped i

theorem orderKey_mapped {i : Door} (first : d.firstDoor c = some i) :
    d.orderKey c = (2 * d.driverRank i + d.driverSide i) * 14 + c.val := by
  unfold DoorUnit.orderKey
  rw [first, Nat.mul_comm 2]

theorem orderKey_unmapped (unmapped : d.firstDoor c = none) : d.orderKey c = 12 * 14 + c.val := by
  unfold DoorUnit.orderKey
  rw [unmapped]

theorem driverRank_eq (i : Door) : d.driverRank i = if d.cab = .b then 5 - d.map[i].rank else d.map[i].rank := by
  unfold DoorUnit.driverRank
  cases d.cab <;> rfl

theorem driverSide_eq (i : Door) : d.driverSide i =
    if (if d.cab = .b then d.map[i].side = .right else d.map[i].side = .left) then 0 else 1 := by
  unfold DoorUnit.driverSide
  cases d.cab <;> cases d.map[i].side <;> rfl

end

/-! ## The outcomes of a recompute (R75) -/

namespace DoorUnit

/-- The cameras that depart, in attention order. -/
def departures (d : DoorUnit) (after : Vector (Option Attention) 14) : List Cam :=
  d.attentionOrder.filterMap fun c => match d.attention[c], after[c] with
    | some _, none => some c
    | _, _ => none

/-- The cameras whose attention changes, in attention order. -/
def changes (d : DoorUnit) (after : Vector (Option Attention) 14) : List (Cam × Attention) :=
  d.attentionOrder.filterMap fun c => match d.attention[c], after[c] with
    | some a, some b => if a = b then none else some (c, b)
    | _, _ => none

/-- The cameras that join with their attention, in attention order. -/
def joins (d : DoorUnit) (after : Vector (Option Attention) 14) : List (Cam × Attention) :=
  d.attentionOrder.filterMap fun c => match d.attention[c], after[c] with
    | none, some b => some (c, b)
    | _, _ => none

variable {d : DoorUnit} {after : Vector (Option Attention) 14} {c : Cam} {a : Attention}

theorem mem_departures : c ∈ d.departures after ↔ d.attention[c] ≠ none ∧ after[c] = none := by
  unfold departures
  rw [List.mem_filterMap]
  constructor
  · rintro ⟨x, -, departs⟩
    split at departs
    · next old new =>
      obtain rfl := Option.some.inj departs
      exact ⟨by rw [old]; nofun, new⟩
    · cases departs
  · rintro ⟨old, new⟩
    obtain ⟨b, old⟩ := Option.ne_none_iff_exists'.1 old
    exact ⟨c, mem_attentionOrder d c, by rw [old, new]⟩

theorem mem_changes : (c, a) ∈ d.changes after ↔ after[c] = some a ∧ ∃ b, d.attention[c] = some b ∧ b ≠ a := by
  unfold changes
  rw [List.mem_filterMap]
  constructor
  · rintro ⟨x, -, changes⟩
    split at changes
    · next b _ old new =>
      split at changes
      · cases changes
      · next other =>
        cases changes
        exact ⟨new, b, old, other⟩
    · cases changes
  · rintro ⟨new, b, old, other⟩
    exact ⟨c, mem_attentionOrder d c, by rw [old, new]; exact if_neg other⟩

theorem mem_joins : (c, a) ∈ d.joins after ↔ d.attention[c] = none ∧ after[c] = some a := by
  unfold joins
  rw [List.mem_filterMap]
  constructor
  · rintro ⟨x, -, joins⟩
    split at joins
    · next old new =>
      cases joins
      exact ⟨old, new⟩
    · cases joins
  · rintro ⟨old, new⟩
    exact ⟨c, mem_attentionOrder d c, by rw [old, new]⟩

theorem notices_eq (d : DoorUnit) (after : Vector (Option Attention) 14) : d.notices after =
    (d.departures after).map DoorNotice.departure ++ (d.changes after).map (fun p => .change p.1 p.2) ++
      (d.joins after).map fun p => .join p.1 p.2 := by
  unfold notices departures changes joins
  dsimp only
  generalize d.attentionOrder = order
  rw [List.map_filterMap, List.map_filterMap, List.map_filterMap]
  congr 2
  · congr 1
    funext c
    cases d.attention[c] <;> cases after[c] <;> rfl
  · congr 1
    funext c
    cases d.attention[c] with
    | none => rfl
    | some a =>
      cases after[c] with
      | none => rfl
      | some b =>
        dsimp only
        split <;> rfl
  · funext c
    cases d.attention[c] <;> cases after[c] <;> rfl

/-- Items read from a list in its order. -/
theorem filterMap_sublist {α β : Type} {g : α → Option β} {f : β → α} (l : List α) (reads : ∀ x y, g x = some y → f y = x) :
    ((l.filterMap g).map f).Sublist l := by
  induction l with
  | nil => exact List.Sublist.refl []
  | cons x rest ih =>
    cases gives : g x with
    | none =>
      rw [List.filterMap_cons_none gives]
      exact ih.cons x
    | some y =>
      rw [List.filterMap_cons_some gives, List.map_cons, reads x y gives]
      exact ih.cons_cons x

theorem departures_sublist : (d.departures after).Sublist d.attentionOrder := by
  rw [← List.map_id (d.departures after)]
  refine filterMap_sublist _ fun x y reads => ?_
  split at reads
  · exact (Option.some.inj reads).symm
  · cases reads

theorem changes_sublist : ((d.changes after).map (·.1)).Sublist d.attentionOrder :=
  filterMap_sublist _ fun x y reads => by
    split at reads
    · split at reads
      · cases reads
      · rw [← Option.some.inj reads]
    · cases reads

theorem joins_sublist : ((d.joins after).map (·.1)).Sublist d.attentionOrder :=
  filterMap_sublist _ fun x y reads => by
    split at reads
    · rw [← Option.some.inj reads]
    · cases reads

theorem joinsOf_notices : joinsOf (d.notices after) =
    d.attentionOrder.filter fun c => decide (d.attention[c] = none ∧ after[c] ≠ none) := by
  have departs (l : List Cam) : joinsOf (l.map .departure) = [] :=
    List.filterMap_map.trans (List.filterMap_eq_nil_iff.2 fun _ _ => rfl)
  have changes (l : List (Cam × Attention)) : joinsOf (l.map fun p => .change p.1 p.2) = [] :=
    List.filterMap_map.trans (List.filterMap_eq_nil_iff.2 fun _ _ => rfl)
  have joins (l : List (Cam × Attention)) : joinsOf (l.map fun p => .join p.1 p.2) = l.map (·.1) :=
    List.filterMap_map.trans (congrFun (List.filterMap_eq_map (f := fun p : Cam × Attention => p.1)) l)
  have append (l m : List DoorNotice) : joinsOf (l ++ m) = joinsOf l ++ joinsOf m := List.filterMap_append
  rw [notices_eq, append, append, departs, changes, joins, DoorUnit.joins, List.map_filterMap, ← List.filterMap_eq_filter]
  generalize d.attentionOrder = order
  refine List.filterMap_congr fun c _ => ?_
  unfold Option.guard
  simp only [decide_eq_true_eq]
  by_cases old : d.attention[c] = none <;> by_cases new : after[c] = none
  · rw [old, new]; rfl
  · obtain ⟨a, is⟩ := Option.ne_none_iff_exists'.1 new
    rw [if_pos ⟨old, new⟩, old, is]
    rfl
  · obtain ⟨b, is⟩ := Option.ne_none_iff_exists'.1 old
    rw [if_neg fun both => old both.1, is, new]
    rfl
  · obtain ⟨b, is⟩ := Option.ne_none_iff_exists'.1 old
    obtain ⟨a, now⟩ := Option.ne_none_iff_exists'.1 new
    rw [if_neg fun both => old both.1, is, now]
    rfl

end DoorUnit

/-! ## To whom a recompute hands its outcomes (R69, R71, R75, R126) -/

section
variable {s : State}

theorem showsReleased_eq (s : State) : s.showsReleased =
    match s.doors.cab with
    | .none => false
    | .a => (s.screen .a).setup.showReleased
    | .b => (s.screen .b).setup.showReleased := by
  unfold State.showsReleased DoorUnit.activeScreen
  cases s.doors.cab <;> rfl

/-- The state with every camera's attention written (R75). -/
def State.attentionWritten (s : State) : State := s.setDoors { s.doors with attention := s.recomputed }

/-- The cameras that a recompute finds joined, in attention order (R75). -/
def State.joined (s : State) : List Cam :=
  s.doors.attentionOrder.filter fun c => decide (s.doors.attention[c] = none ∧ s.recomputed[c] ≠ none)

theorem recomputeAttention_eq (s : State) (more : List DoorNotice) : s.recomputeAttention more =
    (s.attentionWritten.handNotices (s.doors.notices s.recomputed ++ more)).handJoins s.joined := by
  rw [State.joined, ← DoorUnit.joinsOf_notices]
  rfl

theorem recomputeToSnapshot_eq (s : State) : s.recomputeToSnapshot = s.attentionWritten.handSnapshot.handJoins s.joined := by
  rw [State.joined, ← DoorUnit.joinsOf_notices]
  rfl

theorem handNotices_nil : s.handNotices [] = s := by
  unfold State.handNotices
  split <;> rfl

theorem handNotices_none (notices : List DoorNotice) (cab : s.doors.activeScreen = none) : s.handNotices notices = s := by
  unfold State.handNotices
  rw [cab]

theorem handNotices_some {notices : List DoorNotice} {i : ScreenId} (cab : s.doors.activeScreen = some i) (some : notices ≠ []) :
    s.handNotices notices = s.plannerBatch i notices := by
  unfold State.handNotices
  rw [cab]
  exact if_neg (by simpa using some)

theorem handSnapshot_none (cab : s.doors.activeScreen = none) : s.handSnapshot = s := by
  unfold State.handSnapshot
  rw [cab]

theorem handSnapshot_some {i : ScreenId} (cab : s.doors.activeScreen = some i) :
    s.handSnapshot = s.setSplit i ((s.split i).snapshot s.doors s.now s.doors.inAttention) := by
  unfold State.handSnapshot
  rw [cab]

theorem joined_nil (quiet : s.doors.notices s.recomputed = []) : s.joined = [] := by
  rw [State.joined, ← DoorUnit.joinsOf_notices, quiet]
  rfl

theorem inAttention_written (s : State) : s.attentionWritten.doors.inAttention =
    s.doors.attentionOrder.filterMap fun c => s.recomputed[c].map fun a => (c, a) := rfl

theorem recompute_quiet {more : List DoorNotice} (quiet : s.doors.notices s.recomputed ++ more = []) :
    s.recomputeAttention more = s.attentionWritten := by
  rw [recomputeAttention_eq, quiet, handNotices_nil, joined_nil (List.append_eq_nil_iff.1 quiet).1]
  rfl

theorem recompute_noCab (cab : s.doors.activeScreen = none) (more : List DoorNotice) :
    s.recomputeAttention more = s.attentionWritten.handJoins s.joined ∧
    s.recomputeToSnapshot = s.attentionWritten.handJoins s.joined := by
  have active : s.attentionWritten.doors.activeScreen = none := cab
  rw [recomputeAttention_eq, recomputeToSnapshot_eq, handNotices_none _ active, handSnapshot_none active]
  exact ⟨rfl, rfl⟩

/-- What a recompute, to notices and to a snapshot, makes with the cab of a screen. -/
theorem recompute_active {i : ScreenId} (cab : s.doors.activeScreen = some i) (more : List DoorNotice) :
    s.recomputeToSnapshot = (s.attentionWritten.setSplit i ((s.attentionWritten.split i).snapshot s.attentionWritten.doors s.now
      (s.doors.attentionOrder.filterMap fun c => s.recomputed[c].map fun a => (c, a)))).handJoins s.joined ∧
    (s.doors.notices s.recomputed ++ more ≠ [] → s.recomputeAttention more =
      (s.attentionWritten.plannerBatch i (s.doors.notices s.recomputed ++ more)).handJoins s.joined) := by
  have active : s.attentionWritten.doors.activeScreen = some i := cab
  exact ⟨by rw [recomputeToSnapshot_eq, handSnapshot_some active, inAttention_written]; rfl,
    fun outcomes => by rw [recomputeAttention_eq, handNotices_some active outcomes]⟩

end

/-- Settles O38. -/
theorem cameraAttention : Obligations.CameraAttention := by
  unfold Obligations.CameraAttention
  refine ⟨fun released => ⟨rfl, rfl, rfl, rfl, rfl, rfl⟩, fun d released c => ?best, fun d after => ?notices, fun d => ?order,
    fun s more => ?recompute⟩
  case best =>
    obtain ⟨none, some⟩ := attentionOf_best d released c
    exact ⟨none.trans ⟨fun h i => h i (List.mem_finRange i), fun h i _ => h i⟩,
      fun a is => ⟨(some a is).1, fun i => (some a is).2 i (List.mem_finRange i)⟩⟩
  case notices =>
    refine ⟨fun c => ?_, fun c a => ?_, fun c a => ?_, d.departures after, d.changes after, d.joins after, d.notices_eq after,
      DoorUnit.departures_sublist, DoorUnit.changes_sublist, DoorUnit.joins_sublist⟩
    · rw [← DoorUnit.mem_departures, DoorUnit.notices_eq]
      simp
    · rw [← DoorUnit.mem_changes, DoorUnit.notices_eq]
      simp
    · rw [← DoorUnit.mem_joins, DoorUnit.notices_eq]
      simp
  case order =>
    refine ⟨mem_attentionOrder d, attentionOrder_sorted d, fun c => ⟨fun i mapped first => ?_, fun unmapped =>
      orderKey_unmapped (firstDoor_none unmapped)⟩⟩
    intro rank left
    have key := orderKey_mapped (firstDoor_some mapped first)
    rw [driverRank_eq, driverSide_eq] at key
    exact ⟨fun is => key.trans (by rw [if_pos is]), fun isNot => key.trans (by rw [if_neg isNot])⟩
  case recompute =>
    intro released after
    have same : s.recomputed = after := by rw [State.recomputed, showsReleased_eq] <;> rfl
    clear_value after
    subst same
    intro notices written joined listed queued snapshot
    have active (i : ScreenId) (cab : s.doors.activeScreen = some i) := recompute_active cab more
    exact ⟨recompute_quiet, fun cab => recompute_noCab (by rw [DoorUnit.activeScreen, cab]) more,
      fun cab => active .a (activeScreen_iff.2 (.inl ⟨cab, rfl⟩)), fun cab => active .b (activeScreen_iff.2 (.inr ⟨cab, rfl⟩))⟩

end Sys2Proof.Machine
end

section
/-! The settings of screens and layouts (spec/05): SCREEN_SETUP (R81) and LAYOUT_WRITE (R87). -/

namespace Sys2Proof.Machine

variable {s : State} {tag : Byte} {body : List Byte}

/-! ## Codes and absent layouts (R191, R192) -/

theorem flagOf_isNone {n : Nat} : (flagOf n).isNone = true ↔ 1 < n := by
  unfold flagOf
  split
  · next zero => simp [zero]
  · split
    · next one => simp [one]
    · next notZero notOne =>
      simp only [Option.isNone_none, true_iff]
      omega

theorem flagOf_getD (n : Nat) : (flagOf n).getD false = decide (n = 1) := by
  unfold flagOf
  split
  · next zero => simp [zero]
  · split
    · next one => simp [one]
    · next notZero notOne => simp [notOne]

theorem layoutOrNone_eq_some {n : Nat} {x : Option LayoutNo}
    (named : (n = 255 ∧ x = none) ∨ ∃ l : LayoutNo, n = l.val ∧ x = some l) : layoutOrNone n = some x := by
  obtain ⟨rfl, rfl⟩ | ⟨l, rfl, rfl⟩ := named
  · rfl
  · have below := l.isLt
    unfold layoutOrNone
    rw [if_neg (by omega), layoutOf_val]
    rfl

theorem layoutOrNone_isNone {n : Nat} : (layoutOrNone n).isNone = true ↔ ¬ (n ≤ 15 ∨ n = 255) := by
  by_cases legal : n ≤ 15 ∨ n = 255
  · have named : ∃ x, layoutOrNone n = some x := by
      obtain low | absent := legal
      · exact ⟨_, layoutOrNone_eq_some (.inr ⟨⟨n, by omega⟩, rfl, rfl⟩)⟩
      · exact ⟨none, layoutOrNone_eq_some (.inl ⟨absent, rfl⟩)⟩
    obtain ⟨x, named⟩ := named
    rw [named]
    simp [legal]
  · unfold layoutOrNone
    rw [if_neg (by omega), layoutOf_above (by omega)]
    simp [legal]

theorem screenOf_named {n : Nat} {i : ScreenId} (named : n = match i with | .a => 0 | .b => 1) : screenOf n = some i := by
  cases i <;> rw [named] <;> rfl

/-! ## SCREEN_SETUP (R81) -/

theorem screenSetupFault_eq (body : List Byte) : screenSetupFault body =
    if 1 < field1 body 1 then some 1
    else if ¬(800 ≤ field2 body 2 ∧ field2 body 2 ≤ 1920 ∧ field2 body 2 % 16 = 0) then some 2
    else if ¬(480 ≤ field2 body 4 ∧ field2 body 4 ≤ 1200 ∧ field2 body 4 % 8 = 0) then some 3
    else if ¬(field1 body 6 = 25 ∨ field1 body 6 = 30) then some 4
    else if 20000 < field2 body 7 then some 5
    else if ¬(100 ≤ field2 body 9 ∧ field2 body 9 ≤ 5000) then some 6
    else if ¬(field1 body 11 ≤ 15 ∨ field1 body 11 = 255) then some 7
    else if 1 < field1 body 12 then some 8
    else none := by
  have tests {n low high : Nat} : outside n low high = true ↔ ¬(low ≤ n ∧ n ≤ high) := by rw [outside_iff]; omega
  unfold screenSetupFault bodyScreenSetup
  simp only [firstBad_cons, firstBad_nil]
  refine if_congr flagOf_isNone rfl (if_congr ?_ rfl (if_congr ?_ rfl (if_congr ?_ rfl (if_congr decide_eq_true_iff rfl
    (if_congr tests rfl (if_congr layoutOrNone_isNone rfl (if_congr flagOf_isNone rfl rfl)))))))
  · simp only [Bool.or_eq_true, tests, bne_iff_ne]
    omega
  · simp only [Bool.or_eq_true, tests, bne_iff_ne]
    omega
  · simp only [Bool.and_eq_true, bne_iff_ne]
    omega

theorem serveScreenSetup_screen {i : ScreenId} (named : field1 body 0 = match i with | .a => 0 | .b => 1) :
    serveScreenSetup s tag body = match screenSetupFault body with
      | some f => (s, .badField f)
      | none => if (bodyScreenSetup body).fallback.any (fun l => s.layouts[l].isEmpty) then (s, .state)
                else (s.setScreenSetup i (bodyScreenSetup body), .ok []) := by
  unfold serveScreenSetup
  rw [screenOf_named named]
  rfl

theorem setScreenSetup_eq (s : State) (i : ScreenId) (setup : ScreenSetup) : s.setScreenSetup i setup =
    if s.doors.activeScreen = some i ∧ (s.screen i).setup.showReleased ≠ setup.showReleased ∧ s.doors.fresh = true then
      (s.setScreen i { s.screen i with setup := setup }).recomputeAttention []
    else s.setScreen i { s.screen i with setup := setup } := by
  unfold State.setScreenSetup State.showReleasedChanged
  dsimp only
  rw [State.setScreen_doors]
  by_cases noticed : s.doors.activeScreen = some i ∧ (s.screen i).setup.showReleased ≠ setup.showReleased
  · rw [if_pos noticed]
    exact if_congr ⟨fun fresh => ⟨noticed.1, noticed.2, fresh⟩, fun both => both.2.2⟩ rfl rfl
  · rw [if_neg noticed, if_neg fun both => noticed ⟨both.1, both.2.1⟩]

theorem bodyScreenSetup_eq {fallback : Option LayoutNo}
    (named : (field1 body 11 = 255 ∧ fallback = none) ∨ ∃ l : LayoutNo, field1 body 11 = l.val ∧ fallback = some l) :
    bodyScreenSetup body = ⟨decide (field1 body 1 = 1), field2 body 2, field2 body 4, field1 body 6, field2 body 7,
      field2 body 9, fallback, decide (field1 body 12 = 1)⟩ := by
  unfold bodyScreenSetup
  rw [flagOf_getD, flagOf_getD, layoutOrNone_eq_some named]
  rfl

/-- Settles O39: the tests of R81 in their order, then the layout and the notice of the setup taken. -/
theorem screenSetup : Obligations.ScreenSetup := by
  unfold Obligations.ScreenSetup
  intro s tag body takes length width height rate holdOver freezeLimit answered
  have served {t : State} {a : Answer} (block : serveScreenSetup s tag body = (t, a)) : answered t a :=
    exec_requestOfKind_served (kind := .screenSetup) takes (by omega) (beq_iff_eq.2 length) block
  refine ⟨fun above => served ?_, fun i named => ?_⟩
  · unfold serveScreenSetup
    rw [screenOf_above above]
    rfl
  · have block := serveScreenSetup_screen (s := s) (tag := tag) named
    let taken : Prop := ∀ fallback : Option LayoutNo,
      (field1 body 11 = 255 ∧ fallback = none) ∨ (∃ l : LayoutNo, field1 body 11 = l.val ∧ fallback = some l) →
      (∀ l, fallback = some l → s.layouts[l] = [] → answered s .state) ∧
      ((∀ l, fallback = some l → s.layouts[l] ≠ []) →
        if s.doors.activeScreen = some i ∧ (s.screen i).setup.showReleased ≠ decide (field1 body 12 = 1) ∧
            s.doors.fresh = true then
          answered ((s.setScreen i { s.screen i with setup := ⟨decide (field1 body 1 = 1), width, height, rate, holdOver,
            freezeLimit, fallback, decide (field1 body 12 = 1)⟩ }).recomputeAttention []) (.ok [])
        else answered (s.setScreen i { s.screen i with setup := ⟨decide (field1 body 1 = 1), width, height, rate, holdOver,
            freezeLimit, fallback, decide (field1 body 12 = 1)⟩ }) (.ok []))
    let reply : Option Nat → Prop
      | some f => answered s (.badField f)
      | none => taken
    have replied : reply (screenSetupFault body) := by
      cases fault : screenSetupFault body with
      | some f =>
        rw [fault] at block
        exact served block
      | none =>
        rw [fault] at block
        intro fallback layout
        rw [bodyScreenSetup_eq layout] at block
        refine ⟨fun l named empty => served ?_, fun written => ?_⟩
        · rw [block]
          subst named
          simp only [Option.any_some, empty, List.isEmpty_nil]
          rfl
        · have unbarred : ¬ fallback.any (fun l => s.layouts[l].isEmpty) = true := by
            cases fallback with
            | none => nofun
            | some l =>
              intro empty
              exact written l rfl (List.isEmpty_iff.1 empty)
          simp only [if_neg unbarred, setScreenSetup_eq] at block
          split
          · next noticed => exact served (by rw [block, if_pos noticed])
          · next unnoticed => exact served (by rw [block, if_neg unnoticed])
    rw [screenSetupFault_eq] at replied
    simp only [apply_ite reply] at replied
    exact replied

end Sys2Proof.Machine
end

section
/-! LAYOUT_WRITE (R87). -/

namespace Sys2Proof.Machine

/-! ## The tile records of a body -/

/-- The bytes of a tile record, as they stand in a body. -/
def RawTile.bytes (t : RawTile) : List Byte :=
  bytes2 t.x ++ bytes2 t.y ++ bytes2 t.w ++ bytes2 t.h
    ++ [byteOf t.source, byteOf t.alternate, byteOf t.label.length] ++ t.label

/-- A tile record whose fields are within their bytes. -/
def RawTile.Fits (t : RawTile) : Prop :=
  t.x < 65536 ∧ t.y < 65536 ∧ t.w < 65536 ∧ t.h < 65536 ∧ t.source < 256 ∧ t.alternate < 256 ∧ t.label.length < 256

theorem byteOf_toNat_small {n : Nat} (small : n < 256) : (byteOf n).toNat = n := by
  rw [byteOf_toNat, Nat.mod_eq_of_lt small]

theorem readTiles_bytes : ∀ tiles : List RawTile, (∀ t ∈ tiles, t.Fits) →
    readTiles tiles.length (tiles.flatMap RawTile.bytes) = some tiles
  | [], _ => rfl
  | t :: rest, fits => by
    obtain ⟨x, y, w, h, source, alternate, label⟩ := fits t List.mem_cons_self
    have left := readTiles_bytes rest fun u mem => fits u (List.mem_cons_of_mem t mem)
    have spelled : (t :: rest).flatMap RawTile.bytes = byteOf (t.x / 256) :: byteOf t.x :: byteOf (t.y / 256) :: byteOf t.y ::
        byteOf (t.w / 256) :: byteOf t.w :: byteOf (t.h / 256) :: byteOf t.h :: byteOf t.source :: byteOf t.alternate ::
        byteOf t.label.length :: (t.label ++ rest.flatMap RawTile.bytes) := by
      simp [RawTile.bytes, bytes2]
    rw [spelled, List.length_cons, readTiles, if_pos (by rw [byteOf_toNat_small label]; simp), byteOf_toNat_small label,
      List.drop_left, left, List.take_left, nat2_byteOf x, nat2_byteOf y, nat2_byteOf w, nat2_byteOf h,
      byteOf_toNat_small source, byteOf_toNat_small alternate]
    rfl

/-! ## The tests of a tile record -/

theorem camOf_eq_some {n : Nat} {c : Cam} : camOf n = some c ↔ n = c.val := by
  unfold camOf
  constructor
  · intro named
    split at named
    · cases named
      rfl
    · cases named
  · rintro rfl
    exact dif_pos c.isLt

theorem camOf_isNone {n : Nat} : (camOf n).isNone = true ↔ 13 < n := by
  by_cases above : 13 < n
  · simp [camOf_above above, above]
  · have named : camOf n = some ⟨n, by omega⟩ := camOf_eq_some.2 rfl
    simp [named, above]

theorem sourceOf_isNone {n : Nat} : (sourceOf n).isNone = true ↔ ¬(n ≤ 13 ∨ n = 0x40 ∨ n = 0x41 ∨ n = 0x42) := by
  unfold sourceOf
  split
  · next front => simp [front]
  · split
    · next rear => simp [rear]
    · split
      · next blank => simp [blank]
      · rw [Option.isNone_map, camOf_isNone]
        omega

theorem RawTile.fault_eq (t : RawTile) :
    t.fault = if t.w < 64 then some 2 else if t.h < 48 then some 3 else if 1920 < t.x + t.w then some 0
      else if 1200 < t.y + t.h then some 1
      else if ¬(t.source ≤ 13 ∨ t.source = 0x40 ∨ t.source = 0x41 ∨ t.source = 0x42) then some 4
      else if t.alternate ≠ 255 ∧ (13 < t.alternate ∨ t.alternate = t.source ∨ t.source = 0x42) then some 5
      else if 12 < t.label.length ∨ (∃ b ∈ t.label, b.toNat < 0x20 ∨ 0x7E < b.toNat) then some 6 else none := by
  unfold fault
  simp only [firstBad_cons, firstBad_nil]
  refine if_congr decide_eq_true_iff rfl (if_congr decide_eq_true_iff rfl (if_congr decide_eq_true_iff rfl
    (if_congr decide_eq_true_iff rfl (if_congr sourceOf_isNone rfl (if_congr ?_ rfl (if_congr ?_ rfl rfl))))))
  · simp [or_assoc]
  · simp

theorem faults_pass {before : List RawTile} (pass : ∀ x ∈ before, x.fault = none) (k : Nat) :
    (before.zipIdx k).filterMap (fun p => p.1.fault.map fun f => 2 + 7 * p.2 + f) = [] := by
  rw [List.filterMap_eq_nil_iff]
  rintro ⟨t, index⟩ mem
  rw [pass t (List.fst_mem_of_mem_zipIdx mem)]
  rfl

theorem tilesFault_none {tiles : List RawTile} (pass : ∀ t ∈ tiles, t.fault = none) : tilesFault tiles = none := by
  unfold tilesFault
  rw [faults_pass pass 0]

theorem tilesFault_first {before after : List RawTile} {t : RawTile} {f : Nat} (pass : ∀ x ∈ before, x.fault = none)
    (fails : t.fault = some f) : tilesFault (before ++ t :: after) = some (2 + 7 * before.length + f) := by
  unfold tilesFault
  rw [List.zipIdx_append, List.filterMap_append, faults_pass pass 0, List.zipIdx_cons, List.nil_append,
    List.filterMap_cons_some (b := 2 + 7 * before.length + f)]
  simp [fails]

/-! ## The record of a tile that passes -/

theorem sourceOf_camera {n : Nat} {c : Cam} : sourceOf n = some (.camera c) ↔ n = c.val := by
  have below := c.isLt
  unfold sourceOf
  split
  · simp only [Option.some.injEq, reduceCtorEq, false_iff]
    omega
  · split
    · simp only [Option.some.injEq, reduceCtorEq, false_iff]
      omega
    · split
      · simp only [Option.some.injEq, reduceCtorEq, false_iff]
        omega
      · simp [camOf_eq_some]

theorem sourceOf_front {n : Nat} : sourceOf n = some .front ↔ n = 0x40 := by
  unfold sourceOf
  split
  · next front => simp [front]
  · next front =>
    split
    · simp [front]
    · split <;> simp [front]

theorem sourceOf_rear {n : Nat} : sourceOf n = some .rear ↔ n = 0x41 := by
  unfold sourceOf
  split
  · next front => simp [front]
  · split
    · next rear => simp [rear]
    · next rear => split <;> simp [rear]

theorem sourceOf_blank {n : Nat} : sourceOf n = some .blank ↔ n = 0x42 := by
  unfold sourceOf
  split
  · next front => simp [front]
  · split
    · next rear => simp [rear]
    · split
      · next blank => simp [blank]
      · next blank => simp [blank]

theorem RawTile.record_source {t : RawTile} (pass : t.fault = none) : sourceOf t.source = some t.record.source := by
  cases named : sourceOf t.source with
  | some source => simp [record, named]
  | none =>
    have unlisted := sourceOf_isNone.1 (Option.isNone_iff_eq_none.2 named)
    rw [fault_eq, if_pos unlisted] at pass
    split_ifs at pass

theorem RawTile.record_spec {t : RawTile} (pass : t.fault = none) :
    t.record.rect = ⟨t.x, t.y, t.w, t.h⟩ ∧ t.record.label = t.label ∧
      (∀ c : Cam, t.record.source = .camera c ↔ t.source = c.val) ∧ (t.record.source = .front ↔ t.source = 0x40) ∧
      (t.record.source = .rear ↔ t.source = 0x41) ∧ (t.record.source = .blank ↔ t.source = 0x42) ∧
      ∀ c : Cam, t.record.alternate = some c ↔ t.alternate = c.val := by
  have source {x : TileSource} : t.record.source = x ↔ sourceOf t.source = some x := by
    rw [record_source pass, Option.some.injEq]
  exact ⟨rfl, rfl, fun c => source.trans sourceOf_camera, source.trans sourceOf_front, source.trans sourceOf_rear,
    source.trans sourceOf_blank, fun c => camOf_eq_some⟩

/-! ## LAYOUT_WRITE (R87) -/

theorem serveLayoutWrite_layout {s : State} {tag : Byte} {body : List Byte} {tiles : List RawTile} {l : LayoutNo}
    (read : layoutTiles body = some tiles) (named : field1 body 0 = l.val) : serveLayoutWrite s tag body =
      if 12 < tiles.length then (s, .badField 1)
      else match tilesFault tiles with
        | some f => (s, .badField f)
        | none => if tiles = [] ∧ ((s.screen .a).setup.fallback = some l ∨ (s.screen .b).setup.fallback = some l) then (s, .state)
          else (s.setLayouts (s.layouts.set l.val (tiles.map RawTile.record) l.isLt), .ok []) := by
  unfold serveLayoutWrite
  rw [read, named, layoutOf_val]
  simp only [List.isEmpty_iff]
  rfl

/-- Settles O40: the tile records read back as they were written, and the tests of R87 in their order. -/
theorem layoutWrite : Obligations.LayoutWrite := by
  unfold Obligations.LayoutWrite
  refine ⟨fun n tiles few fits => ?_, RawTile.fault_eq, ?_⟩
  · have count : (byteOf tiles.length).toNat = tiles.length := byteOf_toNat_small few
    show readTiles (byteOf tiles.length).toNat _ = some tiles
    rw [count]
    exact readTiles_bytes tiles fits
  · intro s tag body tiles takes carried read answered
    have served {t : State} {a : Answer} (block : serveLayoutWrite s tag body = (t, a)) : answered t a :=
      exec_requestOfKind_served (kind := .layoutWrite) takes carried (Option.isSome_of_eq_some read) block
    refine ⟨fun above => served ?_, ?_⟩
    · unfold serveLayoutWrite
      rw [layoutOf_above above]
      rfl
    · intro l named designated
      have block := serveLayoutWrite_layout (s := s) (tag := tag) read named
      refine ⟨fun many => served ?_, fun before t after f few split pass fails => served ?_, fun empty barred => served ?_,
        fun few pass free => ⟨tiles.map RawTile.record, List.length_map .., fun k t found => ?_, served ?_⟩⟩
      · rw [block, if_pos many]
      · rw [block, if_neg (by omega), split, tilesFault_first pass fails]
      · subst empty
        rw [block]
        exact if_pos (c := [] = [] ∧ _) ⟨rfl, barred⟩
      · exact ⟨t.record, by rw [List.getElem?_map, found]; rfl, RawTile.record_spec (pass t (List.mem_of_getElem? found))⟩
      · rw [block, if_neg (by omega), tilesFault_none pass]
        refine if_neg fun both => ?_
        obtain written | undesignated := free
        · exact written both.1
        · exact undesignated both.2

end Sys2Proof.Machine
end

section
/-! View selection (R88), LAYOUT_SELECT and LAYOUT_FORCE (R90, R91). -/

namespace Sys2Proof.Machine

/-! ## View selection (R88) -/

namespace State

variable {s : State} {i : ScreenId} {l : LayoutNo}

theorem selectView_off (off : (s.screen i).setup.enable = false) : s.selectView i = ⟨.off, none, none⟩ := if_pos off

theorem selectView_on (on : (s.screen i).setup.enable = true) : s.selectView i =
    match (if s.doors.activeScreen = some i ∧ s.doors.fresh = false then (s.screen i).setup.fallback else none),
      (s.screen i).forced with
    | some l, _ => ⟨.fallback, some l, none⟩
    | none, some l => ⟨.forced, some l, none⟩
    | none, none =>
      if s.doors.activeScreen = some i ∧ (s.split i).alive = true then ⟨.split, none, (s.split i).pattern⟩
      else match (s.screen i).requested with
        | some l => ⟨.base, some l, none⟩
        | none => ⟨.unconfigured, none, none⟩ := by
  have enabled : (s.screen i).setup.enable ≠ false := by rw [on]; nofun
  unfold selectView
  dsimp only
  rw [if_neg enabled]
  simp only [Bool.and_eq_true, beq_iff_eq, Bool.not_eq_true'] <;> rfl

theorem selectView_fallback (on : (s.screen i).setup.enable = true) (active : s.doors.activeScreen = some i)
    (stale : s.doors.fresh = false) (fallback : (s.screen i).setup.fallback = some l) :
    s.selectView i = ⟨.fallback, some l, none⟩ := by
  rw [selectView_on on, if_pos ⟨active, stale⟩, fallback]

theorem no_fallback (free : s.doors.activeScreen ≠ some i ∨ s.doors.fresh = true ∨ (s.screen i).setup.fallback = none) :
    (if s.doors.activeScreen = some i ∧ s.doors.fresh = false then (s.screen i).setup.fallback else none) = none := by
  obtain inactive | fresh | noFallback := free
  · exact if_neg fun both => inactive both.1
  · exact if_neg fun both => by rw [both.2] at fresh; cases fresh
  · rw [noFallback, ite_self]

end State

theorem SplitRecord.alive_iff {r : SplitRecord} : r.alive = true ↔ r.entries ≠ [] ∨ r.holdOver ≠ none := by
  simp [alive, Option.isSome_iff_ne_none]

/-! ## Shown and held by (R90, R91) -/

/-- The code of a view mode that a reply names as holding a layout (R191). -/
def ViewMode.holder : ViewMode → Byte
  | .off => 0x00#8
  | .unconfigured => 0x01#8
  | .base => 0x02#8
  | .split => 0x03#8
  | .forced => 0x04#8
  | .fallback => 0x05#8

theorem shownBytes_now {v : View} {forced : Bool}
    (now : v.mode = .base ∨ v.mode = .unconfigured ∨ (v.mode = .forced ∧ forced = true)) :
    shownBytes v forced = [0x00, 0xFF] := by
  unfold shownBytes
  obtain mode | mode | ⟨mode, rfl⟩ := now
  · rw [mode]
  · rw [mode]
  · rw [mode]
    rfl

theorem shownBytes_held {v : View} {forced : Bool} (base : v.mode ≠ .base) (unconfigured : v.mode ≠ .unconfigured)
    (own : v.mode ≠ .forced ∨ forced = false) : shownBytes v forced = [0x01, v.mode.holder] := by
  unfold shownBytes
  cases mode : v.mode with
  | base => exact absurd mode base
  | unconfigured => exact absurd mode unconfigured
  | forced =>
    obtain other | rfl := own
    · exact absurd mode other
    · rfl
  | off => rfl
  | split => rfl
  | fallback => rfl

/-! ## LAYOUT_SELECT and LAYOUT_FORCE (R90, R91) -/

variable {s : State} {tag n m : Byte} {i : ScreenId}

theorem serveLayout_badScreen (above : 1 < n.toNat) :
    serveLayoutSelect s tag [n, m] = (s, .badField 0) ∧ serveLayoutForce s tag [n, m] = (s, .badField 0) := by
  have unnamed : screenOf (field1 [n, m] 0) = none := screenOf_above above
  unfold serveLayoutSelect serveLayoutForce
  rw [unnamed]
  exact ⟨rfl, rfl⟩

theorem serveLayout_badLayout (screen : n.toNat = match i with | .a => 0 | .b => 1) (above : 15 < m.toNat)
    (present : m ≠ 0xFF#8) :
    serveLayoutSelect s tag [n, m] = (s, .badField 1) ∧ serveLayoutForce s tag [n, m] = (s, .badField 1) := by
  have named : screenOf (field1 [n, m] 0) = some i := screenOf_named screen
  have unnamed : layoutOrNone (field1 [n, m] 1) = none := by
    rw [← Option.isNone_iff_eq_none, layoutOrNone_isNone]
    rintro (low | absent)
    · exact absurd low (Nat.not_le.2 above)
    · exact present (BitVec.eq_of_toNat_eq absent)
  unfold serveLayoutSelect serveLayoutForce
  rw [named, unnamed]
  exact ⟨rfl, rfl⟩

theorem serveLayout_taken {l : Option LayoutNo} (screen : n.toNat = match i with | .a => 0 | .b => 1)
    (layout : (m = 0xFF#8 ∧ l = none) ∨ ∃ x : LayoutNo, m.toNat = x.val ∧ l = some x) :
    let asked := s.setScreen i { s.screen i with requested := l }
    let held := s.setScreen i { s.screen i with forced := l }
    serveLayoutSelect s tag [n, m] = (asked, .ok (shownBytes (asked.selectView i) false)) ∧
      serveLayoutForce s tag [n, m] = (held, .ok (shownBytes (held.selectView i) true)) := by
  have namedScreen : screenOf (field1 [n, m] 0) = some i := screenOf_named screen
  have namedLayout : layoutOrNone (field1 [n, m] 1) = some l :=
    layoutOrNone_eq_some (layout.imp_left fun absent => ⟨by rw [absent.1]; rfl, absent.2⟩)
  unfold serveLayoutSelect serveLayoutForce
  rw [namedScreen, namedLayout]
  exact ⟨rfl, rfl⟩

/-- Settles O41: the cases of R88 in their order, and shown and held by from the view that they select. -/
theorem viewSelection : Obligations.ViewSelection := by
  unfold Obligations.ViewSelection
  refine ⟨?_, ?_⟩
  · intro s i r active alive
    refine ⟨State.selectView_off, fun on => ⟨fun l => State.selectView_fallback on, fun free => ?_⟩⟩
    have selected := State.selectView_on on
    rw [State.no_fallback free] at selected
    refine ⟨fun l forced => ?_, fun unforced isActive isAlive => ?_, fun unforced lost => ?_⟩
    · rw [selected, forced]
    · rw [selected, unforced]
      exact if_pos ⟨isActive, SplitRecord.alive_iff.2 isAlive⟩
    · have noSplit : ¬(s.doors.activeScreen = some i ∧ (s.split i).alive = true) := fun both =>
        lost.elim (fun inactive => inactive both.1) fun dead => dead (SplitRecord.alive_iff.1 both.2)
      rw [unforced] at selected
      dsimp only at selected
      rw [if_neg noSplit] at selected
      exact ⟨fun l requested => by rw [selected, requested], fun unrequested => by rw [selected, unrequested]⟩
  · intro s tag n m takes selected forced heldBy
    have held (v : ViewMode) : heldBy v = v.holder := by cases v <;> rfl
    have served {t u : State} {a b : Answer}
        (blocks : serveLayoutSelect s tag [n, m] = (t, a) ∧ serveLayoutForce s tag [n, m] = (u, b)) :
        selected t a ∧ forced u b :=
      ⟨exec_requestOfKind_served (kind := .layoutSelect) takes (by simp) rfl blocks.1,
        exec_requestOfKind_served (kind := .layoutForce) takes (by simp) rfl blocks.2⟩
    refine ⟨fun above => served (serveLayout_badScreen above), fun i screen =>
      ⟨fun above present => served (serveLayout_badLayout screen above present), fun l layout => ?_⟩⟩
    obtain ⟨select, force⟩ := served (serveLayout_taken (s := s) (tag := tag) screen layout)
    intro asked heldState m1 m2
    refine ⟨fun now => ?_, fun base unconfigured => ?_, fun now => ?_, fun base unconfigured own => ?_⟩
    · rwa [shownBytes_now (now.imp_right .inl)] at select
    · rw [shownBytes_held base unconfigured (.inr rfl)] at select
      rwa [held]
    · rwa [shownBytes_now (now.imp_right (.imp_right fun mode => ⟨mode, rfl⟩))] at force
    · rw [shownBytes_held base unconfigured (.inl own)] at force
      rwa [held]

end Sys2Proof.Machine
end

section
/-! The output frame cycle (R83 to R85) and the hold-over timer (R116). -/

namespace Sys2Proof.Machine

/-! ## What the resolution of tiles changes (R93 to R95) -/

namespace State

@[simp] theorem setSlots_screen (s : State) (m : SlotManager) (i : ScreenId) : (s.setSlots m).screen i = s.screen i := by
  cases i <;> rfl

theorem setScreen_now (s : State) (i : ScreenId) (x : ScreenRecord) : (s.setScreen i x).now = s.now := by
  cases i <;> rfl

theorem setSlots_now (s : State) (m : SlotManager) : (s.setSlots m).now = s.now := rfl

theorem resolveTile_slots (s : State) (i : ScreenId) (t : BuiltTile) : ∃ m, (s.resolveTile i t).1 = s.setSlots m := by
  unfold resolveTile
  dsimp only
  split
  · exact ⟨s.slots, rfl⟩
  · split
    · exact ⟨s.slots, rfl⟩
    · split
      · exact ⟨s.slots, rfl⟩
      · split
        · exact ⟨s.slots, rfl⟩
        · exact ⟨_, rfl⟩

theorem resolveTiles_slots (i : ScreenId) : ∀ (tiles : List BuiltTile) (s : State),
    ∃ m, (s.resolveTiles i tiles).1 = s.setSlots m
  | [], s => ⟨s.slots, rfl⟩
  | t :: rest, s => by
    obtain ⟨m, first⟩ := resolveTile_slots s i t
    obtain ⟨n, others⟩ := resolveTiles_slots i rest (s.resolveTile i t).1
    exact ⟨n, others.trans (by rw [first, setSlots_setSlots])⟩

end State

/-! ## The output frame start (R83, R84) -/

theorem mem_pinnedSlots {tiles : List ResolvedTile} {slot : SlotNo} :
    slot ∈ pinnedSlots tiles ↔ ∃ t ∈ tiles, t.slot = some slot := by
  simp [pinnedSlots]

theorem pinnedSlots_sorted (tiles : List ResolvedTile) : (pinnedSlots tiles).Pairwise (fun x y => x < y) :=
  (List.pairwise_lt_finRange 160).filter _

/-- The place in the cycle of R84 of the period that begins at an output frame start. -/
def ScreenRecord.nextPlace (r : ScreenRecord) (anew : Bool) : Fin 3 :=
  if anew = true ∨ r.setup.rate ≠ r.period.rate then 0 else r.period.place + 1

theorem nextPeriod_eq (r : ScreenRecord) (elapsed : Nat) (anew : Bool) : nextPeriod r.period r.setup.rate elapsed anew =
    ⟨elapsed + (if r.setup.rate = 25 then 40 else if r.nextPlace anew = 2 then 34 else 33), r.setup.rate, r.nextPlace anew⟩ := by
  have place : (if anew || r.period.rate != r.setup.rate then 0 else r.period.place + 1) = r.nextPlace anew := by
    unfold ScreenRecord.nextPlace
    refine if_congr ?_ rfl rfl
    rw [Bool.or_eq_true, bne_iff_ne, ne_comm]
  have third : (r.nextPlace anew).val = 2 ↔ r.nextPlace anew = 2 := (Fin.val_inj (b := 2))
  unfold nextPeriod
  simp only [place, intervalOf, third]

/-- The screen record after an output frame start (R83). -/
def ScreenRecord.started (r : ScreenRecord) (view : View) (tiles : List ResolvedTile) (now : Time) (elapsed : Nat)
    (anew : Bool) : ScreenRecord :=
  { r with view := view, tiles := tiles, pinned := pinnedSlots tiles, frameCount := r.frameCount + 1, frameStart := now,
           drawn := r.setup, period := nextPeriod r.period r.setup.rate elapsed anew }

theorem startOutputFrame_eq (s : State) (i : ScreenId) (anew : Bool) :
    let counted := s.setScreen i { s.screen i with frameCount := (s.screen i).frameCount + 1 }
    let view := counted.selectView i
    let resolved := counted.resolveTiles i (counted.builtTiles i view)
    let started := resolved.1.setScreen i ((s.screen i).started view resolved.2 s.now s.elapsed anew)
    s.startOutputFrame i anew = if view = (s.screen i).view then started else started.raiseView i .frame := by
  intro counted view resolved started
  have screen : resolved.1.screen i = { s.screen i with frameCount := (s.screen i).frameCount + 1 } := by
    obtain ⟨m, slots⟩ := State.resolveTiles_slots i (counted.builtTiles i view) counted
    rw [show resolved.1 = counted.setSlots m from slots, State.setSlots_screen, State.setScreen_screen]
  have now : resolved.1.now = s.now := by
    obtain ⟨m, slots⟩ := State.resolveTiles_slots i (counted.builtTiles i view) counted
    rw [show resolved.1 = counted.setSlots m from slots, State.setSlots_now, State.setScreen_now]
  have elapsed : resolved.1.elapsed = s.elapsed := by
    obtain ⟨m, slots⟩ := State.resolveTiles_slots i (counted.builtTiles i view) counted
    rw [show resolved.1 = counted.setSlots m from slots, State.setSlots_elapsed, State.setScreen_elapsed]
  show (if view = (s.screen i).view then resolved.1.setScreen i { resolved.1.screen i with
      view := view, tiles := resolved.2, pinned := pinnedSlots resolved.2, frameStart := resolved.1.now,
      drawn := (resolved.1.screen i).setup,
      period := nextPeriod (resolved.1.screen i).period (resolved.1.screen i).setup.rate resolved.1.elapsed anew }
    else State.raiseView (resolved.1.setScreen i _) i .frame) = _
  rw [screen, now, elapsed]
  rfl

/-- Settles O42. -/
theorem outputFrames : Obligations.OutputFrames := by
  unfold Obligations.OutputFrames
  refine ⟨?_, fun tiles => ⟨fun slot => mem_pinnedSlots, pinnedSlots_sorted tiles⟩, ?_, ?_, ?_⟩
  · intro s i anew r counted view resolved tiles place interval started
    have start := startOutputFrame_eq s i anew
    dsimp only [ScreenRecord.started] at start
    rw [nextPeriod_eq] at start
    exact ⟨fun same => start.trans (if_pos same), fun differs => start.trans (if_neg differs)⟩
  · intro s i cause r
    refine ⟨?_, rfl⟩
    unfold State.endOutputFrame
    dsimp only
    rw [State.setSlots_screen]
  · intro s i unasked
    refine ⟨fun early => ?_, fun reached => ?_⟩
    · exact exec_unasked unasked (congrArg some (if_neg (Nat.not_le.2 early)))
    · exact exec_unasked unasked (congrArg some (if_pos reached))
  · intro s i unasked
    refine ⟨fun early => ?_, fun d running reached => ?_⟩
    · exact exec_unasked unasked (congrArg some (if_neg (Bool.eq_false_iff.1 (due_false early))))
    · exact exec_unasked unasked (congrArg some (if_pos ((due_iff s _).2 ⟨d, running, reached⟩)))

end Sys2Proof.Machine
end

section
/-! The resolution of tiles and the picture of a screen output (R93 to R98). -/

namespace Sys2Proof.Machine

/-! ## Tiles built and resolved (R89, R93 to R95) -/

theorem Rect.clip_inside {r : Rect} {w h : Nat} (inside : r.x < w ∧ r.y < h) :
    r.clip w h = some ⟨r.x, r.y, min r.w (w - r.x), min r.h (h - r.y)⟩ := if_pos inside

theorem Rect.clip_outside {r : Rect} {w h : Nat} (outside : ¬(r.x < w ∧ r.y < h)) : r.clip w h = none := if_neg outside

theorem SoilRecord.marker_iff {r : SoilRecord} :
    r.marker = true ↔ r.state = .soiled ∨ (r.state = .verify ∧ r.wasSoiled = true) := by
  unfold marker soilMarker
  cases r.state <;> simp

/-- R94's test of a camera that a tile may show. -/
def State.Well (s : State) (c : Option Cam) : Prop :=
  ∃ n, c = some n ∧ (s.cam n).state = .running ∧
    ¬((s.soilOf n).state = .soiled ∨ ((s.soilOf n).state = .verify ∧ (s.soilOf n).wasSoiled = true))

theorem State.any_showsWell {s : State} {c : Option Cam} : c.any s.showsWell = true ↔ s.Well c := by
  unfold Well
  simp only [← SoilRecord.marker_iff]
  cases c <;> simp [State.showsWell]

theorem State.choosesAlternate_iff {s : State} {primary alternate : Option Cam} :
    s.choosesAlternate primary alternate = true ↔ ¬ s.Well primary ∧ s.Well alternate := by
  simp only [State.choosesAlternate, Bool.and_eq_true, Bool.not_eq_true', ← State.any_showsWell, Bool.not_eq_true]

namespace State

variable {s : State} {i : ScreenId} {t : BuiltTile}

/-- The part of a tile's rectangle on its screen (R93). -/
def tileRect (s : State) (i : ScreenId) (t : BuiltTile) : Rect :=
  ⟨t.rect.x, t.rect.y, min t.rect.w ((s.screen i).setup.width - t.rect.x), min t.rect.h ((s.screen i).setup.height - t.rect.y)⟩

theorem resolveTile_outside
    (outside : ¬(t.rect.x < (s.screen i).setup.width ∧ t.rect.y < (s.screen i).setup.height)) :
    s.resolveTile i t = (s, none) := by
  unfold resolveTile
  dsimp only
  rw [Rect.clip_outside outside]

variable (inside : t.rect.x < (s.screen i).setup.width ∧ t.rect.y < (s.screen i).setup.height)
include inside

theorem resolveTile_blank (blank : t.source = .blank) : s.resolveTile i t =
    (s, some ⟨s.tileRect i t, t.rect, t.label, none, false, none, none, t.markers, t.overflow⟩) := by
  unfold resolveTile
  dsimp only
  rw [Rect.clip_inside inside]
  exact if_pos blank

variable {primary : Option Cam} {alternate : Bool} (source : t.source ≠ .blank) (first : s.primaryCamera t.source = primary)
  (chosen : s.choosesAlternate primary t.alternate = alternate)
include source first chosen

theorem resolveTile_noCamera (unshown : (if alternate then t.alternate else primary) = none) : s.resolveTile i t =
    (s, some ⟨s.tileRect i t, t.rect, t.label, none, alternate, none, none,
      { t.markers with alternate := alternate, noPicture := true }, t.overflow⟩) := by
  unfold resolveTile
  dsimp only
  rw [Rect.clip_inside inside]
  dsimp only
  rw [if_neg source, first, chosen, unshown]
  rfl

theorem resolveTile_noSlot {c : Cam} {m : SlotManager} (shown : (if alternate then t.alternate else primary) = some c)
    (pinned : s.slots.pinNewest c (readerOf i) = (m, none)) : s.resolveTile i t =
    (s, some ⟨s.tileRect i t, t.rect, t.label, some c, alternate, none, none,
      { t.markers with alternate := alternate, noPicture := true }, t.overflow⟩) := by
  unfold resolveTile
  dsimp only
  rw [Rect.clip_inside inside]
  dsimp only
  rw [if_neg source, first, chosen, shown]
  dsimp only
  rw [pinned]
  rfl

theorem resolveTile_slot {c : Cam} {m : SlotManager} {slot : SlotNo} {f : FrameFields}
    (shown : (if alternate then t.alternate else primary) = some c)
    (pinned : s.slots.pinNewest c (readerOf i) = (m, some slot)) (frame : s.slots.frame slot = some f) : s.resolveTile i t =
    (s.setSlots m, some ⟨s.tileRect i t, t.rect, t.label, some c, alternate, some slot, some f.time,
      { t.markers with alternate := alternate, soiled := (s.soilOf c).marker,
                       frozen := isFrozen s.now f.time (s.screen i).setup.freezeLimit }, t.overflow⟩) := by
  unfold resolveTile
  dsimp only
  rw [Rect.clip_inside inside]
  dsimp only
  rw [if_neg source, first, chosen, shown]
  dsimp only
  rw [pinned]
  dsimp only
  rw [frame]
  rfl

end State

/-! ## The picture (R97) -/

theorem topmost {tiles before behind : List DrawnTile} {t : DrawnTile} {x y : Nat} (listed : tiles = before ++ t :: behind)
    (covers : t.covers.has x y = true) (clear : ∀ u ∈ behind, u.covers.has x y ≠ true) :
    tiles.reverse.find? (·.covers.has x y) = some t := by
  have unfound : behind.reverse.find? (·.covers.has x y) = none :=
    List.find?_eq_none.2 fun u mem => clear u (List.mem_reverse.1 mem)
  rw [listed, List.reverse_append, List.reverse_cons, List.append_assoc, List.find?_append, unfound, Option.none_or]
  exact List.find?_cons_of_pos covers

/-- The picture that a list of tiles draws (R97). -/
def State.tilesPicture (s : State) (tiles : List DrawnTile) (x y : Nat) : ScreenPixel :=
  match tiles.reverse.find? (·.covers.has x y) with
  | none => .blank
  | some t => s.tilePixel t x y

theorem State.outputPicture_off {s : State} {i : ScreenId} (off : (s.screen i).view.mode = .off) :
    s.outputPicture i = none := by
  rw [outputPicture, outputTiles, if_pos off]
  rfl

theorem State.outputPicture_lit {s : State} {i : ScreenId} (lit : (s.screen i).view.mode ≠ .off) :
    s.outputPicture i = some (s.tilesPicture ((s.screen i).tiles.map s.drawTile)) := by
  rw [outputPicture, outputTiles, if_neg lit]
  rfl

theorem State.tilesPicture_bare {s : State} {tiles : List DrawnTile} {x y : Nat}
    (clear : ∀ t ∈ tiles, t.covers.has x y ≠ true) : s.tilesPicture tiles x y = .blank := by
  have unfound : tiles.reverse.find? (·.covers.has x y) = none :=
    List.find?_eq_none.2 fun t mem => clear t (List.mem_reverse.1 mem)
  rw [tilesPicture, unfound]

theorem State.tilesPicture_topmost {s : State} {tiles before behind : List DrawnTile} {t : DrawnTile} {x y : Nat}
    (listed : tiles = before ++ t :: behind) (covers : t.covers.has x y = true)
    (clear : ∀ u ∈ behind, u.covers.has x y ≠ true) : s.tilesPicture tiles x y = s.tilePixel t x y := by
  rw [tilesPicture, topmost listed covers clear]

/-- What a tile shows at a pixel that neither its markers nor its label cover. -/
def State.framePart (s : State) (t : DrawnTile) (x y : Nat) : ScreenPixel :=
  match t.picture with
  | none => .blank
  | some (slot, r) => if r.has x y then s.framePixel slot r.w r.h (x - r.x) (y - r.y) else .blank

theorem State.tilePixel_plain {s : State} {t : DrawnTile} {x y : Nat}
    (markers : t.markers = [] ∨ Config.markersCover (t.markers.map (·.ctorIdx)) (overflowShown t.markers) t.covers.w
      (x - t.covers.x) (y - t.covers.y) = false)
    (label : t.label = [] ∨ Config.labelCovers t.label t.covers.w (x - t.covers.x)
      (t.covers.h - 1 - (y - t.covers.y)) = false) : s.tilePixel t x y = s.framePart t x y := by
  have noMarkers : t.markersAt (x - t.covers.x) (y - t.covers.y) = false := by
    obtain empty | bare := markers
    · rw [DrawnTile.markersAt, empty]
      rfl
    · rw [DrawnTile.markersAt, bare, Bool.and_false]
  have noLabel : t.labelAt (x - t.covers.x) (t.covers.h - 1 - (y - t.covers.y)) = false := by
    obtain empty | bare := label
    · rw [DrawnTile.labelAt, empty]
      rfl
    · rw [DrawnTile.labelAt, bare, Bool.and_false]
  unfold tilePixel framePart
  dsimp only
  rw [if_neg (Bool.eq_false_iff.1 noMarkers), if_neg (Bool.eq_false_iff.1 noLabel)] <;> rfl

theorem State.drawTile_picture {s : State} {t : ResolvedTile} {slot : SlotNo} {f : FrameFields} (pinned : t.slot = some slot)
    (frame : s.slots.frame slot = some f) :
    let size := fittedSize f.geometry t.full.w t.full.h
    (s.drawTile t).picture =
      some (slot, ⟨t.full.x + centred t.full.w size.1, t.full.y + centred t.full.h size.2, size.1, size.2⟩) := by
  intro size
  unfold drawTile
  dsimp only
  rw [pinned]
  dsimp only
  rw [frame]
  rfl

theorem centred_self (n : Nat) : centred n n = 0 := by
  obtain ⟨fits, -, -⟩ := centred_margins (le_refl n)
  omega

theorem State.drawTile_storedSize {s : State} {t : ResolvedTile} {slot : SlotNo} {f : FrameFields}
    (pinned : t.slot = some slot) (frame : s.slots.frame slot = some f) (wide : 0 < t.full.w)
    (size : f.geometry = ⟨t.full.w, t.full.h⟩) : (s.drawTile t).picture = some (slot, t.full) := by
  have self : fittedSize f.geometry t.full.w t.full.h = (t.full.w, t.full.h) := by
    rw [size]
    exact fittedSize_self (g := ⟨t.full.w, t.full.h⟩) wide
  rw [State.drawTile_picture pinned frame, self]
  simp only [centred_self, Nat.add_zero]

theorem slotAddress_succ (slot : SlotNo) (offset : Nat) : slotAddress slot (offset + 1) = slotAddress slot offset + 1 :=
  (Nat.add_assoc ..).symm

theorem State.framePixel_stored {s : State} {slot : SlotNo} {f : FrameFields} (frame : s.slots.frame slot = some f)
    (x y : Nat) :
    let pixel := slotAddress slot ((y * f.geometry.width + x) * 2)
    s.framePixel slot f.geometry.width f.geometry.height x y =
      .picture (Memory.read s.pixels pixel) (Memory.read s.pixels (pixel + 1)) := by
  intro pixel
  unfold framePixel
  rw [frame]
  dsimp only
  rw [if_pos ⟨rfl, rfl⟩, luminanceAt, chromaAt, byteOf_ofToNat, byteOf_ofToNat, slotAddress_succ]

/-- A fitted frame stands centred in its rectangle, one side the rectangle's and the other scaled with it. -/
theorem State.drawTile_fitted {s : State} {t : ResolvedTile} {slot : SlotNo} {f : FrameFields} (pinned : t.slot = some slot)
    (frame : s.slots.frame slot = some f) (wide : 0 < f.geometry.width) (high : 0 < f.geometry.height) :
    ∃ r, (s.drawTile t).picture = some (slot, r) ∧
      ((r.w = t.full.w ∧ f.geometry.width * r.h < f.geometry.height * t.full.w + f.geometry.width ∧
          f.geometry.height * t.full.w < f.geometry.width * r.h + f.geometry.width) ∨
        (r.h = t.full.h ∧ f.geometry.height * r.w < f.geometry.width * t.full.h + f.geometry.height ∧
          f.geometry.width * t.full.h < f.geometry.height * r.w + f.geometry.height)) ∧
      t.full.x ≤ r.x ∧ r.x + r.w ≤ t.full.x + t.full.w ∧ t.full.y ≤ r.y ∧ r.y + r.h ≤ t.full.y + t.full.h ∧
      (r.x - t.full.x ≤ t.full.w - r.w - (r.x - t.full.x) + 1 ∧ t.full.w - r.w - (r.x - t.full.x) ≤ r.x - t.full.x + 1) ∧
      r.y - t.full.y ≤ t.full.h - r.h - (r.y - t.full.y) + 1 ∧ t.full.h - r.h - (r.y - t.full.y) ≤ r.y - t.full.y + 1 := by
  have fits := fittedSize_fits f.geometry t.full.w t.full.h
  have across := centred_margins fits.1
  have down := centred_margins fits.2
  refine ⟨_, State.drawTile_picture pinned frame, fittedSize_proportions wide high, ?_⟩
  dsimp only
  omega

/-- Settles O43. -/
theorem tileResolution : Obligations.TileResolution := by
  unfold Obligations.TileResolution
  refine ⟨?_, fun s i t rest => ⟨rfl, rfl⟩, fun d => ?_, ?_, ?_, ?_⟩
  · intro s i v bare
    unfold State.builtTiles
    refine ⟨fun off => by rw [off], fun unconfigured => by rw [unconfigured]; rfl, fun l layout shown => ?_⟩
    obtain mode | mode | mode := layout
    all_goals rw [mode, shown]; rfl
  · unfold DoorUnit.roleCamera
    refine ⟨fun cab => ?_, fun cab => ?_, fun cab => ?_⟩
    all_goals rw [cab]; exact ⟨rfl, rfl⟩
  · intro s i t setup inside rect well
    refine ⟨State.resolveTile_outside, fun within blank => State.resolveTile_blank within blank, ?_⟩
    intro primary named within alternate decides shown bare
    have source : t.source ≠ .blank := by
      obtain ⟨n, source, -⟩ | ⟨source, -⟩ | ⟨source, -⟩ := named
      all_goals rw [source]; nofun
    have first : s.primaryCamera t.source = primary := by
      obtain ⟨n, source, rfl⟩ | ⟨source, rfl⟩ | ⟨source, rfl⟩ := named
      all_goals rw [source]; rfl
    have chosen : s.choosesAlternate primary t.alternate = alternate :=
      Bool.eq_iff_iff.2 (State.choosesAlternate_iff.trans decides.symm)
    refine ⟨fun m unpictured => ?_, ?_⟩
    · obtain unshown | ⟨c, shows, pinned⟩ := unpictured
      · rw [unshown]
        exact State.resolveTile_noCamera within source first chosen unshown
      · rw [shows]
        exact State.resolveTile_noSlot within source first chosen shows pinned
    · intro c m slot f shows pinned frame soiled
      have marker : (s.soilOf c).marker = decide soiled := by
        rw [Bool.eq_iff_iff, decide_eq_true_iff]
        exact SoilRecord.marker_iff
      rw [shows, ← marker]
      exact State.resolveTile_slot within source first chosen shows pinned frame
  · intro s i
    refine ⟨State.outputPicture_off, fun lit => ⟨_, State.outputPicture_lit lit, ?_⟩⟩
    intro x y covers
    refine ⟨fun bare => ?_, ?_⟩
    · refine State.tilesPicture_bare fun drawn mem => ?_
      obtain ⟨t, listed, rfl⟩ := List.mem_map.1 mem
      exact fun has => bare t listed (Rect.has_iff.1 has)
    · intro before t behind listed covered clear row across down plain
      have drawn : s.tilesPicture ((s.screen i).tiles.map s.drawTile) x y = s.tilePixel (s.drawTile t) x y := by
        refine State.tilesPicture_topmost (before := before.map s.drawTile) (behind := behind.map s.drawTile)
          (by rw [listed, List.map_append, List.map_cons]) (Rect.has_iff.2 covered) fun drawn mem => ?_
        obtain ⟨u, later, rfl⟩ := List.mem_map.1 mem
        exact fun has => clear u later (Rect.has_iff.1 has)
      have framed (bare : plain) : s.tilesPicture ((s.screen i).tiles.map s.drawTile) x y = s.framePart (s.drawTile t) x y :=
        drawn.trans (State.tilePixel_plain bare.1 bare.2)
      refine ⟨drawn, fun bare unpinned => ?_, fun slot r bare picture => ⟨fun beside => ?_, fun within => ?_⟩, ?_⟩
      · rw [framed bare, State.framePart, State.drawTile_empty unpinned]
      · rw [framed bare, State.framePart, picture]
        exact if_neg fun has => beside (Rect.has_iff.1 has)
      · rw [framed bare, State.framePart, picture]
        exact if_pos (Rect.has_iff.2 within)
      · intro slot f bare pinned frame wide high size left right top bottom pixel
        have stored := State.framePixel_stored (s := s) frame (x - t.full.x) (y - t.full.y)
        rw [size] at stored
        rw [framed bare, State.framePart, State.drawTile_storedSize pinned frame wide size]
        exact (if_pos (Rect.has_iff.2 ⟨left, right, top, bottom⟩)).trans stored
  · intro s t slot f pinned frame wide high
    exact State.drawTile_fitted pinned frame wide high

end Sys2Proof.Machine
end

section
/-! The split planner's batches (R107, R109 to R111). -/

namespace Sys2Proof.Machine

namespace SplitRecord

variable {r : SplitRecord} {d : DoorUnit} {now : Time} {c : Cam} {a : Attention}

/-! ## The list and the outside set -/

theorem holds_iff : r.holds c = true ↔ ∃ e ∈ r.entries, e.camera = c := by
  simp [holds]

theorem takeOutside_eq (r : SplitRecord) (c : Cam) :
    r.takeOutside c = { r with outside := r.outside.filter fun o => decide (o.camera ≠ c) } := by
  have same : (fun o : Outside => o.camera != c) = fun o => decide (o.camera ≠ c) :=
    funext fun o => (decide_not ..).symm
  rw [takeOutside, same]

theorem setAttention_unlisted {x : Option Attention} (unlisted : ∀ e ∈ r.entries, e.camera ≠ c) :
    r.setAttention c x = r := by
  have kept : r.entries.map (fun e => if e.camera = c then { e with attention := x } else e) = r.entries :=
    (List.map_congr_left fun e mem => if_neg (unlisted e mem)).trans (List.map_id r.entries)
  rw [setAttention, kept]

theorem takeOutside_unlisted (unlisted : ∀ o ∈ r.outside, o.camera ≠ c) : r.takeOutside c = r := by
  have kept : r.outside.filter (fun o => decide (o.camera ≠ c)) = r.outside :=
    List.filter_eq_self.2 fun o mem => decide_eq_true (unlisted o mem)
  rw [takeOutside_eq, kept]

theorem not_holds (unlisted : ∀ e ∈ r.entries, e.camera ≠ c) : ¬ r.holds c = true := fun holds =>
  have ⟨e, mem, camera⟩ := holds_iff.1 holds
  unlisted e mem camera

/-! ## Notices (R109, R110) -/

theorem change_listed (listed : ∃ e ∈ r.entries, e.camera = c) : r.change d now c a = r.setAttention c (some a) :=
  if_pos (holds_iff.2 listed)

theorem change_outside (unlisted : ∀ e ∈ r.entries, e.camera ≠ c) (outside : ∃ o ∈ r.outside, o.camera = c) :
    r.change d now c a = (r.takeOutside c).join d now c a := by
  have waits : r.outside.any (·.camera == c) = true := by simpa using outside
  rw [change, if_neg (not_holds unlisted), if_pos waits]

theorem change_absent (unlisted : ∀ e ∈ r.entries, e.camera ≠ c) (absent : ∀ o ∈ r.outside, o.camera ≠ c) :
    r.change d now c a = r := by
  have notOutside : ¬ r.outside.any (·.camera == c) = true := by simpa using absent
  rw [change, if_neg (not_holds unlisted), if_neg notOutside]

/-! ## Readmissions (R111) -/

theorem readmit_full {n : Nat} (full : ∀ e ∈ r.entries, e.attention ≠ none) : r.readmit d now n = r := by
  cases n with
  | zero => rfl
  | succ n =>
    have noneDeparted : ¬ r.entries.any (·.attention.isNone) = true := by
      simpa [Option.isNone_iff_eq_none] using full
    exact if_neg noneDeparted

theorem readmit_alone {n : Nat} (alone : r.outside = []) : r.readmit d now n = r := by
  cases n with
  | zero => rfl
  | succ n =>
    have nobody : r.bestOutside = none := by rw [bestOutside, alone]; rfl
    rw [readmit, nobody]
    exact ite_self r

theorem readmit_best {n : Nat} {o : Outside} (departed : ∃ e ∈ r.entries, e.attention = none)
    (best : r.bestOutside = some o) :
    r.readmit d now (n + 1) = ((r.takeOutside o.camera).join d now o.camera o.attention).readmit d now n := by
  have free : r.entries.any (·.attention.isNone) = true := by
    simpa [Option.isNone_iff_eq_none] using departed
  rw [readmit, best]
  exact if_pos free

/-! ## Entries at class 1 (R92) -/

/-- A camera that the list holds at class 1. -/
def Urgent (r : SplitRecord) (c : Cam) : Prop := ∃ e ∈ r.entries, e.camera = c ∧ ∃ a, e.attention = some a ∧ a.cls = .one

theorem classNumber_eq_one {e : SplitEntry} : classNumber e = 1 ↔ ∃ a, e.attention = some a ∧ a.cls = .one := by
  unfold classNumber
  cases attention : e.attention with
  | none => simp
  | some a =>
    obtain ⟨cls, deciding⟩ := a
    cases cls <;> simp [AttentionClass.number]

theorem urgent_iff : r.urgent c = true ↔ r.Urgent c := by
  simp only [urgent, Urgent, List.any_eq_true, Bool.and_eq_true, beq_iff_eq, classNumber_eq_one]

theorem roseToUrgent_iff {before after : SplitRecord} :
    before.roseToUrgent after = true ↔ ∃ c, after.Urgent c ∧ ¬ before.Urgent c := by
  simp only [roseToUrgent, List.any_eq_true, Bool.and_eq_true, beq_iff_eq, classNumber_eq_one, Bool.not_eq_true',
    ← urgent_iff (r := before), Bool.not_eq_true]
  constructor
  · rintro ⟨e, mem, urgent, calm⟩
    exact ⟨e.camera, ⟨e, mem, rfl, urgent⟩, calm⟩
  · rintro ⟨c, ⟨e, mem, rfl, urgent⟩, calm⟩
    exact ⟨e, mem, urgent, calm⟩

end SplitRecord

/-! ## The batch (R107) -/

namespace State

variable {s : State} {i : ScreenId} {notices : List DoorNotice}

theorem setSplit_setSplit (s : State) (i : ScreenId) (x y : SplitRecord) : (s.setSplit i x).setSplit i y = s.setSplit i y := by
  cases i <;> rfl

/-- The split record after a batch, before the hold-over test. -/
def told (s : State) (i : ScreenId) (notices : List DoorNotice) : SplitRecord := (s.split i).batch s.doors s.now notices

/-- The state after a batch, before the hold-over test: the told split, and a forced layout ended when an entry rose to class 1. -/
def batched (s : State) (i : ScreenId) (notices : List DoorNotice) : State :=
  if (s.split i).roseToUrgent (s.told i notices) then (s.setSplit i (s.told i notices)).forceEnd i
  else s.setSplit i (s.told i notices)

theorem plannerBatch_eq (s : State) (i : ScreenId) (notices : List DoorNotice) : s.plannerBatch i notices =
    (s.batched i notices).setSplit i (((s.batched i notices).split i).testHoldOver
      ((s.batched i notices).screen i).setup.holdOver (s.batched i notices).elapsed) := rfl

theorem batched_calm (calm : ¬ (s.split i).roseToUrgent (s.told i notices) = true ∨ (s.screen i).forced = none) :
    s.batched i notices = s.setSplit i (s.told i notices) := by
  obtain calm | unforced := calm
  · exact if_neg calm
  · have kept : (s.setSplit i (s.told i notices)).forceEnd i = s.setSplit i (s.told i notices) := by
      rw [forceEnd, setSplit_screen, unforced]
      rfl
    rw [batched, kept, ite_self]

theorem batched_forceEnd (risen : (s.split i).roseToUrgent (s.told i notices) = true)
    (forced : (s.screen i).forced ≠ none) : s.batched i notices =
      ((s.setSplit i (s.told i notices)).setScreen i { s.screen i with forced := none }).raiseView i .forceEnded := by
  rw [batched, if_pos risen, forceEnd, setSplit_screen, if_pos (Option.isSome_iff_ne_none.2 forced)]

theorem plannerBatch_calm (calm : ¬ (s.split i).roseToUrgent (s.told i notices) = true ∨ (s.screen i).forced = none) :
    s.plannerBatch i notices =
      s.setSplit i ((s.told i notices).testHoldOver (s.screen i).setup.holdOver s.elapsed) := by
  rw [plannerBatch_eq, batched_calm calm, setSplit_split, setSplit_screen, setSplit_elapsed, setSplit_setSplit]

theorem plannerBatch_forceEnd (risen : (s.split i).roseToUrgent (s.told i notices) = true)
    (forced : (s.screen i).forced ≠ none) : s.plannerBatch i notices =
      (((s.setSplit i (s.told i notices)).setScreen i { s.screen i with forced := none }).raiseView i .forceEnded).setSplit i
        ((s.told i notices).testHoldOver (s.screen i).setup.holdOver s.elapsed) := by
  rw [plannerBatch_eq, batched_forceEnd risen forced]
  cases i <;> rfl

end State

theorem foldl_apply (d : DoorUnit) (now : Time) (notices : List DoorNotice) (r : SplitRecord) :
    notices.foldl (fun (r : SplitRecord) n => match n with
      | .departure c => r.departure c
      | .change c a => r.change d now c a
      | .join c a => r.join d now c a
      | .newMap => r.remap d) r = notices.foldl (fun r n => r.apply d now n) r := by
  congr 1

/-- Settles O44. -/
theorem plannerBatches : Obligations.PlannerBatches := by
  unfold Obligations.PlannerBatches
  refine ⟨fun r c => ⟨rfl, ?_, rfl, rfl, fun unlisted absent => ?_⟩, fun r d now c a => ⟨?_, ?_, ?_⟩,
    fun r d => ⟨sortByKey_perm .., sortByKey_sorted .., sortByKey_perm .., sortByKey_sorted .., rfl, rfl⟩,
    fun r d now n => ⟨?_, ?_, SplitRecord.readmit_end d now _ r (le_refl _)⟩, ?_⟩
  · rw [SplitRecord.departure, SplitRecord.takeOutside_eq]
    rfl
  · rw [SplitRecord.departure, SplitRecord.setAttention_unlisted unlisted, SplitRecord.takeOutside_unlisted absent]
  · exact SplitRecord.change_listed
  · intro unlisted outside
    rw [SplitRecord.change_outside unlisted outside, SplitRecord.takeOutside_eq]
  · exact SplitRecord.change_absent
  · rintro (full | alone)
    · exact SplitRecord.readmit_full full
    · exact SplitRecord.readmit_alone alone
  · intro before o behind departed listed worse noBetter
    rw [SplitRecord.readmit_best departed (SplitRecord.bestOutside_eq listed worse noBetter), SplitRecord.takeOutside_eq]
  · intro s i notices before told after tested urgent risen
    have batch : after = s.told i notices := by
      show SplitRecord.readmit told s.doors s.now told.outside.length = _
      rw [show told = notices.foldl (fun r n => r.apply s.doors s.now n) before from foldl_apply ..]
      rfl
    have rises : (s.split i).roseToUrgent (s.told i notices) = true ↔ risen := by
      rw [← batch]
      exact SplitRecord.roseToUrgent_iff
    refine ⟨fun calm => ?_, fun rise forced => ?_⟩
    · rw [State.plannerBatch_calm (calm.imp_left (mt rises.1)), ← batch]
    · rw [State.plannerBatch_forceEnd (rises.2 rise) forced, ← batch]

end Sys2Proof.Machine
end

section
/-! Joins, patterns and the hold-over test (R108, R112, R115). -/

namespace Sys2Proof.Machine

/-! ## The pattern (R112) -/

theorem grownPattern_fits {p : Option Pattern} {n : Nat} (fits : n ≤ placesOf p) : grownPattern p n = p :=
  if_neg (Nat.not_lt.2 fits)

theorem grownPattern_grows {p : Option Pattern} {n : Nat} (exceeds : placesOf p < n) :
    grownPattern p n = some (Pattern.holding n) := if_pos exceeds

theorem placesOf_eq (p : Option Pattern) :
    placesOf p = match p with | none => 0 | some .one => 1 | some .two => 2 | some .four => 4 | some .six => 6 := by
  rcases p with _ | p
  · rfl
  · cases p <;> rfl

namespace SplitRecord

variable {r : SplitRecord} {d : DoorUnit} {now : Time} {c : Cam} {a : Attention}

/-! ## The steps of a join (R108) -/

/-- The list holds `e` at its place among the entries kept (R106). -/
def Placed (d : DoorUnit) (e : SplitEntry) (kept entries : List SplitEntry) : Prop :=
  ∃ before behind, kept = before ++ behind ∧ entries = before ++ e :: behind ∧
    (∀ x ∈ before, d.orderKey x.camera ≤ d.orderKey e.camera) ∧
    ∀ x, behind.head? = some x → d.orderKey e.camera < d.orderKey x.camera

/-- The outside set holds `o` at its place among those that were outside (R106). -/
def PlacedOutside (d : DoorUnit) (o : Outside) (kept outside : List Outside) : Prop :=
  ∃ before behind, kept = before ++ behind ∧ outside = before ++ o :: behind ∧
    (∀ x ∈ before, d.orderKey x.camera ≤ d.orderKey o.camera) ∧
    ∀ x, behind.head? = some x → d.orderKey o.camera < d.orderKey x.camera

theorem insert_placed (r : SplitRecord) (d : DoorUnit) (e : SplitEntry) : Placed d e r.entries (r.insert d e).entries :=
  insertByKey_placed (fun x : SplitEntry => d.orderKey x.camera) e r.entries

theorem putOutside_placed (r : SplitRecord) (d : DoorUnit) (o : Outside) :
    PlacedOutside d o r.outside (r.putOutside d o).outside :=
  insertByKey_placed (fun x : Outside => d.orderKey x.camera) o r.outside

/-- The record without the entry of a camera. -/
def without (r : SplitRecord) (c : Cam) : SplitRecord := { r with entries := r.entries.filter fun e => decide (e.camera ≠ c) }

theorem join_listed (listed : ∃ e ∈ r.entries, e.camera = c) : r.join d now c a = r.setAttention c (some a) :=
  if_pos (holds_iff.2 listed)

theorem join_room (unlisted : ∀ e ∈ r.entries, e.camera ≠ c) (room : r.entries.length < 6) :
    r.join d now c a = r.insert d ⟨c, some a, now⟩ := by
  unfold join
  dsimp only
  rw [if_neg (not_holds unlisted), if_pos room]

theorem join_full (unlisted : ∀ e ∈ r.entries, e.camera ≠ c) (full : 6 ≤ r.entries.length)
    (kept : r.replaced a = none) : r.join d now c a = r.putOutside d ⟨c, a⟩ := by
  unfold join
  dsimp only
  rw [if_neg (not_holds unlisted), if_neg (Nat.not_lt.2 full), kept]

theorem join_replaces {old : SplitEntry} (unlisted : ∀ e ∈ r.entries, e.camera ≠ c) (full : 6 ≤ r.entries.length)
    (replaced : r.replaced a = some old) : r.join d now c a = match old.attention with
      | none => (r.without old.camera).insert d ⟨c, some a, now⟩
      | some b => ((r.without old.camera).insert d ⟨c, some a, now⟩).putOutside d ⟨old.camera, b⟩ := by
  have same : (fun e : SplitEntry => e.camera != old.camera) = fun e => decide (e.camera ≠ old.camera) :=
    funext fun e => (decide_not ..).symm
  unfold join without
  dsimp only
  rw [if_neg (not_holds unlisted), if_neg (Nat.not_lt.2 full), replaced]
  dsimp only
  rw [same] <;> rfl

/-! ## The hold-over test (R115) -/

theorem all_departed : r.entries.all (·.attention.isNone) = true ↔ ∀ e ∈ r.entries, e.attention = none := by
  simp

variable {holdOver elapsed : Nat}

theorem testHoldOver_empty (empty : r.entries = []) : r.testHoldOver holdOver elapsed = r := by
  rw [testHoldOver, empty]
  rfl

theorem testHoldOver_present (present : ¬ ∀ e ∈ r.entries, e.attention = none) :
    r.testHoldOver holdOver elapsed = { r with holdOver := none } := by
  have listed : ¬ r.entries.isEmpty = true := fun empty => present fun e mem => by
    rw [List.isEmpty_iff.1 empty] at mem
    cases mem
  rw [testHoldOver, if_neg listed, if_neg (mt all_departed.1 present)]

theorem testHoldOver_alone (listed : r.entries ≠ []) (alone : ∀ e ∈ r.entries, e.attention = none) :
    r.testHoldOver holdOver elapsed = if r.holdOver.isSome then r else if holdOver = 0 then r.cleared
      else { r with holdOver := some (elapsed + holdOver) } := by
  rw [testHoldOver, if_neg (mt List.isEmpty_iff.1 listed), if_pos (all_departed.2 alone)]

end SplitRecord

/-- Settles O45. -/
theorem joinsPatternsHoldOver : Obligations.JoinsPatternsHoldOver := by
  unfold Obligations.JoinsPatternsHoldOver
  refine ⟨?_, fun p n few => ?_, fun w h => ?_, fun r holdOver elapsed => ?_⟩
  · intro r d now c a entry t places smallest grown placed outside
    have grows {u : SplitRecord} (pattern : u.pattern = grownPattern r.pattern u.entries.length) (same : t = u) :
        t.pattern = grown := by
      show _ = if places r.pattern < t.entries.length then _ else _
      rw [same, pattern, ← show placesOf r.pattern = places r.pattern from placesOf_eq r.pattern]
      rfl
    refine ⟨SplitRecord.join_listed, fun unlisted room => ?_, fun unlisted full => ⟨?_, fun better => ?_⟩⟩
    · have joined : t = r.insert d entry := SplitRecord.join_room unlisted room
      refine ⟨?_, grows rfl joined, by rw [joined]; rfl, by rw [joined]; rfl⟩
      rw [joined]
      exact r.insert_placed d entry
    · intro before old behind listed kept
      refine ⟨fun departed present => ?_, fun b attention present worse ahead after => ?_⟩
      · have joined := SplitRecord.join_replaces (d := d) (now := now) unlisted full
          (SplitRecord.replaced_departed (a := a) listed departed present)
        rw [departed] at joined
        refine ⟨?_, grows rfl joined, by rw [show t = _ from joined]; rfl, by rw [show t = _ from joined]; rfl⟩
        rw [show t = _ from joined]
        exact (r.without old.camera).insert_placed d entry
      · have joined := SplitRecord.join_replaces (d := d) (now := now) unlisted full
          (SplitRecord.replaced_worst listed attention present worse ahead after)
        rw [attention] at joined
        refine ⟨?_, grows rfl joined, ?_, by rw [show t = _ from joined]; rfl⟩
        · rw [show t = _ from joined]
          exact (r.without old.camera).insert_placed d entry
        · show SplitRecord.PlacedOutside d ⟨old.camera, b⟩ r.outside t.outside
          rw [show t = _ from joined]
          exact ((r.without old.camera).insert d entry).putOutside_placed d ⟨old.camera, b⟩
    · have joined : t = r.putOutside d ⟨c, a⟩ := SplitRecord.join_full unlisted full (SplitRecord.replaced_none better)
      refine ⟨by rw [joined]; rfl, by rw [joined]; rfl, by rw [joined]; rfl, ?_⟩
      show SplitRecord.PlacedOutside d ⟨c, a⟩ r.outside t.outside
      rw [joined]
      exact r.putOutside_placed d ⟨c, a⟩
  · intro places
    rw [show places = placesOf p from (placesOf_eq p).symm]
    exact ⟨grownPattern_fits, grownPattern_grows⟩
  · simp [Pattern.rect]
  · intro alone
    refine ⟨SplitRecord.testHoldOver_empty, fun listed departed running => ?_, fun listed departed idle zero => ?_,
      fun listed departed idle positive => ?_, SplitRecord.testHoldOver_present⟩
    · rw [SplitRecord.testHoldOver_alone listed departed, if_pos (Option.isSome_iff_ne_none.2 running)]
    · rw [SplitRecord.testHoldOver_alone listed departed, idle, if_pos zero]
      rfl
    · rw [SplitRecord.testHoldOver_alone listed departed, idle, if_neg positive]
      rfl

end Sys2Proof.Machine
end

section
/-! The tiles of a split and its snapshots (R113, R114, R118). -/

namespace Sys2Proof.Machine

/-! ## Tiles of a split (R113, R114) -/

/-- The markers of a split's tile, by what its entry is and whether it carries OVERFLOW(n). -/
def splitRow (obstruction fault closed carries : Bool) : Markers :=
  Markers.mk obstruction fault closed false false false false carries false

theorem splitMarkers_present (a : Attention) (carries : Bool) : { splitMarkers (some a) with overflow := carries } =
    splitRow (decide (a.cls = .one)) (decide (a.cls = .two ∧ a.deciding = .fault)) false carries := by
  obtain ⟨cls, deciding⟩ := a
  cases cls with
  | one => rfl
  | two => cases deciding <;> rfl
  | three => rfl
  | four => rfl

namespace SplitRecord

variable {r : SplitRecord} {d : DoorUnit} {w h k : Nat} {p : Pattern}

/-- Whether the tile of a place carries OVERFLOW(n) (R114). -/
def carries (r : SplitRecord) (p : Pattern) (k : Nat) : Bool := decide (k + 1 = p.places ∧ r.outside ≠ [])

/-- The tile of a place of a split. -/
def tileAt (r : SplitRecord) (d : DoorUnit) (w h : Nat) (p : Pattern) (k : Nat) : BuiltTile :=
  let t := d.placeTile (p.rect w h k) r.entries[k]?
  { t with markers := { t.markers with overflow := r.carries p k },
           overflow := if r.carries p k then r.outside.length else 0 }

theorem tiles_none (bare : r.pattern = none) : r.tiles d w h = [] := by
  rw [tiles, bare]

theorem placeTile_bare (d : DoorUnit) (rect : Rect) (entry : Option SplitEntry) :
    { d.placeTile rect entry with
      markers := { (d.placeTile rect entry).markers with overflow := false }, overflow := 0 } = d.placeTile rect entry := by
  rcases entry with _ | ⟨camera, attention, joined⟩
  · rfl
  · rcases attention with _ | a
    · rfl
    · exact congrArg (BuiltTile.mk _ _ _ _ · _) (by
        obtain ⟨cls, deciding⟩ := a
        cases cls <;> cases deciding <;> rfl)

theorem tiles_some (shown : r.pattern = some p) : r.tiles d w h = (List.range p.places).map (r.tileAt d w h p) := by
  rw [tiles, shown]
  refine List.map_congr_left fun k _ => ?_
  have overflows : (k + 1 = p.places ∧ 0 < r.outside.length) ↔ r.carries p k = true := by
    rw [carries, decide_eq_true_iff, List.length_pos_iff]
  unfold tileAt
  dsimp only
  by_cases last : r.carries p k = true
  · rw [if_pos (overflows.2 last), last]
    rfl
  · rw [if_neg (mt overflows.1 last), Bool.eq_false_iff.2 last]
    exact (placeTile_bare ..).symm

/-! ## Snapshots (R118) -/

variable {now : Time} {c : Cam} {a : Attention}

theorem join_holdOver (r : SplitRecord) (d : DoorUnit) (now : Time) (c : Cam) (a : Attention) :
    (r.join d now c a).holdOver = r.holdOver := by
  unfold join
  dsimp only
  split
  · rfl
  · split
    · rfl
    · split
      · rfl
      · split
        · rfl
        · rfl

theorem joins_holdOver (d : DoorUnit) (now : Time) : ∀ (cameras : List (Cam × Attention)) (r : SplitRecord),
    (cameras.foldl (fun t p => t.join d now p.1 p.2) r).holdOver = r.holdOver
  | [], _ => rfl
  | p :: rest, r => (joins_holdOver d now rest _).trans (join_holdOver r d now p.1 p.2)

theorem insert_perm (r : SplitRecord) (d : DoorUnit) (e : SplitEntry) : (r.insert d e).entries.Perm (e :: r.entries) :=
  insertByKey_perm _ e r.entries

/-- Joins of different new cameras that the list has room for all take a place in it. -/
theorem joins_room (d : DoorUnit) (now : Time) : ∀ (cameras : List (Cam × Attention)) (r : SplitRecord),
    (cameras.map (·.1)).Nodup → (∀ p ∈ cameras, ∀ e ∈ r.entries, e.camera ≠ p.1) →
    r.entries.length + cameras.length ≤ 6 →
    let t := cameras.foldl (fun t p => t.join d now p.1 p.2) r
    t.outside = r.outside ∧ t.entries.Perm (cameras.map (fun p => ⟨p.1, some p.2, now⟩) ++ r.entries)
  | [], r, _, _, _ => ⟨rfl, List.Perm.refl _⟩
  | p :: rest, r, different, new, room => by
    obtain ⟨fresh, different⟩ := List.nodup_cons.1 different
    rw [List.length_cons] at room
    have joined : r.join d now p.1 p.2 = r.insert d ⟨p.1, some p.2, now⟩ :=
      join_room (new p List.mem_cons_self) (by omega)
    have entries := r.insert_perm d ⟨p.1, some p.2, now⟩
    obtain ⟨outside, listed⟩ := joins_room d now rest (r.insert d ⟨p.1, some p.2, now⟩) different
      (fun q mem e listed => by
        obtain rfl | old := List.mem_cons.1 (entries.mem_iff.1 listed)
        · exact fun same => fresh (List.mem_map.2 ⟨q, mem, same.symm⟩)
        · exact new q (List.mem_cons_of_mem p mem) e old)
      (by rw [entries.length_eq, List.length_cons]; omega)
    rw [List.foldl_cons, joined]
    exact ⟨outside, listed.trans ((entries.append_left _).trans List.perm_middle)⟩

end SplitRecord

/-- Settles O46. -/
theorem splitTilesAndSnapshots : Obligations.SplitTilesAndSnapshots := by
  unfold Obligations.SplitTilesAndSnapshots
  refine ⟨fun s i v split => by rw [State.builtTiles, split], fun r d w h => ⟨SplitRecord.tiles_none, ?_⟩, ?_⟩
  · intro p shown places
    have count : places = p.places := by cases p <;> rfl
    rw [SplitRecord.tiles_some shown, count]
    refine ⟨by rw [List.length_map, List.length_range], fun k within => ⟨r.tileAt d w h p k, ?_, ?_⟩⟩
    · rw [List.getElem?_map, List.getElem?_range within]
      rfl
    · intro carries shows
      have tile {e : Option SplitEntry} (entry : r.entries[k]? = e) : r.tileAt d w h p k =
          { d.placeTile (p.rect w h k) e with
            markers := { (d.placeTile (p.rect w h k) e).markers with overflow := carries },
            overflow := if carries then r.outside.length else 0 } := by
        rw [SplitRecord.tileAt, entry] <;> rfl
      refine ⟨?_, ?_, rfl, fun empty => by rw [tile empty]; exact ⟨rfl, rfl, rfl⟩, fun e entry => ?_⟩
      · cases entry : r.entries[k]? <;> rw [tile entry] <;> rfl
      · cases entry : r.entries[k]? <;> rw [tile entry] <;> rfl
      · rw [tile entry]
        refine ⟨rfl, fun x mapped first => ?_, fun unmapped => ?_, fun departed => ?_, fun a present => ?_⟩
        · show (d.firstDoor e.camera).bind _ = _
          rw [firstDoor_some mapped first]
          rfl
        · show (d.firstDoor e.camera).bind _ = _
          rw [firstDoor_none unmapped]
          rfl
        · show { splitMarkers e.attention with overflow := carries } = _
          rw [departed]
          rfl
        · show { splitMarkers e.attention with overflow := carries } = _
          rw [present]
          exact splitMarkers_present a carries
  · intro r d now cameras empty
    refine ⟨rfl, rfl, SplitRecord.joins_holdOver d now cameras empty, fun different few => ?_⟩
    obtain ⟨outside, entries⟩ := SplitRecord.joins_room d now cameras empty different (fun p _ e listed => nomatch listed)
      (by rw [show empty.entries.length = 0 from rfl]; omega)
    rw [List.append_nil] at entries
    exact ⟨outside, entries⟩

end Sys2Proof.Machine
end

section
/-! The settings of the soiling monitor (R122, R123, R140). -/

namespace Sys2Proof.Machine

variable {s : State} {c : Cam} {tag : Byte}

theorem flagOf_byte {b : Byte} (code : b.toNat ≤ 1) : flagOf b.toNat = some (decide (b = 1#8)) := by
  by_cases one : b = 1#8
  · rw [one]
    rfl
  · have notOne : b.toNat ≠ 1 := fun same => one (BitVec.eq_of_toNat_eq same)
    have zero : b.toNat = 0 := by omega
    rw [decide_eq_false one, zero]
    rfl

theorem flagOf_above {n : Nat} (above : 1 < n) : flagOf n = none := Option.isNone_iff_eq_none.1 (flagOf_isNone.2 above)

/-! ## SOIL_SETUP (R122) -/

namespace State

variable {allowed : Bool}

theorem setWatch_same {watch : Bool} (same : (s.soilOf c).watch = watch) :
    s.setWatch c watch allowed = s.setSoilOf c { s.soilOf c with heaterAllowed := allowed } := by
  unfold setWatch
  dsimp only
  rw [same]
  cases watch <;> rfl

theorem setWatch_on (off : (s.soilOf c).watch = false) : s.setWatch c true allowed =
    s.changeSoil c { s.soilOf c with heaterAllowed := allowed }.watched .setup := by
  unfold setWatch
  dsimp only
  rw [off]

theorem setWatch_off (on : (s.soilOf c).watch = true) :
    let r := s.soilOf c
    let ended := (s.changeSoil c { r with heaterAllowed := allowed }.unwatched
      (if r.state = .learning then .learnEnd else .setup)).endJob? r.learnJob .aborted []
    s.setWatch c false allowed = if r.state = .heating then ended.requestHeaterOff c else ended := by
  unfold setWatch
  dsimp only
  rw [on]

theorem watched_state (r : SoilRecord) : r.watched.state = if r.baseline = none then .unlearned else .clean := by
  unfold SoilRecord.watched
  cases r.baseline <;> rfl

end State

theorem serveSoilSetup_taken {n w h : Byte} (camera : n.toNat = c.val) (watch : w.toNat ≤ 1) (heater : h.toNat ≤ 1) :
    serveSoilSetup s tag [n, w, h] = (s.setWatch c (decide (w = 1#8)) (decide (h = 1#8)), .ok []) := by
  have named : camOf (field1 [n, w, h] 0) = some c := camOf_eq_some.2 camera
  have watches : flagOf (field1 [n, w, h] 1) = some (decide (w = 1#8)) := flagOf_byte watch
  have heats : flagOf (field1 [n, w, h] 2) = some (decide (h = 1#8)) := flagOf_byte heater
  unfold serveSoilSetup
  rw [named, watches, heats]

/-! ## SOIL_TUNE and SOIL_LEARN (R123, R140) -/

theorem tuningFault_eq (t : Tuning) : tuningFault t =
    if ¬(1 ≤ t.window ∧ t.window ≤ 16) then some 0
    else if ¬(4 ≤ t.learn ∧ t.learn ≤ 32) then some 1
    else if ¬(1 ≤ t.ratio ∧ t.ratio ≤ 15) then some 2
    else if ¬(1 ≤ t.zones ∧ t.zones ≤ 48) then some 3
    else if ¬(1 ≤ t.confirm ∧ t.confirm ≤ 15) then some 4
    else if ¬(1 ≤ t.cleanRun ∧ t.cleanRun ≤ 15) then some 5
    else if ¬(1 ≤ t.trial ∧ t.trial ≤ 30) then some 6
    else none := by
  have tests {n low high : Nat} : outside n low high = true ↔ ¬(low ≤ n ∧ n ≤ high) := by rw [outside_iff]; omega
  unfold tuningFault
  simp only [firstBad_cons, firstBad_nil, tests]

theorem serveSoilLearn_camera {n : Byte} (camera : n.toNat = c.val) : serveSoilLearn s tag [n] =
    if (s.soilOf c).watch = false then (s, .state)
    else if (s.cam c).state ≠ .running then (s, .state)
    else if (s.soilOf c).state = .learning then (s, .busy)
    else if (s.soilOf c).state = .heating then (s, .state)
    else match s.link.freeJob with
      | none => (s, .busy)
      | some j => (s.beginLearn c j tag, .accepted j) := by
  have named : camOf (field1 [n] 0) = some c := camOf_eq_some.2 camera
  unfold serveSoilLearn
  rw [named]
  rfl

/-- Settles O47. -/
theorem soilSettings : Obligations.SoilSettings := by
  unfold Obligations.SoilSettings
  refine ⟨?_, ?_, ?_⟩
  · intro s tag n w h takes answered
    have served {t : State} {a : Answer} (block : serveSoilSetup s tag [n, w, h] = (t, a)) : answered t a :=
      exec_requestOfKind_served (kind := .soilSetup) takes (by simp) rfl block
    refine ⟨fun above => served ?_, fun camera above => served ?_, fun camera watch above => served ?_, ?_⟩
    · have unnamed : camOf (field1 [n, w, h] 0) = none := camOf_above above
      unfold serveSoilSetup
      rw [unnamed]
      rfl
    · have named : camOf (field1 [n, w, h] 0) = some ⟨n.toNat, by omega⟩ := camOf_eq_some.2 rfl
      have unflagged : flagOf (field1 [n, w, h] 1) = none := flagOf_above above
      unfold serveSoilSetup
      rw [named, unflagged]
      rfl
    · have named : camOf (field1 [n, w, h] 0) = some ⟨n.toNat, by omega⟩ := camOf_eq_some.2 rfl
      have watches : flagOf (field1 [n, w, h] 1) = some (decide (w = 1#8)) := flagOf_byte watch
      have unflagged : flagOf (field1 [n, w, h] 2) = none := flagOf_above above
      unfold serveSoilSetup
      rw [named, watches, unflagged]
      rfl
    · intro c camera heater r allowed cleared
      refine ⟨fun on watched => served ?_, fun off unwatched => served ?_, fun on unwatched => ?_, fun off watched => ?_⟩
      · subst on
        rw [serveSoilSetup_taken camera (by decide) heater]
        exact congrArg (·, _) (State.setWatch_same watched)
      · subst off
        rw [serveSoilSetup_taken camera (by decide) heater]
        exact congrArg (·, _) (State.setWatch_same unwatched)
      · intro state
        subst on
        refine served ?_
        rw [serveSoilSetup_taken camera (by decide) heater]
        have record : { r with heaterAllowed := allowed }.watched =
            { cleared with watch := true, state := state, heaterOffOwed := false } := by
          rw [show state = _ from (State.watched_state { r with heaterAllowed := allowed }).symm]
          rfl
        rw [decide_eq_true (rfl : 1#8 = 1#8), State.setWatch_on unwatched]
        exact congrArg (fun x => (s.changeSoil c x .setup, Answer.ok [])) record
      · intro turned handed ended
        subst off
        refine served ?_
        rw [serveSoilSetup_taken camera (by decide) heater]
        exact congrArg (·, _) (State.setWatch_off watched)
  · intro s tag n l r z k m t takes answered
    have served {u : State} {a : Answer} (block : serveSoilTune s tag [n, l, r, z, k, m, t] = (u, a)) : answered u a :=
      exec_requestOfKind_served (kind := .soilTune) takes (by simp) rfl block
    let tuning := Tuning.mk n.toNat l.toNat r.toNat z.toNat k.toNat m.toNat t.toNat
    let reply : Option Nat → Prop
      | some f => answered s (.badField f)
      | none => answered (s.tune tuning) (.ok [])
    have replied : reply (tuningFault tuning) := by
      cases fault : tuningFault tuning with
      | some f =>
        refine served ?_
        unfold serveSoilTune
        rw [show tuningFault (bodyTuning [n, l, r, z, k, m, t]) = some f from fault]
        rfl
      | none =>
        refine served ?_
        unfold serveSoilTune
        rw [show tuningFault (bodyTuning [n, l, r, z, k, m, t]) = none from fault]
        rfl
    rw [tuningFault_eq] at replied
    simp only [apply_ite reply] at replied
    exact replied
  · intro s tag n takes answered
    have served {t : State} {a : Answer} (block : serveSoilLearn s tag [n] = (t, a)) : answered t a :=
      exec_requestOfKind_served (kind := .soilLearn) takes (by simp) rfl block
    refine ⟨fun above => served ?_, ?_⟩
    · have unnamed : camOf (field1 [n] 0) = none := camOf_above above
      unfold serveSoilLearn
      rw [unnamed]
      rfl
    · intro c camera record
      have block := serveSoilLearn_camera (s := s) (tag := tag) camera
      split_ifs with unwatched stopped learning heating
      · exact served (block.trans (if_pos unwatched))
      · exact served (by rw [block, if_neg unwatched, if_pos stopped])
      · exact served (by rw [block, if_neg unwatched, if_neg stopped, if_pos learning])
      · exact served (by rw [block, if_neg unwatched, if_neg stopped, if_neg learning, if_pos heating])
      · rw [if_neg unwatched, if_neg stopped, if_neg learning, if_neg heating] at block
        refine ⟨fun full => served (by rw [block, full]), fun j free => served ?_⟩
        rw [block, free]
        rfl

end Sys2Proof.Machine
end

section
/-! WASH_DONE (R138), and the tests of a list of cameras in a body. -/

namespace Sys2Proof.Machine

/-! ## The items of a body and their tests (R191, R193) -/

/-- The tests of the items of a body, each named by its place after the count. -/
def itemTests (bad : Nat × Nat → Bool) (items : List Nat) : List (Nat × Bool) := items.zipIdx.map fun p => (p.2 + 1, bad p)

theorem firstBad_passed {tests : List (Nat × Bool)} (passed : ∀ p ∈ tests, p.2 = false) (rest : List (Nat × Bool)) :
    firstBad (tests ++ rest) = firstBad rest := by
  have unfound : tests.find? (·.2) = none := List.find?_eq_none.2 fun p mem => by rw [passed p mem]; decide
  rw [firstBad, List.find?_append, unfound, Option.none_or]
  rfl

theorem itemTests_pass {bad : Nat × Nat → Bool} {items : List Nat}
    (pass : ∀ k n, items[k]? = some n → bad (n, k) = false) : ∀ p ∈ itemTests bad items, p.2 = false := by
  intro p mem
  obtain ⟨⟨n, k⟩, listed, rfl⟩ := List.mem_map.1 mem
  exact pass k n (List.mem_zipIdx_iff_getElem?.1 listed)

theorem firstBad_items {bad : Nat × Nat → Bool} {items : List Nat} {k n : Nat} (listed : items[k]? = some n)
    (fails : bad (n, k) = true) (before : ∀ j m, j < k → items[j]? = some m → bad (m, j) = false)
    (rest : List (Nat × Bool)) : firstBad (itemTests bad items ++ rest) = some (k + 1) := by
  have found : items.zipIdx.find? bad = some (n, k) := by
    obtain ⟨within, rfl⟩ := List.getElem?_eq_some_iff.1 listed
    refine List.find?_eq_some_iff_getElem.2 ⟨fails, k, by simpa using within, by simp, fun j less => ?_⟩
    rw [List.getElem_zipIdx, Nat.zero_add, before j _ less (List.getElem?_eq_getElem (by omega))]
    rfl
  rw [firstBad, itemTests, List.find?_append, List.find?_map]
  show (((items.zipIdx.find? bad).map _).or _).map _ = some (k + 1)
  rw [found]
  rfl

theorem filterMap_camOf (cameras : List Cam) : (cameras.map (·.val)).filterMap camOf = cameras := by
  rw [List.filterMap_map]
  exact (List.filterMap_congr fun c _ => camOf_val c).trans List.filterMap_some

theorem numbers_toNat (cameras : List Cam) : (cameras.map fun c => byteOf c.val).map (·.toNat) = cameras.map (·.val) := by
  rw [List.map_map]
  exact List.map_congr_left fun c _ => byteOf_toNat_small (by omega)

/-! ## WASH_DONE (R138) -/

variable {s : State} {tag : Byte} {numbers : List Byte}

theorem serveWashDone_eq (few : numbers.length < 256) : serveWashDone s tag (byteOf numbers.length :: numbers) =
    match firstBad ((0, outside numbers.length 1 14) ::
      itemTests (fun p => (camOf p.1).isNone) (numbers.map (·.toNat))) with
    | some f => (s, .badField f)
    | none => ((((numbers.map (·.toNat)).filterMap camOf).eraseDups).foldl (fun s c => s.wash c) s, .ok []) := by
  have items := listItems_counted few
  have count : field1 (byteOf numbers.length :: numbers) 0 = numbers.length := byteOf_toNat_small few
  unfold serveWashDone
  dsimp only
  rw [items, count]
  rfl

theorem item_named {numbers : List Byte} {cameras : List Cam} (named : numbers.map (·.toNat) = cameras.map (·.val)) {k n : Nat}
    (listed : (numbers.map (·.toNat))[k]? = some n) : (camOf n).isNone = false := by
  rw [named, List.getElem?_map] at listed
  obtain ⟨c, -, rfl⟩ := Option.map_eq_some_iff.1 listed
  rw [camOf_val]
  rfl

theorem queueWashed (s : State) (c : Cam) :
    let washed := (s.changeSoil c (s.soilOf c).washed .wash)
    ((s.soilOf c).state = .clean ∨ (s.soilOf c).state = .suspect ∨ (s.soilOf c).state = .soiled →
      s.wash c = washed.queueForExamination c) ∧
    ((s.soilOf c).state = .heating → s.wash c = (washed.requestHeaterOff c).queueForExamination c) ∧
    ((s.soilOf c).state = .unwatched ∨ (s.soilOf c).state = .unlearned ∨ (s.soilOf c).state = .learning ∨
      (s.soilOf c).state = .verify → s.wash c = s) := by
  unfold State.wash
  dsimp only
  refine ⟨fun shown => ?_, fun heating => by rw [heating], fun idle => ?_⟩
  · obtain state | state | state := shown
    all_goals rw [state]
  · obtain state | state | state | state := idle
    all_goals rw [state]

/-- Settles O48. -/
theorem washDone : Obligations.WashDone := by
  unfold Obligations.WashDone
  refine ⟨?_, queueWashed⟩
  intro s tag numbers takes small answered
  have legal : legalLength .washDone (byteOf numbers.length :: numbers) = true := by
    have count : (byteOf numbers.length).toNat = numbers.length := byteOf_toNat_small small
    show (numbers.length == (byteOf numbers.length).toNat + 0) = true
    rw [count, Nat.add_zero, beq_self_eq_true]
  have served {t : State} {a : Answer} (block : serveWashDone s tag (byteOf numbers.length :: numbers) = (t, a)) :
      answered t a :=
    exec_requestOfKind_served (kind := .washDone) takes (by rw [List.length_cons]; omega) legal block
  have block := serveWashDone_eq (s := s) (tag := tag) small
  rw [firstBad_cons] at block
  refine ⟨fun wrong => served ?_, fun before n after few listed good above => served ?_,
    fun cameras filled few named => served ?_⟩
  · rw [block, if_pos (outside_iff.2 (by omega))]
  · have length : numbers.length = before.length + 1 + after.length := by
      rw [listed, List.length_append, List.length_cons]
      omega
    have place {k : Nat} (earlier : k < before.length) {m : Nat} (item : (numbers.map (·.toNat))[k]? = some m) :
        m ≤ 13 := by
      rw [listed, List.map_append, List.getElem?_append_left (by rwa [List.length_map]), List.getElem?_map] at item
      obtain ⟨b, mem, rfl⟩ := Option.map_eq_some_iff.1 item
      exact good b (List.mem_of_getElem? mem)
    have bad := firstBad_items (bad := fun p => (camOf p.1).isNone) (items := numbers.map (·.toNat)) (k := before.length)
      (n := n.toNat) (by simp [listed]) (camOf_isNone.2 above)
      (fun j m less item => Bool.eq_false_iff.2 (mt camOf_isNone.1 (Nat.not_lt.2 (place less item)))) []
    rw [List.append_nil] at bad
    rw [block, if_neg (mt outside_iff.1 (by omega)), bad]
  · have items : numbers.map (·.toNat) = cameras.map (·.val) := by rw [named, numbers_toNat]
    have pass := firstBad_none (itemTests_pass (bad := fun p => (camOf p.1).isNone) fun k n listed => item_named items listed)
    have length : numbers.length = cameras.length := by rw [named, List.length_map]
    rw [block, if_neg (mt outside_iff.1 (by omega)), pass, items, filterMap_camOf]

end Sys2Proof.Machine
end

section
/-! Judgement and evaluation (R131, R132, R134). -/

namespace Sys2Proof.Machine

/-! ## The judgement of a window (R131) -/

theorem inLuminanceWindow_iff {n : Nat} : inLuminanceWindow n = true ↔ 24 ≤ n ∧ n ≤ 232 := by
  simp [inLuminanceWindow]

theorem judgeable_eq (b : Baseline) (w : ZoneSums) : judgeable (some b) w = fun z =>
    decide (24 ≤ w.luminance[z] / w.examinations ∧ w.luminance[z] / w.examinations ≤ 232 ∧ 64 ≤ b.edges[z]) := by
  funext z
  rw [Bool.eq_iff_iff, judgeable, Bool.and_eq_true, inLuminanceWindow_iff, decide_eq_true_iff, decide_eq_true_iff, and_assoc]
  exact Iff.rfl

theorem judge_eq (b : Option Baseline) (w : ZoneSums) (t : Tuning) :
    let count := (List.finRange 48).countP (judgeable b w)
    let score := (List.finRange 48).countP (lostDetail b w t.ratio)
    (count < 12 → judge b w t = ⟨count, none, .notJudged⟩) ∧
    (12 ≤ count → t.zones ≤ score → judge b w t = ⟨count, some score, .suspect⟩) ∧
    (12 ≤ count → score < t.zones → judge b w t = ⟨count, some score, .clean⟩) := by
  intro count score
  have shape : judge b w t = if count < 12 then ⟨count, none, .notJudged⟩
      else ⟨count, some score, if t.zones ≤ score then .suspect else .clean⟩ := rfl
  refine ⟨fun few => ?_, fun many worse => ?_, fun many better => ?_⟩
  · rw [shape, if_pos few]
  · rw [shape, if_neg (Nat.not_lt.2 many), if_pos worse]
  · rw [shape, if_neg (Nat.not_lt.2 many), if_neg (Nat.not_le.2 better)]

/-! ## A record written twice -/

variable {s : State} {c : Cam}

@[simp] theorem State.setSoilOf_setSoilOf (s : State) (c : Cam) (x y : SoilRecord) :
    (s.setSoilOf c x).setSoilOf c y = s.setSoilOf c y := by
  simp [State.setSoilOf, State.setSoil]

theorem State.setSoilOf_tuning (s : State) (c : Cam) (x : SoilRecord) : (s.setSoilOf c x).soil.tuning = s.soil.tuning := rfl

/-! ## Evaluations that need no confirmation (R132, R134) -/

theorem confirm_below {previous : SoilState} (below : (s.soilOf c).suspectCount < s.soil.tuning.confirm) :
    s.confirm c previous = (s.setSoilOf c { s.soilOf c with state := .suspect }).handSoilOn c previous .evaluation :=
  if_neg (Nat.not_le.2 below)

theorem applyVerdict_notJudged (unheated : (s.soilOf c).state ≠ .heating) : s.applyVerdict c .notJudged = s := by
  unfold State.applyVerdict
  dsimp only
  cases state : (s.soilOf c).state with
  | heating => exact absurd state unheated
  | _ => rfl

theorem applyVerdict_stillClean (state : (s.soilOf c).state = .clean) : s.applyVerdict c .clean = s := by
  unfold State.applyVerdict
  dsimp only
  rw [state]

theorem applyVerdict_unsuspected (state : (s.soilOf c).state = .suspect) : s.applyVerdict c .clean =
    s.changeSoil c { s.soilOf c with suspectCount := 0, state := .clean } .evaluation := by
  unfold State.applyVerdict
  dsimp only
  rw [state]

theorem applyVerdict_cleaner (state : (s.soilOf c).state = .soiled) : s.applyVerdict c .clean =
    if s.soil.tuning.cleanRun ≤ saturate 15 (s.soilOf c).cleanCount then
      s.changeSoil c { (s.soilOf c).zeroCounts with state := .clean, heaterSpent := false } .evaluation
    else s.setSoilOf c { s.soilOf c with cleanCount := saturate 15 (s.soilOf c).cleanCount } := by
  unfold State.applyVerdict
  dsimp only
  rw [state]

theorem applyVerdict_stillSoiled (state : (s.soilOf c).state = .soiled) : s.applyVerdict c .suspect =
    s.setSoilOf c { s.soilOf c with cleanCount := 0 } := by
  unfold State.applyVerdict
  dsimp only
  rw [state]

theorem applyVerdict_verifiedClean (state : (s.soilOf c).state = .verify) : s.applyVerdict c .clean =
    s.changeSoil c { (s.soilOf c).zeroCounts with state := .clean, heaterSpent := false, wasSoiled := false }
      .evaluation := by
  unfold State.applyVerdict
  dsimp only
  rw [state]

theorem applyVerdict_verifiedSoiled (state : (s.soilOf c).state = .verify) : s.applyVerdict c .suspect =
    s.changeSoil c { (s.soilOf c).zeroCounts with state := .soiled, wasSoiled := false } .evaluation := by
  unfold State.applyVerdict
  dsimp only
  rw [state]

theorem applyVerdict_suspects (state : (s.soilOf c).state = .clean) (several : 1 < s.soil.tuning.confirm) :
    s.applyVerdict c .suspect =
      (s.setSoilOf c { s.soilOf c with suspectCount := 1, state := .suspect }).handSoilOn c .clean .evaluation := by
  have applied : s.applyVerdict c .suspect = (s.setSoilOf c { s.soilOf c with suspectCount := 1 }).confirm c .clean := by
    unfold State.applyVerdict
    dsimp only
    rw [state]
  rw [applied, confirm_below (by rw [State.setSoilOf_soilOf, State.setSoilOf_tuning]; exact several),
    State.setSoilOf_soilOf, State.setSoilOf_setSoilOf]

end Sys2Proof.Machine
end

section
/-! Scheduling, the start and the end of an examination (R124 to R131). -/

namespace Sys2Proof.Machine

variable {s : State} {c : Cam} {kept rest : List Cam}

/-! ## Cameras that qualify (R125) -/

/-- R125's condition on the camera. -/
def State.Examinable (s : State) (c : Cam) : Prop :=
  (s.soilOf c).watch = true ∧ (s.soilOf c).state ≠ .unwatched ∧ (s.soilOf c).state ≠ .unlearned ∧ (s.cam c).state = .running

/-- R125's condition on the camera's newest frame. -/
def State.Unexamined (s : State) (c : Cam) : Prop :=
  ∃ i f, s.slots.newest c = some i ∧ s.slots.frame i = some f ∧ (s.soilOf c).lastExamined ≠ some f.sequence

theorem examinable_iff : s.examinable c = true ↔ s.Examinable c := by
  unfold State.examinable State.Examinable
  rw [Bool.and_eq_true, Bool.and_eq_true, beq_iff_eq]
  cases (s.soilOf c).state <;> simp [SoilState.examined]

theorem qualifies_iff : s.qualifies c = true ↔ s.Examinable c ∧ s.Unexamined c := by
  rw [State.qualifies, Bool.and_eq_true, examinable_iff]
  refine and_congr_right fun _ => ?_
  unfold State.newestSequence State.Unexamined
  cases newest : s.slots.newest c with
  | none => simp
  | some i => cases frame : s.slots.frame i <;> simp [frame]

/-! ## The scans of a scheduling decision (R127) -/

theorem scanQueue_started {t : State} (qualifies : s.qualifies c = true) (start : s.startExamination c = (t, .started)) :
    s.scanQueue kept (c :: rest) = (t.setSoil { t.soil with queue := kept ++ rest }, true) := by
  rw [State.scanQueue, if_pos qualifies, start]

theorem scanQueue_geometry {t : State} (qualifies : s.qualifies c = true) (start : s.startExamination c = (t, .geometry)) :
    s.scanQueue kept (c :: rest) = t.scanQueue kept rest := by
  rw [State.scanQueue, if_pos qualifies, start]

theorem scanQueue_waits (examined : ¬ s.qualifies c = true) (examinable : s.examinable c = true) :
    s.scanQueue kept (c :: rest) = s.scanQueue (kept ++ [c]) rest := by
  rw [State.scanQueue, if_neg examined, if_pos examinable]

theorem scanQueue_drops (unexaminable : ¬ s.examinable c = true) :
    s.scanQueue kept (c :: rest) = s.scanQueue kept rest := by
  have examined : ¬ s.qualifies c = true := fun both =>
    unexaminable (examinable_iff.2 (qualifies_iff.1 both).1)
  rw [State.scanQueue, if_neg examined, if_neg unexaminable]

theorem scanRotation_started {t : State} (qualifies : s.qualifies c = true)
    (start : (s.setSoil { s.soil with rotation := c }).startExamination c = (t, .started)) :
    s.scanRotation (c :: rest) = (t, true) := by
  rw [State.scanRotation, if_pos qualifies, start]

theorem scanRotation_geometry {t : State} (qualifies : s.qualifies c = true)
    (start : (s.setSoil { s.soil with rotation := c }).startExamination c = (t, .geometry)) :
    s.scanRotation (c :: rest) = t.scanRotation rest := by
  rw [State.scanRotation, if_pos qualifies, start]

theorem scanRotation_passes (examined : ¬ s.qualifies c = true) : s.scanRotation (c :: rest) = s.scanRotation rest := by
  rw [State.scanRotation, if_neg examined]

theorem scanQueue_none (queue : List Cam) : ∀ kept : List Cam, (∀ c, s.qualifies c = false) →
    s.scanQueue kept queue = (s.setSoil { s.soil with queue := kept ++ queue.filter s.examinable }, false) := by
  induction queue with
  | nil => exact fun kept _ => by rw [List.filter_nil, List.append_nil]; rfl
  | cons c rest ih =>
    intro kept unqualified
    have examined : ¬ s.qualifies c = true := by rw [unqualified c]; decide
    by_cases examinable : s.examinable c = true
    · rw [scanQueue_waits examined examinable, ih _ unqualified, List.filter_cons_of_pos examinable, List.append_assoc]
      rfl
    · rw [scanQueue_drops examinable, ih _ unqualified, List.filter_cons_of_neg examinable]

theorem scanRotation_none (order : List Cam) (unqualified : ∀ c, s.qualifies c = false) :
    s.scanRotation order = (s, false) := by
  induction order with
  | nil => rfl
  | cons c rest ih =>
    rw [scanRotation_passes (by rw [unqualified c]; decide), ih]

theorem requestOwed_none (unowed : ∀ c, (s.soilOf c).heaterOffOwed = false) : s.requestOwed = s := by
  unfold State.requestOwed
  generalize allCams = cameras
  induction cameras with
  | nil => rfl
  | cons c rest ih =>
    rw [List.foldl_cons, unowed c]
    exact ih

theorem schedule_queued {t : State} (scan : s.requestOwed.scanQueue [] s.requestOwed.soil.queue = (t, true)) :
    s.schedule = t := by
  unfold State.schedule
  dsimp only
  rw [scan]

theorem rotationOrder_eq (pointer : Cam) : rotationOrder pointer = (List.finRange 14).map fun k => pointer + 1 + k := rfl

theorem schedule_rotated {t u : State} (scan : s.requestOwed.scanQueue [] s.requestOwed.soil.queue = (t, false))
    (turn : t.scanRotation ((List.finRange 14).map fun k => t.soil.rotation + 1 + k) = (u, true)) : s.schedule = u := by
  rw [← rotationOrder_eq] at turn
  unfold State.schedule
  dsimp only
  rw [scan]
  dsimp only
  rw [turn]

theorem schedule_rests {t u : State} (scan : s.requestOwed.scanQueue [] s.requestOwed.soil.queue = (t, false))
    (turn : t.scanRotation ((List.finRange 14).map fun k => t.soil.rotation + 1 + k) = (u, false)) :
    s.schedule = u.setSoil { u.soil with recheck := some (u.elapsed + 10) } := by
  rw [← rotationOrder_eq] at turn
  unfold State.schedule
  dsimp only
  rw [scan]
  dsimp only
  rw [turn]
  rfl

/-! ## The start of an examination (R128) -/

/-- A baseline of another geometry than a frame's, while no learn runs (R128 step 2). -/
def SoilRecord.Mismatch (r : SoilRecord) (f : FrameFields) : Prop :=
  r.state ≠ .learning ∧ ∃ b, r.baseline = some b ∧ b.geometry ≠ f.geometry

theorem mismatch_iff {r : SoilRecord} {f : FrameFields} :
    (r.state ≠ .learning ∧ r.baseline.any (fun b => b.geometry ≠ f.geometry) = true) ↔ r.Mismatch f := by
  unfold SoilRecord.Mismatch
  cases r.baseline <;> simp

theorem startExamination_noSlot (unpinned : (s.slots.pinNewest c .engine).2 = none) :
    (s.startExamination c).2 = .noSlot := by
  unfold State.startExamination
  generalize s.slots.pinNewest c .engine = pinned at unpinned
  obtain ⟨m, slot⟩ := pinned
  cases unpinned
  rfl

variable {m : SlotManager} {i : SlotNo} {f : FrameFields} (pinned : s.slots.pinNewest c .engine = (m, some i))
  (frame : m.frame i = some f)
include pinned frame

theorem startExamination_mismatch (mismatch : (s.soilOf c).Mismatch f) :
    let lost := ((s.setSlots m).setSlots (m.unpin i .engine)).changeSoil c (s.soilOf c).unlearned .geometry
    s.startExamination c = (if (s.soilOf c).state = .heating then lost.requestHeaterOff c else lost, .geometry) := by
  intro lost
  unfold State.startExamination
  rw [pinned]
  dsimp only
  rw [State.setSlots_slots, frame]
  exact if_pos (mismatch_iff.2 mismatch)

theorem startExamination_started (fits : ¬ (s.soilOf c).Mismatch f) :
    let r := s.soilOf c
    let g := (s.cam c).generation
    let t := (s.setSlots m).setSoilOf c { r with
      window := if r.generationSeen = some g then r.window else ZoneSums.zero, generationSeen := some g,
      lastExamined := some f.sequence }
    s.startExamination c = (t.setSoil { t.soil with
      engine := some ⟨c, i, f.sequence, g, if r.state = .learning then .learn else .watch⟩, recheck := none }, .started) := by
  intro r g t
  unfold State.startExamination
  rw [pinned]
  dsimp only
  rw [State.setSlots_slots, frame]
  exact if_neg (mt mismatch_iff.1 fits)

end Sys2Proof.Machine
end

section
/-! The end of an examination (R130), and the obligation on examinations. -/

namespace Sys2Proof.Machine

variable {s : State} {e : Examination} {f : FrameFields}

/-! ## The end of an examination (R130) -/

/-- The tests of R130 on a result. -/
def State.ResultCounts (s : State) (e : Examination) : Prop :=
  (s.cam e.camera).generation = e.generation ∧ (s.soilOf e.camera).watch = true ∧
    (e.purpose = .learn → (s.soilOf e.camera).state = .learning) ∧
    (e.purpose = .watch → (s.soilOf e.camera).state ≠ .learning ∧ (s.soilOf e.camera).state ≠ .unwatched)

theorem resultCounts_iff : s.resultCounts e = true ↔ s.ResultCounts e := by
  unfold State.resultCounts State.ResultCounts
  rw [Bool.and_eq_true, Bool.and_eq_true, beq_iff_eq, and_assoc]
  cases e.purpose <;> simp

theorem addResult_watch (watch : e.purpose = .watch) (g : Geometry) :
    let r := s.soilOf e.camera
    let t := s.setSoilOf e.camera { r with
      window := r.window.add (meanLuminance s.pixels e.slot g) (edgeEnergy s.pixels e.slot g) }
    s.addResult e g = if s.soil.tuning.window ≤ r.window.examinations + 1 then t.evaluate e.camera else t := by
  unfold State.addResult
  dsimp only
  rw [watch] <;> rfl

theorem addResult_learn (learn : e.purpose = .learn) (g : Geometry) :
    let r := s.soilOf e.camera
    let t := s.setSoilOf e.camera { r with
      learned := r.learned.add (meanLuminance s.pixels e.slot g) (edgeEnergy s.pixels e.slot g) }
    s.addResult e g = if s.soil.tuning.learn ≤ r.learned.examinations + 1 then t.finishLearn e.camera g else t := by
  unfold State.addResult
  dsimp only
  rw [learn] <;> rfl

/-- The engine becomes IDLE and a scheduling decision is made (R130). -/
def State.engineIdles (s : State) : State := (s.setSoil { s.soil with engine := none }).schedule

theorem endExamination_void (examining : s.soil.engine = some e) (void : ¬ s.ResultCounts e) :
    s.endExamination = (s.setSlots (s.slots.unpin e.slot .engine)).engineIdles := by
  have uncounted : ¬ (s.setSlots (s.slots.unpin e.slot .engine)).resultCounts e = true := mt resultCounts_iff.1 void
  unfold State.endExamination
  rw [examining]
  dsimp only
  cases s.slots.frame e.slot with
  | none => rfl
  | some f =>
    dsimp only
    rw [if_neg uncounted]
    rfl

theorem endExamination_counts (examining : s.soil.engine = some e) (counts : s.ResultCounts e)
    (frame : s.slots.frame e.slot = some f) :
    s.endExamination = ((s.setSlots (s.slots.unpin e.slot .engine)).addResult e f.geometry).engineIdles := by
  have counted : (s.setSlots (s.slots.unpin e.slot .engine)).resultCounts e = true := resultCounts_iff.2 counts
  unfold State.endExamination
  rw [examining]
  dsimp only
  rw [frame]
  dsimp only
  rw [if_pos counted]
  rfl

theorem recheckExpired_ignored (ignored : s.soil.engine ≠ none ∨ s.due s.soil.recheck = false) : s.recheckExpired = s := by
  refine if_neg fun both => ?_
  obtain ⟨idle, due⟩ := Bool.and_eq_true_iff.1 both
  obtain examining | early := ignored
  · exact examining (Option.isNone_iff_eq_none.1 idle)
  · rw [early] at due
    cases due

theorem recheckExpired_due (idle : s.soil.engine = none) (due : s.due s.soil.recheck = true) :
    s.recheckExpired = s.schedule :=
  if_pos (Bool.and_eq_true_iff.2 ⟨Option.isNone_iff_eq_none.2 idle, due⟩)

theorem exec_examinationEnd (unasked : s.Unasked) :
    exec .examinationEnd s = .next s.endExamination.sendIfDue := exec_unasked unasked rfl

theorem exec_idleRecheck (unasked : s.Unasked) :
    exec .idleRecheckTimerExpiry s = .next s.recheckExpired.sendIfDue := exec_unasked unasked rfl

/-! ## The outcomes of a scheduling decision (R124, R127) -/

theorem requestOwed_eq (s : State) : s.requestOwed = (List.finRange 14).foldl (fun (t : State) c =>
    if (t.soilOf c).heaterOffOwed then (t.requestHeater c false).1 else t) s := rfl

theorem eq_mk {α β : Type} {p : α × β} {b : β} (second : p.2 = b) : p = (p.1, b) := Prod.ext rfl second

/-! ## A scheduling decision that finds its camera at once (R127) -/

theorem schedule_idle (unowed : ∀ c, (s.soilOf c).heaterOffOwed = false) (unqualified : ∀ c, s.qualifies c = false) :
    s.schedule = s.setSoil { s.soil with queue := s.soil.queue.filter s.examinable, recheck := some (s.elapsed + 10) } := by
  have scan := scanQueue_none s.soil.queue [] unqualified
  rw [List.nil_append] at scan
  rw [schedule_rests ((congrArg (fun t : State => t.scanQueue [] t.soil.queue) (requestOwed_none unowed)).trans scan)
    (scanRotation_none _ unqualified)]
  rfl

theorem schedule_head {c : Cam} {rest : List Cam} {m : SlotManager} {i : SlotNo}
    (unowed : ∀ c, (s.soilOf c).heaterOffOwed = false) (queue : s.soil.queue = c :: rest) (qualifies : s.qualifies c = true)
    (pinned : s.slots.pinNewest c .engine = (m, some i)) (frame : m.frame i = some f)
    (fits : ∀ b, (s.soilOf c).baseline = some b → b.geometry = f.geometry) :
    let r := s.soilOf c
    let g := (s.cam c).generation
    let t := (s.setSlots m).setSoilOf c { r with
      window := if r.generationSeen = some g then r.window else ZoneSums.zero, generationSeen := some g,
      lastExamined := some f.sequence }
    s.schedule = t.setSoil { t.soil with
      queue := rest, engine := some ⟨c, i, f.sequence, g, if r.state = .learning then .learn else .watch⟩, recheck := none } := by
  intro r g t
  have start := startExamination_started pinned frame fun ⟨_, b, baseline, differs⟩ => differs (fits b baseline)
  have scan := scanQueue_started (kept := []) (rest := rest) qualifies start
  refine schedule_queued ?_
  rw [requestOwed_none unowed, queue, scan]
  rfl

/-- Settles O49. -/
theorem examinations : Obligations.Examinations := by
  unfold Obligations.Examinations
  refine ⟨?_, ?_, ?_, fun s unowed => ⟨schedule_idle unowed, ?_⟩, ?_, fun s c => rfl, ?_⟩
  · intro s unasked
    have ended := exec_examinationEnd unasked
    have rechecked := exec_idleRecheck unasked
    refine ⟨fun idle => ?_, fun examining => ?_, fun early => ?_, fun d idle running reached => ?_, ?_⟩
    · rw [ended, State.endExamination, idle]
    · rw [rechecked, recheckExpired_ignored (.inl examining)]
    · rw [rechecked, recheckExpired_ignored (.inr (due_false early))]
    · rw [rechecked, recheckExpired_due idle ((due_iff s _).2 ⟨d, running, reached⟩)]
    · intro e examining c r unpinned idle passes
      refine ⟨fun void => ?_, fun f counts frame => ?_⟩
      · rw [ended, endExamination_void examining void]
        rfl
      · intro light edges watched learned
        rw [endExamination_counts examining counts frame] at ended
        refine ⟨fun watch below => ?_, fun watch reached => ?_, fun learn below => ?_, fun learn reached => ?_⟩
        · rw [ended, addResult_watch watch]
          exact congrArg (fun t : State => Host.Outcome.next t.engineIdles.sendIfDue) (if_neg (Nat.not_le.2 below))
        · rw [ended, addResult_watch watch]
          exact congrArg (fun t : State => Host.Outcome.next t.engineIdles.sendIfDue) (if_pos reached)
        · rw [ended, addResult_learn learn]
          exact congrArg (fun t : State => Host.Outcome.next t.engineIdles.sendIfDue) (if_neg (Nat.not_le.2 below))
        · rw [ended, addResult_learn learn]
          exact congrArg (fun t : State => Host.Outcome.next t.engineIdles.sendIfDue) (if_pos reached)
  · intro s owing queued rotated
    have owed : s.requestOwed = owing := requestOwed_eq s
    clear_value owing
    subst owed
    refine ⟨fun found => schedule_queued (eq_mk found), fun unfound => ⟨fun found => ?_, fun none => ?_⟩, ?_⟩
    · exact schedule_rotated (t := queued) (u := rotated) (eq_mk unfound) (eq_mk found)
    · exact schedule_rests (t := queued) (u := rotated) (eq_mk unfound) (eq_mk none)
    intro c kept rest examinable fresh pointed
    have qualified (camera : examinable) (frame : fresh) : s.qualifies c = true := qualifies_iff.2 ⟨camera, frame⟩
    refine ⟨rfl, fun camera frame started => ?_, fun camera frame lost => ?_, fun camera examined => ?_, fun camera => ?_,
        rfl, fun camera frame started => ?_, fun camera frame lost => ?_, fun unqualified => ?_⟩
    · exact scanQueue_started (qualified camera frame) (Prod.ext rfl started)
    · exact scanQueue_geometry (qualified camera frame) (Prod.ext rfl lost)
    · exact scanQueue_waits (fun both => examined (qualifies_iff.1 both).2) (examinable_iff.2 camera)
    · exact scanQueue_drops (mt examinable_iff.1 camera)
    · exact scanRotation_started (qualified camera frame) (Prod.ext rfl started)
    · exact scanRotation_geometry (qualified camera frame) (Prod.ext rfl lost)
    · exact scanRotation_passes (mt qualifies_iff.1 unqualified)
  · intro s c r
    refine ⟨startExamination_noSlot, ?_⟩
    intro m i f pinned frame unpinned mismatch lost g seen t
    refine ⟨fun differs unheated => ?_, fun differs heating => ?_, fun fits => ?_⟩
    · rw [startExamination_mismatch pinned frame differs, if_neg unheated]
      rfl
    · rw [startExamination_mismatch pinned frame differs, if_pos heating]
      rfl
    · exact startExamination_started pinned frame fits
  · intro c rest m i f queue qualifies pinned frame fits
    exact schedule_head unowed queue qualifies pinned frame fits
  · intro b w t light edge judged lost count score
    have judges := judge_eq (some b) w t
    have counted : judgeable (some b) w = judged := judgeable_eq b w
    have scored : lostDetail (some b) w t.ratio = lost := by
      funext z
      rw [lostDetail, counted]
      rfl
    rw [counted, scored] at judges
    exact judges
  · intro s c r zeroed clean hand
    refine ⟨fun state several => ?_, fun state => applyVerdict_stillClean state, fun state => applyVerdict_unsuspected state,
      fun state reached => ?_, fun state below => ?_, fun state => applyVerdict_stillSoiled state,
      fun state => applyVerdict_verifiedClean state, fun state => applyVerdict_verifiedSoiled state, applyVerdict_notJudged⟩
    · rw [applyVerdict_suspects state several, ← state]
    · rw [applyVerdict_cleaner state]
      exact if_pos reached
    · rw [applyVerdict_cleaner state]
      exact if_neg (Nat.not_le.2 below)

end Sys2Proof.Machine
end

section
/-! A change of soiling state handed on, confirmation and heating (R99, R132, R133, R135 to R137, R126). -/

namespace Sys2Proof.Machine

variable {s : State} {c : Cam}

/-! ## Handing a change on (R99, R135, R143) -/

theorem trigger_now (s : State) (k : TriggerKind) (c : Cam) : (s.trigger k c).now = s.now :=
  ((Keeps.refl (p := (· = .timeBase)) s).trigger k c).same .timeBase rfl

theorem trigger_soilContent (s : State) (k : TriggerKind) (d c : Cam) (previous : SoilState) (cause : SoilCause) :
    (s.trigger k d).soilContent c previous cause = s.soilContent c previous cause := by
  unfold State.soilContent State.soilOf
  rw [State.trigger_soil, trigger_now]

/-- The SOILED marker at once on a tile that shows the camera (R99). -/
def soiledTile (c : Cam) (t : ResolvedTile) : ResolvedTile :=
  if t.shown = some c ∧ t.slot ≠ none then { t with markers := { t.markers with soiled := true } } else t

theorem markSoiled_eq (k : Composer) (c : Cam) :
    k.markSoiled c = { k with screen := { k.screen with tiles := k.screen.tiles.map (soiledTile c) } } := by
  have tile : (fun t : ResolvedTile => t.markSoiled c) = soiledTile c := by
    funext t
    exact if_congr (and_congr_right fun _ => Option.isSome_iff_ne_none) rfl rfl
  rw [Composer.markSoiled, tile]

theorem soilContent_eq (s : State) (c : Cam) (previous : SoilState) (cause : SoilCause) :
    let r := s.soilOf c
    s.soilContent c previous cause =
      { camera := c, state := r.state, previous := previous, cause := cause,
        marker := decide (r.state = .soiled ∨ (r.state = .verify ∧ r.wasSoiled = true)), lastScore := r.lastScore,
        lastJudgeable := r.lastJudgeable, heaterSpent := r.heaterSpent, wasSoiled := r.wasSoiled,
        baselineValid := decide (r.baseline ≠ none), lastHeater := r.lastHeater, time := s.now } := by
  intro r
  have marker : r.marker = decide (r.state = .soiled ∨ (r.state = .verify ∧ r.wasSoiled = true)) := by
    rw [Bool.eq_iff_iff, decide_eq_true_iff]
    exact SoilRecord.marker_iff
  have valid : r.baseline.isSome = decide (r.baseline ≠ none) := by cases r.baseline <;> rfl
  rw [← marker, ← valid]
  rfl

theorem handSoilOn_same {previous : SoilState} {cause : SoilCause} (same : (s.soilOf c).state = previous) :
    s.handSoilOn c previous cause = s := if_pos same

theorem handSoilOn_changed {told : State} {previous : SoilState} {cause : SoilCause} (changed : (s.soilOf c).state ≠ previous)
    (marked : (if (s.soilOf c).marker then (s.setScreenA (s.screenA.markSoiled c)).setScreenB (s.screenB.markSoiled c)
      else s) = told) (content : told.soilContent c previous cause = s.soilContent c previous cause) :
    s.handSoilOn c previous cause = (if (s.soilOf c).state = .soiled then told.trigger .soiled c else told).raise
      (.soilState c) (.soilState (s.soilContent c previous cause)) := by
  unfold State.handSoilOn
  dsimp only
  rw [if_neg changed, marked]
  split
  · rw [trigger_soilContent, content]
  · rw [content]

/-! ## Heater requests and their results (R136, R137) -/

theorem requestHeater_admitted {on : Bool} {control : ControlRecord} (admitted : (s.ctl c).heaterRequest on = some control) :
    s.requestHeater c on = ((s.setCtl c control).setSoilOf c { s.soilOf c with heaterOffOwed := false }, true) := by
  unfold State.requestHeater
  rw [admitted]

theorem requestHeater_full {on : Bool} (full : (s.ctl c).heaterRequest on = none) :
    s.requestHeater c on = (s.setSoilOf c { s.soilOf c with
      lastHeater := some ⟨on, .full⟩, heaterOffOwed := (s.soilOf c).heaterOffOwed || !on }, false) := by
  unfold State.requestHeater
  rw [full]

theorem heaterResult_fails {outcome : HeaterOutcome} (failed : outcome ≠ .done) (heating : (s.soilOf c).state = .heating) :
    s.heaterResult c true outcome =
      (s.changeSoil c { { s.soilOf c with lastHeater := some ⟨true, outcome⟩ }.zeroCounts with state := .soiled }
        .heaterFail).requestHeaterOff c := if_pos ⟨rfl, failed, heating⟩

theorem heaterResult_noted {on : Bool} {outcome : HeaterOutcome}
    (noted : on = false ∨ outcome = .done ∨ (s.soilOf c).state ≠ .heating) :
    s.heaterResult c on outcome = s.setSoilOf c { s.soilOf c with lastHeater := some ⟨on, outcome⟩ } := by
  refine if_neg fun ⟨asked, failed, heating⟩ => ?_
  obtain off | done | unheated := noted
  · rw [off] at asked
    cases asked
  · exact failed done
  · exact unheated heating

/-! ## The confirmation test (R132) -/

/-- A heating trial is open to a camera (R132). -/
def State.TrialOpen (s : State) (c : Cam) : Prop :=
  (s.cam c).heaterPresent = 1#8 ∧ (s.soilOf c).heaterAllowed = true ∧ (s.soilOf c).heaterSpent = false

theorem trialOpen_iff : ((s.cam c).hasHeater = true ∧ (s.soilOf c).heaterAllowed = true ∧ (s.soilOf c).heaterSpent = false) ↔
    s.TrialOpen c := by
  refine and_congr_left fun _ => ?_
  simp [CameraRecord.hasHeater]

theorem setSoilOf_setCtl (s : State) (c : Cam) (x y : SoilRecord) (control : ControlRecord) :
    ((s.setSoilOf c x).setCtl c control).setSoilOf c y = (s.setCtl c control).setSoilOf c y := by
  rw [show (s.setSoilOf c x).setCtl c control = (s.setCtl c control).setSoilOf c x from rfl, State.setSoilOf_setSoilOf]

variable {previous : SoilState} (reached : s.soil.tuning.confirm ≤ (s.soilOf c).suspectCount)
include reached

theorem confirm_noTrial (closed : ¬ s.TrialOpen c) : s.confirm c previous =
    (s.setSoilOf c { s.soilOf c with state := .soiled, suspectCount := 0 }).handSoilOn c previous .evaluation := by
  unfold State.confirm
  dsimp only
  rw [if_pos reached, if_neg (mt trialOpen_iff.1 closed)]

theorem confirm_heats {control : ControlRecord} (trial : s.TrialOpen c)
    (admitted : (s.ctl c).heaterRequest true = some control) : s.confirm c previous =
    ((s.setCtl c control).setSoilOf c { (s.soilOf c).zeroCounts with
      heaterOffOwed := false, state := .heating, heaterSpent := true }).handSoilOn c previous .evaluation := by
  unfold State.confirm
  dsimp only
  rw [if_pos reached, if_pos (trialOpen_iff.2 trial), requestHeater_admitted admitted]
  dsimp only
  rw [State.setSoilOf_soilOf, State.setSoilOf_setSoilOf]
  rfl

theorem confirm_full (trial : s.TrialOpen c) (full : (s.ctl c).heaterRequest true = none) : s.confirm c previous =
    (s.setSoilOf c { s.soilOf c with
      lastHeater := some ⟨true, .full⟩, state := .soiled, heaterSpent := true, suspectCount := 0 }).handSoilOn c previous
      .heaterFail := by
  unfold State.confirm
  dsimp only
  rw [if_pos reached, if_pos (trialOpen_iff.2 trial), requestHeater_full full]
  dsimp only
  rw [State.setSoilOf_soilOf, State.setSoilOf_setSoilOf, Bool.not_true, Bool.or_false]

end Sys2Proof.Machine
end

section
/-! Evaluations in HEATING (R133), and the obligation on confirmation and heating. -/

namespace Sys2Proof.Machine

variable {s : State} {c : Cam}

/-! ## Evaluations in HEATING (R133) -/

theorem State.setSoilOf_self (s : State) (c : Cam) : s.setSoilOf c (s.soilOf c) = s := by
  have records : s.soil.records.set c.val (s.soilOf c) c.isLt = s.soil.records := Vector.set_getElem_self c.isLt
  rw [setSoilOf, records]
  rfl

theorem countTrial_spent {x : SoilRecord} (spent : s.soil.tuning.trial ≤ saturate 30 x.trialCount) :
    (s.setSoilOf c x).countTrial c =
      ((s.setSoilOf c { x.zeroCounts with state := .soiled }).handSoilOn c x.state .evaluation).requestHeaterOff c := by
  unfold State.countTrial State.changeSoil
  dsimp only
  rw [State.setSoilOf_soilOf, State.setSoilOf_setSoilOf, State.setSoilOf_tuning, if_pos spent]

theorem countTrial_running {x : SoilRecord} (running : saturate 30 x.trialCount < s.soil.tuning.trial) :
    (s.setSoilOf c x).countTrial c = s.setSoilOf c { x with trialCount := saturate 30 x.trialCount } := by
  unfold State.countTrial
  dsimp only
  rw [State.setSoilOf_soilOf, State.setSoilOf_setSoilOf, State.setSoilOf_tuning, if_neg (Nat.not_le.2 running)]

/-- The clean count that an evaluation in HEATING leaves, where it does not end the trial (R133). -/
def Verdict.heatingCount (v : Verdict) (r : SoilRecord) : Nat :=
  match v with
  | .clean => saturate 15 r.cleanCount
  | .suspect => 0
  | .notJudged => r.cleanCount

theorem applyVerdict_heatedClean (state : (s.soilOf c).state = .heating) (twice : 2 ≤ saturate 15 (s.soilOf c).cleanCount) :
    s.applyVerdict c .clean =
      (s.changeSoil c { (s.soilOf c).zeroCounts with state := .clean, heaterSpent := false } .evaluation).requestHeaterOff
        c := by
  unfold State.applyVerdict
  dsimp only
  rw [state]
  exact if_pos twice

theorem applyVerdict_heating {v : Verdict} (state : (s.soilOf c).state = .heating)
    (unended : v ≠ .clean ∨ saturate 15 (s.soilOf c).cleanCount < 2) :
    s.applyVerdict c v = (s.setSoilOf c { s.soilOf c with cleanCount := v.heatingCount (s.soilOf c) }).countTrial c := by
  cases v with
  | clean =>
    have once : ¬ 2 ≤ saturate 15 (s.soilOf c).cleanCount :=
      Nat.not_le.2 (unended.resolve_left (not_not_intro rfl))
    unfold State.applyVerdict
    dsimp only
    rw [state]
    exact if_neg once
  | suspect =>
    unfold State.applyVerdict
    dsimp only
    rw [state]
    rfl
  | notJudged =>
    have same : s.setSoilOf c { s.soilOf c with cleanCount := Verdict.notJudged.heatingCount (s.soilOf c) } = s :=
      State.setSoilOf_self s c
    unfold State.applyVerdict
    dsimp only
    rw [same, state]

/-! ## Suspect evaluations in CLEAN and SUSPECT (R132) -/

/-- The suspect count that a suspect evaluation leaves before the confirmation test (R132). -/
def SoilRecord.suspected (r : SoilRecord) : Nat := if r.state = .clean then 1 else saturate 15 r.suspectCount

/-- The state at the confirmation test of a suspect evaluation (R132). -/
def State.suspected (s : State) (c : Cam) : State :=
  s.setSoilOf c { s.soilOf c with suspectCount := (s.soilOf c).suspected }

theorem suspected_soilOf (s : State) (c : Cam) :
    (s.suspected c).soilOf c = { s.soilOf c with suspectCount := (s.soilOf c).suspected } := State.setSoilOf_soilOf s c _

theorem suspected_trialOpen : (s.suspected c).TrialOpen c ↔ s.TrialOpen c := by
  unfold State.TrialOpen
  rw [suspected_soilOf]
  exact Iff.rfl

theorem applyVerdict_confirms (state : (s.soilOf c).state = .clean ∨ (s.soilOf c).state = .suspect) :
    s.applyVerdict c .suspect = (s.suspected c).confirm c (s.soilOf c).state := by
  unfold State.applyVerdict State.suspected SoilRecord.suspected
  dsimp only
  obtain state | state := state
  all_goals rw [state]; rfl

/-! ## The priority queue (R124, R126) -/

theorem queueForExamination_new (new : c ∉ s.soil.queue) :
    let added := s.setSoil { s.soil with queue := s.soil.queue ++ [c] }
    s.queueForExamination c = if s.soil.engine.isNone then added.schedule else added := if_neg new

/-- Settles O50. -/
theorem confirmationAndHeating : Obligations.ConfirmationAndHeating := by
  unfold Obligations.ConfirmationAndHeating
  refine ⟨?_, ?_, ?_, ?_, ?_, ?_⟩
  · intro s told c previous cause r marker soiled marked triggered
    refine ⟨handSoilOn_same, fun changed notified => ?_⟩
    rw [← soilContent_eq s c previous cause]
    obtain ⟨marker, rfl⟩ | ⟨unmarked, rfl⟩ := notified
    · refine handSoilOn_changed changed ?_ rfl
      rw [if_pos (SoilRecord.marker_iff.2 marker), markSoiled_eq, markSoiled_eq]
      rfl
    · exact handSoilOn_changed changed (if_neg (mt SoilRecord.marker_iff.1 unmarked)) rfl
  · intro s c r count hand trial state
    have confirms := applyVerdict_confirms state
    have written := suspected_soilOf s c
    have still (x : SoilRecord) : (s.suspected c).setSoilOf c x = s.setSoilOf c x := State.setSoilOf_setSoilOf ..
    refine ⟨fun below => ?_, fun reached closed => ?_, fun control reached unbarred admitted => ?_,
      fun reached unbarred full => ?_⟩
    · rw [confirms, confirm_below (by rw [written]; exact below), written, still]
      rfl
    · rw [confirms, confirm_noTrial (by rw [written]; exact reached) (mt suspected_trialOpen.1 closed), written, still]
    · rw [confirms, confirm_heats (s := s.suspected c) (by rw [written]; exact reached) (suspected_trialOpen.2 unbarred)
        admitted, written, State.suspected, setSoilOf_setCtl]
      rfl
    · rw [confirms, confirm_full (s := s.suspected c) (by rw [written]; exact reached) (suspected_trialOpen.2 unbarred) full,
        written, still]
  · intro s c v r clean trial zeroed ended state
    refine ⟨fun judged twice => ?_, fun unended spent => ?_, fun unended running => ?_⟩
    · rw [judged, applyVerdict_heatedClean state twice, State.changeSoil, state]
      rfl
    · rw [applyVerdict_heating state unended, countTrial_spent (by exact spent)]
      dsimp only
      rw [state]
      rfl
    · rw [applyVerdict_heating state unended, countTrial_running (by exact running)]
      cases v <;> rfl
  · intro s c on r
    refine ⟨fun control => requestHeater_admitted, fun full => ?_, fun full => ?_, rfl⟩
    · rw [requestHeater_full full, Bool.not_true, Bool.or_false]
    · rw [requestHeater_full full, Bool.not_false, Bool.or_true]
  · intro s c on outcome noted
    refine ⟨fun asked failed heating => ?_, heaterResult_noted⟩
    have undone : outcome ≠ .done := by
      obtain rfl | rfl := failed
      all_goals nofun
    rw [asked, heaterResult_fails undone heating, State.changeSoil, heating]
    subst asked
    rfl
  · intro s c added
    refine ⟨fun queued => if_pos queued, fun new idle => ?_, fun new examining => ?_⟩
    · rw [queueForExamination_new new, idle]
      exact if_pos rfl
    · rw [queueForExamination_new new]
      exact if_neg (mt Option.isNone_iff_eq_none.1 examining)

end Sys2Proof.Machine
end

section
/-! The zone values of an examination (R129), the ends of a learn (R141, R142) and the camera state notices at the soiling
monitor (R139). -/

namespace Sys2Proof.Machine

/-! ## Zone values (R129) -/

theorem sum_bounded {l : List Nat} {bound : Nat} (bounded : ∀ x ∈ l, x ≤ bound) : l.sum ≤ l.length * bound := by
  have sum := List.sum_le_card_nsmul l bound bounded
  rwa [smul_eq_mul] at sum

theorem Rect.sum_bounded {r : Rect} {value : Nat → Nat → Nat} {bound : Nat} (bounded : ∀ x y, value x y ≤ bound) :
    r.sum value ≤ r.w * r.h * bound := by
  have rows : ∀ n ∈ (List.range r.h).map fun j => ((List.range r.w).map fun i => value (r.x + i) (r.y + j)).sum,
      n ≤ r.w * bound := by
    intro n mem
    obtain ⟨j, -, rfl⟩ := List.mem_map.1 mem
    have row := Machine.sum_bounded (l := (List.range r.w).map fun i => value (r.x + i) (r.y + j)) (bound := bound)
      fun x mem => by
        obtain ⟨i, -, rfl⟩ := List.mem_map.1 mem
        exact bounded ..
    rwa [List.length_map, List.length_range] at row
  have total := Machine.sum_bounded rows
  rw [List.length_map, List.length_range] at total
  calc r.sum value ≤ r.h * (r.w * bound) := total
    _ = r.w * r.h * bound := by rw [← Nat.mul_assoc, Nat.mul_comm r.h]

theorem luminanceAt_le (pixels : List Host.Cell) (slot : SlotNo) (g : Geometry) (x y : Nat) :
    luminanceAt pixels slot g x y ≤ 255 := by
  have below := (Memory.read pixels (slotAddress slot ((y * g.width + x) * 2))).isLt
  unfold luminanceAt
  omega

theorem difference_eq (a b : Nat) : difference a b = if a ≤ b then b - a else a - b := by
  unfold difference
  split <;> omega

theorem difference_le {a b bound : Nat} (left : a ≤ bound) (right : b ≤ bound) : difference a b ≤ bound := by
  unfold difference
  omega

theorem meanLuminance_le (pixels : List Host.Cell) (slot : SlotNo) (g : Geometry) (z : Zone) :
    meanLuminance pixels slot g z ≤ 255 :=
  Nat.div_le_of_le_mul (Rect.sum_bounded (luminanceAt_le pixels slot g))

theorem edgeEnergy_le (pixels : List Host.Cell) (slot : SlotNo) (g : Geometry) (z : Zone) :
    edgeEnergy pixels slot g z ≤ 4080 := by
  let inner : Rect := { zoneRect g z with w := (zoneRect g z).w - 1, h := (zoneRect g z).h - 1 }
  let edge := fun x y => difference (luminanceAt pixels slot g x y) (luminanceAt pixels slot g (x + 1) y)
    + difference (luminanceAt pixels slot g x y) (luminanceAt pixels slot g x (y + 1))
  have steps (x y : Nat) : edge x y ≤ 510 := by
    have right := difference_le (luminanceAt_le pixels slot g x y) (luminanceAt_le pixels slot g (x + 1) y)
    have lower := difference_le (luminanceAt_le pixels slot g x y) (luminanceAt_le pixels slot g x (y + 1))
    exact Nat.add_le_add right lower
  have sum : inner.sum edge ≤ inner.w * inner.h * 510 := Rect.sum_bounded steps
  show 8 * inner.sum edge / (inner.w * inner.h) ≤ 4080
  refine Nat.div_le_of_le_mul ?_
  omega

/-! ## The ends of a learn (R141, R142) -/

variable {s : State} {c : Cam}

theorem learnCounted_eq (a : ZoneSums) : learnCounted a = fun z =>
    decide (24 ≤ a.luminance[z] / a.examinations ∧ a.luminance[z] / a.examinations ≤ 232) := by
  funext z
  rw [Bool.eq_iff_iff, learnCounted, inLuminanceWindow_iff, decide_eq_true_iff]
  exact Iff.rfl

theorem finishLearn_succeeds {g : Geometry} (enough : 24 ≤ countedZones (s.soilOf c).learned) :
    let r := s.soilOf c
    let b := learnedBaseline r.learned g
    s.finishLearn c g = (s.changeSoil c (r.learnSucceeded b) .learnEnd).endJob? r.learnJob .ok
      [byteOf (countedZones r.learned), byteOf b.usableZones] := if_pos enough

theorem finishLearn_dark {g : Geometry} (few : countedZones (s.soilOf c).learned < 24) :
    let r := s.soilOf c
    s.finishLearn c g = (s.changeSoil c r.learnAbandoned .learnEnd).endJob? r.learnJob .dark
      [byteOf (countedZones r.learned)] := if_neg (Nat.not_le.2 few)

theorem learnAbandoned_eq {r : SoilRecord} {x : SoilState} (before : r.beforeLearning = some x) :
    r.learnAbandoned = { r with state := x, learned := ZoneSums.zero, beforeLearning := none, learnJob := none } := by
  rw [SoilRecord.learnAbandoned, before]
  rfl

theorem loseLearn_idle (idle : (s.soilOf c).state ≠ .learning) : s.loseLearn c = s := if_neg idle

theorem loseLearn_learning {x : SoilState} (learning : (s.soilOf c).state = .learning)
    (before : (s.soilOf c).beforeLearning = some x) : s.loseLearn c =
      ((s.setSoilOf c { s.soilOf c with state := x, learned := ZoneSums.zero, beforeLearning := none, learnJob := none }).handSoilOn
        c .learning .learnEnd).endJob? (s.soilOf c).learnJob .cameraLost [] := by
  unfold State.loseLearn State.changeSoil
  dsimp only
  rw [if_pos learning, learnAbandoned_eq before, learning]

/-! ## Entry to STOPPING and FAILED (R139) -/

/-- The record as entry to STOPPING or FAILED leaves it, but for its state (R139). -/
def SoilRecord.left (r : SoilRecord) (new : CaptureState) : SoilRecord :=
  let cleared := if r.watch then { r.zeroCounts with window := ZoneSums.zero } else r
  if new = .stopping then { cleared with heaterOffOwed := false } else cleared

/-- The camera's record becomes CLEAN as it leaves its stream (R139). -/
def State.cleaned (s : State) (c : Cam) (new : CaptureState) : State :=
  s.changeSoil c { (s.soilOf c).left new with state := .clean, heaterSpent := false } .camera

theorem soilStopped_suspect {new : CaptureState} (suspect : (s.soilOf c).state = .suspect) :
    s.soilStopped c new = s.cleaned c new := by
  unfold State.soilStopped
  dsimp only
  rw [suspect]
  rfl

theorem soilStopped_heating {new : CaptureState} (heating : (s.soilOf c).state = .heating) :
    s.soilStopped c new = if new = .failed then (s.cleaned c new).requestHeaterOff c else s.cleaned c new := by
  unfold State.soilStopped
  dsimp only
  rw [heating]
  rfl

theorem soilStopped_other {new : CaptureState} (unsuspected : (s.soilOf c).state ≠ .suspect)
    (unheated : (s.soilOf c).state ≠ .heating) : s.soilStopped c new = s.setSoilOf c ((s.soilOf c).left new) := by
  unfold State.soilStopped
  dsimp only
  cases state : (s.soilOf c).state with
  | suspect => exact absurd state unsuspected
  | heating => exact absurd state unheated
  | _ => rfl

theorem soilNotice_stopped {new : CaptureState} (stopped : new = .stopping ∨ new = .failed) :
    s.soilNotice c new = (s.loseLearn c).soilStopped c new := by
  obtain rfl | rfl := stopped
  all_goals rfl

/-- Settles O51. -/
theorem zonesLearnsAndNotices : Obligations.ZonesLearnsAndNotices := by
  unfold Obligations.ZonesLearnsAndNotices
  refine ⟨?_, ?_, ?_⟩
  · intro pixels slot g z width height light apart total
    refine ⟨rfl, meanLuminance_le pixels slot g z, ?_, edgeEnergy_le pixels slot g z⟩
    have same : difference = apart := funext fun a => funext fun b => difference_eq a b
    rw [← same]
    rfl
  · intro s c g r light counts edges counted usable cleared
    have zones : learnCounted r.learned = counts := learnCounted_eq r.learned
    have number : countedZones r.learned = counted := by rw [countedZones, zones]
    have baseline : learnedBaseline r.learned g = ⟨edges, g⟩ := by
      rw [learnedBaseline, zones]
      rfl
    refine ⟨fun enough => ?_, fun x few before => ?_⟩
    · rw [finishLearn_succeeds (by rw [number]; exact enough), number, baseline]
      rfl
    · rw [finishLearn_dark (by rw [number]; exact few), number, learnAbandoned_eq before]
      rfl
  · intro s c now r abandoned zeroed left cleaned
    refine ⟨fun lost stopping failed => ?_, fun lost idle => ?_, fun x lost learning before => ?_, fun stopped t source => ?_⟩
    · cases now with
      | lost => exact absurd rfl lost
      | stopping => exact absurd rfl stopping
      | failed => exact absurd rfl failed
      | _ => rfl
    · rw [lost]
      exact loseLearn_idle idle
    · rw [lost]
      exact loseLearn_learning learning before
    · have learnt : s.loseLearn c = t := by
        obtain ⟨idle, rfl⟩ | ⟨learning, x, before, rfl⟩ := source
        · exact loseLearn_idle idle
        · exact loseLearn_learning learning before
      rw [soilNotice_stopped stopped, learnt]
      refine ⟨fun suspect => ?_, fun heating stopping => ?_, fun heating failed => ?_, soilStopped_other⟩
      · exact soilStopped_suspect suspect
      · rw [soilStopped_heating heating, if_neg (by rw [stopping]; nofun)]
        rfl
      · rw [soilStopped_heating heating, if_pos failed]
        rfl

end Sys2Proof.Machine
end

section
/-! The trigger map (R147), automatic triggers and the collection of DOOR clips (R150 to R154, R156). -/

namespace Sys2Proof.Machine

variable {s : State} {id : ClipId} {c : Cam} {k : Clip}

/-! ## TRIGGER_MAP_SET (R147) -/

/-- The test of a field of TRIGGER_MAP_SET. -/
def triggerFieldBad (body : List Byte) (f : Nat) : Bool :=
  if f % 3 = 0 then (flagOf (field1 body f)).isNone else decide (8 < field1 body f)

theorem triggerFieldBad_iff {body : List Byte} {f : Nat} :
    triggerFieldBad body f = true ↔ ¬(if f % 3 = 0 then field1 body f ≤ 1 else field1 body f ≤ 8) := by
  unfold triggerFieldBad
  split
  · rw [flagOf_isNone, Nat.not_le]
  · rw [decide_eq_true_iff, Nat.not_le]

theorem bodyTrigger_eq (body : List Byte) (k : Nat) : bodyTrigger body k =
    ⟨decide (field1 body (3 * k) = 1), field1 body (3 * k + 1), field1 body (3 * k + 2)⟩ := by
  rw [bodyTrigger, flagOf_getD]

theorem serveTriggerMapSet_eq (s : State) (tag : Byte) (body : List Byte) : serveTriggerMapSet s tag body =
    match firstBad ((List.range 9).map fun f => (f, triggerFieldBad body f)) with
    | some f => (s, .badField f)
    | none => (s.setClips { s.clips with map := ⟨bodyTrigger body 0, bodyTrigger body 1, bodyTrigger body 2⟩ }, .ok []) := rfl

/-- Settles O52. -/
theorem triggerMapSet : Obligations.TriggerMapSet := by
  unfold Obligations.TriggerMapSet
  intro s tag body takes length answered legal
  have served {t : State} {a : Answer} (block : serveTriggerMapSet s tag body = (t, a)) : answered t a :=
    exec_requestOfKind_served (kind := .triggerMapSet) takes (by omega) (beq_iff_eq.2 length) block
  have good {f : Nat} (lawful : legal f) : triggerFieldBad body f = false :=
    Bool.eq_false_iff.2 fun bad => triggerFieldBad_iff.1 bad lawful
  refine ⟨fun f within illegal before => served ?_, fun all => served ?_⟩
  · rw [serveTriggerMapSet_eq, firstBad_range within (triggerFieldBad_iff.2 illegal) fun e less => good (before e less)]
  · rw [serveTriggerMapSet_eq, firstBad_range_none fun f within => good (all f within), bodyTrigger_eq, bodyTrigger_eq,
      bodyTrigger_eq]

/-! ## Clips and claims (R148, R149) -/

theorem mapClip_some {f : Clip → Clip} (clip : s.clip id = some k) : s.mapClip id f = s.setClip id (some (f k)) := by
  rw [State.mapClip, clip]
  rfl

theorem claimFor_answer (s : State) (id : ClipId) (c : Cam) (i : SlotNo) (q : Word32) (role : FrameRole) :
    (s.claimFor id c i q role).2 = (s.slots.claim id c i q).2 := by
  unfold State.claimFor
  dsimp only
  generalize s.slots.claim id c i q = claim
  obtain ⟨m, answer⟩ := claim
  cases answer <;> rfl

theorem claimFor_refused {i : SlotNo} {q : Word32} {role : FrameRole}
    (refused : (s.slots.claim id c i q).2 = .gone ∨ (s.slots.claim id c i q).2 = .claimed ∨
      (s.slots.claim id c i q).2 = .hold) : s.claimFor id c i q role = (s, (s.slots.claim id c i q).2) := by
  unfold State.claimFor
  dsimp only
  generalize s.slots.claim id c i q = claim at refused
  obtain ⟨m, answer⟩ := claim
  obtain rfl | rfl | rfl := refused
  all_goals rfl

theorem claimFor_unclaimed {i : SlotNo} {q : Word32} {role : FrameRole} {a : ClaimAnswer}
    (answer : (s.claimFor id c i q role).2 = a) (refused : a = .gone ∨ a = .claimed ∨ a = .hold) :
    s.claimFor id c i q role = (s, a) := by
  have claim : (s.slots.claim id c i q).2 = a := by rw [← claimFor_answer, answer]
  rw [claimFor_refused (by rw [claim]; exact refused), claim]

/-! ## The clip that a trigger extends or opens (R148, R150) -/

/-- A DOOR clip in COLLECTING with a camera (R150). -/
def State.Collecting (s : State) (c : Cam) (id : ClipId) : Prop :=
  ∃ k, s.clip id = some k ∧ k.state = .collecting ∧ k.mode = .door ∧ ∃ x ∈ k.cameras, x.camera = c

/-- The test of a clip that a trigger may extend. -/
def State.collects (s : State) (c : Cam) (id : ClipId) : Bool :=
  match s.clip id with
  | some k => k.state == .collecting && k.mode == .door && k.cameras.any (·.camera == c)
  | none => false

theorem collects_iff : s.collects c id = true ↔ s.Collecting c id := by
  unfold State.collects State.Collecting
  cases s.clip id with
  | none => simp
  | some k => simp [and_assoc]

theorem collectingDoorClip_eq (s : State) (c : Cam) :
    s.collectingDoorClip c = (List.finRange 8).find? (s.collects c) := rfl

theorem collectingDoorClip_some (found : s.collectingDoorClip c = some id) : s.Collecting c id := by
  rw [collectingDoorClip_eq] at found
  exact collects_iff.1 (List.find?_some found)

theorem collectingDoorClip_none (unfound : s.collectingDoorClip c = none) (id : ClipId) : ¬ s.Collecting c id := by
  rw [collectingDoorClip_eq] at unfound
  exact fun collecting => List.find?_eq_none.1 unfound id (List.mem_finRange id) (collects_iff.2 collecting)

theorem freeClip_none (taken : ∀ id : ClipId, s.clip id ≠ none) : s.clips.freeClip = none :=
  List.find?_eq_none.2 fun id _ free => taken id (Option.isNone_iff_eq_none.1 free)

theorem freeClip_some (free : s.clip id = none) (first : ∀ k : ClipId, k < id → s.clip k ≠ none) :
    s.clips.freeClip = some id :=
  find?_first (List.pairwise_lt_finRange 8) (List.mem_finRange id) (Option.isNone_iff_eq_none.2 free) fun k less =>
    Bool.eq_false_iff.2 (mt Option.isNone_iff_eq_none.1 (first k less))

/-! ## Automatic triggers (R150 to R153) -/

theorem trigger_off {kind : TriggerKind} (off : (s.clips.map.entry kind).clip = false) : s.trigger kind c = s := if_pos off

variable {kind : TriggerKind} (on : (s.clips.map.entry kind).clip = true)
include on

theorem trigger_extends (found : s.collectingDoorClip c = some id) : s.trigger kind c =
    s.mapClip id fun k => k.extend (s.clips.map.entry kind).post ⟨some kind, some c, s.now⟩ := by
  unfold State.trigger
  dsimp only
  rw [if_neg (by rw [on]; decide), found]

theorem trigger_noCamera (unfound : s.collectingDoorClip c = none) (stopped : (s.cam c).state ≠ .running) :
    s.trigger kind c = s.missTrigger .noCamera kind c := by
  unfold State.trigger
  dsimp only
  rw [if_neg (by rw [on]; decide), unfound]
  exact if_pos stopped

theorem trigger_noClip (unfound : s.collectingDoorClip c = none) (running : (s.cam c).state = .running)
    (full : s.clips.freeClip = none) : s.trigger kind c = s.missTrigger .noClip kind c := by
  unfold State.trigger
  dsimp only
  rw [if_neg (by rw [on]; decide), unfound]
  dsimp only
  rw [if_neg (not_not_intro running), full]

theorem trigger_free (unfound : s.collectingDoorClip c = none) (running : (s.cam c).state = .running)
    (free : s.clips.freeClip = some id) : s.trigger kind c =
      if s.slots.holdLimit ≤ s.slots.holdCount ∧ 0 < (s.clips.map.entry kind).pre + (s.clips.map.entry kind).post then
        s.missTrigger .noHold kind c
      else s.openClip id kind c := by
  unfold State.trigger
  dsimp only
  rw [if_neg (by rw [on]; decide), unfound]
  dsimp only
  rw [if_neg (not_not_intro running), free]

end Sys2Proof.Machine
end

section
/-! The walk of an opened clip and the post collection (R151, R154, R156). -/

namespace Sys2Proof.Machine

variable {s : State} {id : ClipId} {c : Cam} {k : Clip} {i : SlotNo} {q : Word32}

/-! ## Missed, extending and opening triggers (R151 to R153) -/

theorem missTrigger_eq (s : State) (why : MissReason) (kind : TriggerKind) (c : Cam) : s.missTrigger why kind c =
    (s.setClips { s.clips with missed := saturate 65535 s.clips.missed }).raise .clipMissed
      (.clipMissed why kind c s.now (saturate 65535 s.clips.missed)) := rfl

theorem extend_room {post : Nat} {t : TriggerEntry} (room : k.triggers.length < 4) : k.extend post t =
    { k with postRemaining := min (max k.postRemaining post) (16 - k.frames.length), triggers := k.triggers ++ [t] } :=
  if_pos room

theorem extend_full {post : Nat} {t : TriggerEntry} (full : 4 ≤ k.triggers.length) : k.extend post t =
    { k with postRemaining := min (max k.postRemaining post) (16 - k.frames.length), moreTriggers := true } :=
  if_neg (Nat.not_lt.2 full)

theorem openClip_ring {kind : TriggerKind} {r : Ring} (ring : s.slots.ring c = some r) :
    let e := s.clips.map.entry kind
    let walked := (s.setClip id (some
      { state := .collecting, mode := .door, cameras := [⟨c, none⟩], triggers := [⟨some kind, some c, s.now⟩],
        moreTriggers := false, postRemaining := e.post, truncated := false, short := false, frames := [],
        job := none, opened := s.now })).preWalk id c e.pre r.ready.reverse
    s.openClip id kind c = if e.post = 0 then walked.completeClip id .collected else walked := by
  unfold State.openClip
  dsimp only
  rw [show ∀ x, (s.setClip id x).slots = s.slots from fun _ => rfl, ring]

/-! ## The walk over the READY list (R151) -/

section Walk

variable {n : Nat} {rest : List SlotNo} {f : FrameFields}

theorem preWalk_claimed (claimed : s.slots.claimOf i ≠ none) :
    s.preWalk id c (n + 1) (i :: rest) = s.preWalk id c (n + 1) rest := by
  rw [State.preWalk.eq_def]
  dsimp only
  cases claim : s.slots.claimOf i with
  | none => exact absurd claim claimed
  | some x => rfl

variable (frame : s.slots.frame i = some f) (unclaimed : s.slots.claimOf i = none)
include frame unclaimed

theorem preWalk_granted
    (granted : (s.claimFor id c i f.sequence .pre).2 = .grantedInRing ∨ (s.claimFor id c i f.sequence .pre).2 = .grantedMoved) :
    s.preWalk id c (n + 1) (i :: rest) = (s.claimFor id c i f.sequence .pre).1.preWalk id c n rest := by
  rw [State.preWalk.eq_def]
  dsimp only
  rw [unclaimed, frame]
  dsimp only
  obtain answer | answer := granted
  all_goals rw [eq_mk answer]

theorem preWalk_passes
    (refused : (s.claimFor id c i f.sequence .pre).2 = .claimed ∨ (s.claimFor id c i f.sequence .pre).2 = .gone) :
    s.preWalk id c (n + 1) (i :: rest) = s.preWalk id c (n + 1) rest := by
  rw [State.preWalk.eq_def]
  dsimp only
  rw [unclaimed, frame]
  dsimp only
  obtain answer | answer := refused
  · rw [claimFor_unclaimed answer (.inr (.inl rfl))]
  · rw [claimFor_unclaimed answer (.inl rfl)]

theorem preWalk_hold (full : (s.claimFor id c i f.sequence .pre).2 = .hold) (clip : s.clip id = some k) :
    s.preWalk id c (n + 1) (i :: rest) = s.setClip id (some { k with truncated := true }) := by
  rw [State.preWalk.eq_def]
  dsimp only
  rw [unclaimed, frame]
  dsimp only
  rw [claimFor_unclaimed full (.inr (.inr rfl))]
  exact mapClip_some clip

end Walk

/-! ## Collecting DOOR clips (R154, R156) -/

section Door

variable (clip : s.clip id = some k) (collecting : k.state = .collecting) (door : k.mode = .door)
  (listed : ∃ x ∈ k.cameras, x.camera = c)
include clip collecting door

theorem serveClip_done (done : k.postRemaining = 0) : s.serveClip c i q id = s := by
  unfold State.serveClip
  rw [clip]
  dsimp only
  rw [if_neg (not_not_intro collecting), door]
  exact if_neg fun both => absurd both.2 (by omega)

include listed

theorem serveClip_door_refused (more : 0 < k.postRemaining)
    (refused : (s.claimFor id c i q .post).2 = .claimed ∨ (s.claimFor id c i q .post).2 = .gone) :
    s.serveClip c i q id = s := by
  have wanted : (k.cameras.any (·.camera == c)) = true ∧ 0 < k.postRemaining := ⟨by simpa using listed, more⟩
  unfold State.serveClip
  rw [clip]
  dsimp only
  rw [if_neg (not_not_intro collecting), door]
  dsimp only
  rw [if_pos wanted]
  obtain answer | answer := refused
  · rw [claimFor_unclaimed answer (.inr (.inl rfl))]
  · rw [claimFor_unclaimed answer (.inl rfl)]

theorem serveClip_door_hold (more : 0 < k.postRemaining) (full : (s.claimFor id c i q .post).2 = .hold) :
    s.serveClip c i q id = (s.mapClip id fun k => { k with truncated := true }).completeClip id .collected := by
  have wanted : (k.cameras.any (·.camera == c)) = true ∧ 0 < k.postRemaining := ⟨by simpa using listed, more⟩
  unfold State.serveClip
  rw [clip]
  dsimp only
  rw [if_neg (not_not_intro collecting), door]
  dsimp only
  rw [if_pos wanted, claimFor_unclaimed full (.inr (.inr rfl))]

theorem serveClip_door_granted (more : 0 < k.postRemaining)
    (granted : (s.claimFor id c i q .post).2 = .grantedInRing ∨ (s.claimFor id c i q .post).2 = .grantedMoved) :
    let t := (s.claimFor id c i q .post).1.mapClip id fun k => { k with postRemaining := k.postRemaining - 1 }
    s.serveClip c i q id = if k.postRemaining = 1 then t.completeClip id .collected else t := by
  have wanted : (k.cameras.any (·.camera == c)) = true ∧ 0 < k.postRemaining := ⟨by simpa using listed, more⟩
  unfold State.serveClip
  rw [clip]
  dsimp only
  rw [if_neg (not_not_intro collecting), door]
  dsimp only
  rw [if_pos wanted]
  obtain answer | answer := granted
  all_goals rw [eq_mk answer]

theorem cameraLeftClip_door :
    s.cameraLeftClip c id = (s.mapClip id fun k => { k with short := true }).completeClip id .collected := by
  unfold State.cameraLeftClip
  rw [clip]
  dsimp only
  rw [if_neg (not_not_intro collecting), door]
  dsimp only
  rw [if_pos (by simpa using listed)]

end Door

/-- Settles O53. -/
theorem triggersAndCollection : Obligations.TriggersAndCollection := by
  unfold Obligations.TriggersAndCollection
  refine ⟨fun s c => ⟨fun id => collectingDoorClip_some, collectingDoorClip_none⟩, ?_, ?_, ?_⟩
  · intro s kind c e missed miss free
    refine ⟨trigger_off, ?_, fun on unfound => ⟨fun stopped => ?_, fun running full => ?_, fun id running first full wants => ?_,
      ?_⟩⟩
    · intro id k on found clip longer
      rw [trigger_extends on found, mapClip_some clip]
      exact ⟨fun room => by rw [extend_room room], fun full => by rw [extend_full full]⟩
    · exact (trigger_noCamera on unfound stopped).trans (missTrigger_eq ..)
    · exact (trigger_noClip on unfound running (freeClip_none full)).trans (missTrigger_eq ..)
    · rw [trigger_free on unfound running (freeClip_some first.1 first.2), if_pos ⟨full, wants⟩]
      exact missTrigger_eq ..
    · intro id r running first room ring opened walked
      have holds : ¬(s.slots.holdLimit ≤ s.slots.holdCount ∧ 0 < e.pre + e.post) := by omega
      rw [trigger_free on unfound running (freeClip_some first.1 first.2), if_neg holds]
      exact openClip_ring ring
  · intro s id c n i rest f frame claimed
    exact ⟨rfl, rfl, preWalk_claimed, preWalk_granted frame, preWalk_passes frame,
      fun k unclaimed full clip => preWalk_hold frame unclaimed full clip⟩
  · intro s id k c i q clip collecting door listed claimed
    refine ⟨serveClip_done clip collecting door, serveClip_door_refused clip collecting door listed,
      fun more full => ?_, fun several granted => ?_, fun last granted => ?_, ?_⟩
    · rw [serveClip_door_hold clip collecting door listed more full, mapClip_some clip]
    · rw [serveClip_door_granted clip collecting door listed (by omega) granted]
      exact if_neg (by omega)
    · rw [serveClip_door_granted clip collecting door listed (by omega) granted]
      exact if_pos last
    · rw [cameraLeftClip_door clip collecting door listed, mapClip_some clip]

end Sys2Proof.Machine
end

section
/-! Frame entries, set clips and CLIP_READY (R149, R154 to R157, R159). -/

namespace Sys2Proof.Machine

variable {s : State} {id : ClipId} {c : Cam} {k : Clip} {i : SlotNo} {q : Word32}

/-! ## COMPLETE and CLIP_READY (R155, R159) -/

theorem completeClip_some {cause : ClipCause} (clip : s.clip id = some k) :
    s.completeClip id cause = (s.setClip id (some { k with state := .complete })).raiseClipReady id cause := by
  unfold State.completeClip
  rw [clip]

theorem raiseClipReady_some {cause : ClipCause} (clip : s.clip id = some k) : s.raiseClipReady id cause =
    s.raise (.clipReady id) (.clipReady
      { clip := id, cause := cause, mode := k.mode, cameras := k.cameras, triggers := k.triggers,
        moreTriggers := k.moreTriggers, truncated := k.truncated, short := k.short, frameCount := k.frames.length,
        time := s.now }) := by
  unfold State.raiseClipReady
  rw [clip]

theorem summary_eq (k : Clip) (id : ClipId) : k.summary id = [byteOf id.val, byteOf k.frames.length,
    byteOf ((if k.truncated then 1 else 0) + (if k.short then 2 else 0))] := by
  unfold Clip.summary Clip.flags
  cases k.truncated <;> cases k.short <;> rfl

/-! ## Frame entries (R149) -/

/-- The order of a clip's frame entries (R149, log 23). -/
def Clip.Earlier (k : Clip) (a b : FrameEntry) : Prop :=
  let place := fun e : FrameEntry => k.cameras.findIdx fun x => x.camera == e.camera
  place a < place b ∨
    (place a = place b ∧ a.sequence ≠ b.sequence ∧ (b.sequence - a.sequence).toNat < 2147483648)

theorem precedes_iff {a b : FrameEntry} : k.precedes a b = true ↔ k.Earlier a b := by
  simp [Clip.precedes, Clip.Earlier, and_assoc]

theorem insertFrame_placed (k : Clip) (e : FrameEntry) (frames : List FrameEntry) : ∃ before behind,
    frames = before ++ behind ∧ (∀ x ∈ before, ¬ k.Earlier e x) ∧ (∀ x, behind.head? = some x → k.Earlier e x) ∧
      k.insertFrame e frames = before ++ e :: behind := by
  induction frames with
  | nil => exact ⟨[], [], rfl, nofun, nofun, rfl⟩
  | cons f rest ih =>
    unfold Clip.insertFrame
    split
    · next earlier =>
      exact ⟨[], f :: rest, rfl, nofun, fun x head => by cases head; exact precedes_iff.1 earlier, rfl⟩
    · next later =>
      obtain ⟨before, behind, split, notEarlier, first, inserted⟩ := ih
      refine ⟨f :: before, behind, by rw [split]; rfl, fun x mem => ?_, first, by rw [inserted]; rfl⟩
      obtain rfl | mem := List.mem_cons.1 mem
      · exact mt precedes_iff.2 later
      · exact notEarlier x mem

theorem claimFor_granted {role : FrameRole} {f : FrameFields} {held : Bool} (frame : s.slots.frame i = some f)
    (clip : s.clip id = some k) (granted : ((s.slots.claim id c i q).2 = .grantedInRing ∧ held = false) ∨
      ((s.slots.claim id c i q).2 = .grantedMoved ∧ held = true)) :
    s.claimFor id c i q role = ((s.setSlots (s.slots.claim id c i q).1).setClip id
      (some (k.addFrame ⟨i, c, q, f.time, role, held⟩)), (s.slots.claim id c i q).2) := by
  unfold State.claimFor
  dsimp only
  rw [frame, clip]
  generalize s.slots.claim id c i q = claim at granted
  obtain ⟨m, answer⟩ := claim
  obtain ⟨rfl, rfl⟩ | ⟨rfl, rfl⟩ := granted
  all_goals rfl

theorem slotMoved_some {v : Moved} (clip : s.clip v.clip = some k) : s.slotMoved (some v) = s.setClip v.clip (some (k.hold v)) := by
  unfold State.slotMoved
  dsimp only
  rw [clip]
  rfl

theorem setClip_self (s : State) (id : ClipId) : s.setClip id (s.clip id) = s := by
  have clips : s.clips.clips.set id.val (s.clip id) id.isLt = s.clips.clips := Vector.set_getElem_self id.isLt
  rw [State.setClip, clips]
  rfl

theorem slotMoved_free {v : Moved} (free : s.clip v.clip = none) : s.slotMoved (some v) = s := by
  have same := setClip_self s v.clip
  unfold State.slotMoved
  dsimp only
  rw [free] at same ⊢
  exact same

/-! ## SET_NEWEST (R157) -/

section Newest

variable {rest : List Cam}

/-- A camera of a set clip that delivers no frame (R156, R157). -/
def State.lacking (s : State) (id : ClipId) (c : Cam) : State :=
  s.mapClip id fun k => { k.setStatus c .missing with short := true }

theorem takeNewest_noSlot (noSlot : s.slots.newest c = none) :
    s.takeNewest id (c :: rest) = (s.lacking id c).takeNewest id rest := by
  rw [State.takeNewest.eq_def]
  dsimp only
  rw [noSlot]
  rfl

theorem takeNewest_unfit (newest : s.slots.newest c = some i)
    (unfit : (s.cam c).state ≠ .running ∨ s.slots.claimOf i ≠ none) :
    s.takeNewest id (c :: rest) = (s.lacking id c).takeNewest id rest := by
  rw [State.takeNewest.eq_def]
  dsimp only
  rw [newest]
  dsimp only
  split
  · next f running unclaimed frame =>
    obtain stopped | claimed := unfit
    · exact absurd running stopped
    · exact absurd unclaimed claimed
  · rfl

variable {f : FrameFields} (running : (s.cam c).state = .running) (newest : s.slots.newest c = some i)
  (unclaimed : s.slots.claimOf i = none) (frame : s.slots.frame i = some f)
include running newest unclaimed frame

theorem takeNewest_granted
    (granted : (s.claimFor id c i f.sequence .set).2 = .grantedInRing ∨ (s.claimFor id c i f.sequence .set).2 = .grantedMoved) :
    s.takeNewest id (c :: rest) =
      ((s.claimFor id c i f.sequence .set).1.mapClip id fun k => k.setStatus c .delivered).takeNewest id rest := by
  rw [State.takeNewest.eq_def]
  dsimp only
  rw [newest]
  dsimp only
  rw [running, unclaimed, frame]
  dsimp only
  obtain answer | answer := granted
  all_goals rw [eq_mk answer]

theorem takeNewest_refused
    (refused : (s.claimFor id c i f.sequence .set).2 = .claimed ∨ (s.claimFor id c i f.sequence .set).2 = .gone) :
    s.takeNewest id (c :: rest) = (s.lacking id c).takeNewest id rest := by
  rw [State.takeNewest.eq_def]
  dsimp only
  rw [newest]
  dsimp only
  rw [running, unclaimed, frame]
  dsimp only
  obtain answer | answer := refused
  · rw [claimFor_unclaimed answer (.inr (.inl rfl))]
    rfl
  · rw [claimFor_unclaimed answer (.inl rfl)]
    rfl

theorem takeNewest_hold (full : (s.claimFor id c i f.sequence .set).2 = .hold) : s.takeNewest id (c :: rest) =
    (c :: rest).foldl (fun t c => t.mapClip id fun k => k.setStatus c .missing)
      (s.mapClip id fun k => { k with truncated := true }) := by
  rw [State.takeNewest.eq_def]
  dsimp only
  rw [newest]
  dsimp only
  rw [running, unclaimed, frame]
  dsimp only
  rw [claimFor_unclaimed full (.inr (.inr rfl))]

end Newest

end Sys2Proof.Machine
end

section
/-! SET_NEXT clips and camera state notices at the clip unit (R154, R156, R157). -/

namespace Sys2Proof.Machine

variable {s : State} {id : ClipId} {c : Cam} {k : Clip} {i : SlotNo} {q : Word32}

theorem setClip_setClip (s : State) (id : ClipId) (x y : Option Clip) : (s.setClip id x).setClip id y = s.setClip id y := by
  simp [State.setClip, State.setClips]

/-! ## The test of a SET_NEXT clip's end (R157) -/

theorem testSetNext_waiting (clip : s.clip id = some k) (waiting : ∃ x ∈ k.cameras, x.status = some .waiting) :
    s.testSetNext id = s := by
  unfold State.testSetNext
  rw [clip]
  exact if_pos (by simpa using waiting)

theorem testSetNext_ends (clip : s.clip id = some k) (ended : ∀ x ∈ k.cameras, x.status ≠ some .waiting) :
    s.testSetNext id = ((s.setClip id (some { k with job := none, state := .complete })).raiseClipReady id
      .collected).endJob? k.job .ok (k.summary id) := by
  have noneWaits : ¬ k.cameras.any (·.status == some .waiting) = true := by simpa using ended
  unfold State.testSetNext
  rw [clip]
  dsimp only
  rw [if_neg noneWaits, completeClip_some (State.setClip_clip ..), setClip_setClip]

/-! ## What a SET_NEXT clip does with a notice (R154, R156) -/

section SetNext

/-- A camera of the clip is WAITING. -/
def Clip.Waits (k : Clip) (c : Cam) : Prop := ∃ x ∈ k.cameras, x.camera = c ∧ x.status = some .waiting

theorem waits_iff : k.waits c = true ↔ k.Waits c := by
  simp [Clip.waits, Clip.Waits]

variable (clip : s.clip id = some k) (collecting : k.state = .collecting) (next : k.mode = .setNext)
include clip collecting next

theorem setNext_idle (idle : ¬ k.Waits c) : s.serveClip c i q id = s ∧ s.cameraLeftClip c id = s := by
  unfold State.serveClip State.cameraLeftClip
  rw [clip]
  dsimp only
  rw [if_neg (not_not_intro collecting), if_neg (not_not_intro collecting), next]
  exact ⟨if_neg (mt waits_iff.1 idle), if_neg (mt waits_iff.1 idle)⟩

variable (waits : k.Waits c)
include waits

theorem serveClip_next_granted
    (granted : (s.claimFor id c i q .set).2 = .grantedInRing ∨ (s.claimFor id c i q .set).2 = .grantedMoved) :
    s.serveClip c i q id =
      ((s.claimFor id c i q .set).1.mapClip id fun k => k.setStatus c .delivered).testSetNext id := by
  unfold State.serveClip
  rw [clip]
  dsimp only
  rw [if_neg (not_not_intro collecting), next]
  dsimp only
  rw [if_pos (waits_iff.2 waits)]
  obtain answer | answer := granted
  all_goals rw [eq_mk answer]

theorem serveClip_next_refused
    (refused : (s.claimFor id c i q .set).2 = .claimed ∨ (s.claimFor id c i q .set).2 = .gone) :
    s.serveClip c i q id = s := by
  unfold State.serveClip
  rw [clip]
  dsimp only
  rw [if_neg (not_not_intro collecting), next]
  dsimp only
  rw [if_pos (waits_iff.2 waits)]
  obtain answer | answer := refused
  · rw [claimFor_unclaimed answer (.inr (.inl rfl))]
  · rw [claimFor_unclaimed answer (.inl rfl)]

theorem serveClip_next_hold (full : (s.claimFor id c i q .set).2 = .hold) : s.serveClip c i q id =
    (s.mapClip id fun k => { k.setStatus c .missing with truncated := true }).testSetNext id := by
  unfold State.serveClip
  rw [clip]
  dsimp only
  rw [if_neg (not_not_intro collecting), next]
  dsimp only
  rw [if_pos (waits_iff.2 waits), claimFor_unclaimed full (.inr (.inr rfl))]
  rfl

theorem cameraLeftClip_next : s.cameraLeftClip c id =
    (s.mapClip id fun k => { k.setStatus c .missing with short := true }).testSetNext id := by
  unfold State.cameraLeftClip
  rw [clip]
  dsimp only
  rw [if_neg (not_not_intro collecting), next]
  exact if_pos (waits_iff.2 waits)

end SetNext

/-- Settles O54. -/
theorem setClipsAndFrameEntries : Obligations.SetClipsAndFrameEntries := by
  unfold Obligations.SetClipsAndFrameEntries
  refine ⟨fun s id k cause clip => ⟨completeClip_some clip, raiseClipReady_some clip⟩, ?_, ?_, ?_, ?_, ?_⟩
  · intro s id c i q role f k frame clip claimed place earlier
    refine ⟨claimFor_refused, ?_⟩
    intro held granted entry
    obtain ⟨before, behind, split, notEarlier, first, inserted⟩ := insertFrame_placed k entry k.frames
    refine ⟨before, behind, split, notEarlier, first, ?_⟩
    rw [claimFor_granted frame clip granted, Clip.addFrame, inserted]
  · exact fun s v n => ⟨rfl, fun k => slotMoved_some, slotMoved_free, rfl⟩
  · intro s id c rest status lacking
    refine ⟨rfl, ?_, ?_⟩
    · rintro (stopped | noSlot | ⟨i, newest, claimed⟩)
      · cases newest : s.slots.newest c with
        | none => exact takeNewest_noSlot newest
        | some i => exact takeNewest_unfit newest (.inl stopped)
      · exact takeNewest_noSlot noSlot
      · exact takeNewest_unfit newest (.inr claimed)
    · intro i f running newest unclaimed frame claimed
      exact ⟨takeNewest_granted running newest unclaimed frame, takeNewest_refused running newest unclaimed frame,
        takeNewest_hold running newest unclaimed frame⟩
  · intro s id k c i q clip collecting next status waits claimed
    refine ⟨setNext_idle clip collecting next, serveClip_next_granted clip collecting next,
      serveClip_next_refused clip collecting next, fun waiting full => ?_, fun waiting => ?_, testSetNext_waiting clip,
      fun ended => ?_⟩
    · rw [serveClip_next_hold clip collecting next waiting full, mapClip_some clip]
      rfl
    · rw [cameraLeftClip_next clip collecting next waiting, mapClip_some clip]
      rfl
    · rw [testSetNext_ends clip ended, summary_eq]
  · intro s c old now
    refine ⟨fun left entered => if_pos ⟨left, entered⟩, fun other => if_neg ?_⟩
    rintro ⟨left, entered⟩
    obtain notRunning | ⟨lost, stopping, failed⟩ := other
    · exact notRunning left
    · obtain state | state | state := entered
      · exact lost state
      · exact stopping state
      · exact failed state

end Sys2Proof.Machine
end

section
/-! CLIP_TAKE and CLIP_RELEASE (R157, R158) and the abort of an EXPORT (R170). -/

namespace Sys2Proof.Machine

variable {s : State} {tag mode : Byte} {numbers : List Byte} {cameras : List Cam} {id : ClipId}

/-! ## The abort of an EXPORT (R170) -/

/-- The engine after a transmission that goes on, or none, when an EXPORT is aborted (R170). -/
def State.abortEnded (s : State) (r : ExportRecord) (sent : Nat) (job : Option ExportRecord) : State :=
  ((s.endJob r.job .aborted (byteOf r.clip.val :: bytes2 sent)).setExporter
    ⟨job, s.exporter.half0.discarded, s.exporter.half1.discarded⟩).completeClip r.clip .exportEnded

theorem anyHalf_sending {e : ExportEngine} : e.anyHalf Half.isSending = true ↔
    (∃ b, e.half0 = .sending b) ∨ ∃ b, e.half1 = .sending b := by
  have one (h : Half) : h.isSending = true ↔ ∃ b, h = .sending b := by cases h <;> simp [Half.isSending]
  rw [ExportEngine.anyHalf, Bool.or_eq_true, one, one]

theorem abortExport_sending {r : ExportRecord} (sending : s.exporter.anyHalf Half.isSending = true) :
    s.abortExport r = s.abortEnded r (r.blocksSent + 1) (some { r with phase := .ending, stall := none }) := by
  unfold State.abortExport
  rw [sending]
  rfl

theorem abortExport_idle {r : ExportRecord} (idle : s.exporter.anyHalf Half.isSending = false) :
    s.abortExport r = s.abortEnded r r.blocksSent none := by
  unfold State.abortExport
  rw [idle]
  rfl

theorem abortExport_eq (s : State) (r : ExportRecord) :
    let sending := (∃ b, s.exporter.half0 = .sending b) ∨ ∃ b, s.exporter.half1 = .sending b
    (sending → s.abortExport r = s.abortEnded r (r.blocksSent + 1) (some { r with phase := .ending, stall := none })) ∧
    (¬ sending → s.abortExport r = s.abortEnded r r.blocksSent none) :=
  ⟨fun sending => abortExport_sending (anyHalf_sending.2 sending),
    fun idle => abortExport_idle (Bool.eq_false_iff.2 (mt anyHalf_sending.1 idle))⟩

/-! ## The tests of CLIP_TAKE (R157) -/

theorem listItems_followed (few : numbers.length < 256) (more : List Byte) :
    listItems (byteOf numbers.length :: (numbers ++ more)) = numbers.map (·.toNat) := by
  have count : field1 (byteOf numbers.length :: (numbers ++ more)) 0 = numbers.length := byteOf_toNat_small few
  rw [listItems, count]
  exact congrArg (List.map _) List.take_left

theorem field1_followed (b : Byte) (numbers : List Byte) (mode : Byte) :
    field1 (b :: (numbers ++ [mode])) (numbers.length + 1) = mode.toNat := by
  simp [field1]

/-- Whether a camera of CLIP_TAKE is refused at its place: not a camera, or named before (R157). -/
def takeItemBad (items : List Nat) (p : Nat × Nat) : Bool := (camOf p.1).isNone || (items.take p.2).contains p.1

theorem takeItemBad_iff {items : List Nat} {n k : Nat} : takeItemBad items (n, k) = true ↔ 13 < n ∨ n ∈ items.take k := by
  rw [takeItemBad, Bool.or_eq_true, camOf_isNone, List.contains_iff_mem]

theorem clipTakeFault_eq (few : numbers.length < 256) : clipTakeFault (byteOf numbers.length :: (numbers ++ [mode])) =
    if numbers.length = 0 ∨ 4 < numbers.length then some 0
    else firstBad (itemTests (takeItemBad (numbers.map (·.toNat))) (numbers.map (·.toNat)) ++
      [(numbers.length + 1, (takeModeOf mode.toNat).isNone)]) := by
  have count : field1 (byteOf numbers.length :: (numbers ++ [mode])) 0 = numbers.length := byteOf_toNat_small few
  unfold clipTakeFault
  dsimp only
  rw [listItems_followed few, count, List.length_map, field1_followed, List.cons_append, firstBad_cons]
  refine if_congr ?_ rfl rfl
  rw [outside_iff]
  omega

theorem clipTakeFault_item {before after : List Byte} {n : Byte} (few : numbers.length ≤ 4)
    (listed : numbers = before ++ n :: after) (distinct : before.Nodup) (good : ∀ m ∈ before, m.toNat ≤ 13)
    (bad : 13 < n.toNat ∨ n ∈ before) :
    clipTakeFault (byteOf numbers.length :: (numbers ++ [mode])) = some (before.length + 1) := by
  have length : numbers.length = before.length + 1 + after.length := by
    rw [listed, List.length_append, List.length_cons]
    omega
  have items : numbers.map (·.toNat) = before.map (·.toNat) ++ n.toNat :: after.map (·.toNat) := by
    rw [listed, List.map_append, List.map_cons]
  have taken {k : Nat} (within : k ≤ before.length) :
      (numbers.map (·.toNat)).take k = (before.take k).map (·.toNat) := by
    rw [items, List.take_append_of_le_length (by rwa [List.length_map]), List.map_take]
  have injective {a b : Byte} (same : a.toNat = b.toNat) : a = b := BitVec.eq_of_toNat_eq same
  rw [clipTakeFault_eq (by omega), if_neg (by omega)]
  refine firstBad_items (n := n.toNat) (by rw [items]; simp) (takeItemBad_iff.2 ?_) ?_ _
  · refine bad.imp_right fun repeated => ?_
    rw [taken le_rfl, List.take_length]
    exact List.mem_map_of_mem repeated
  · intro j m less item
    obtain ⟨b, place, rfl⟩ : ∃ b, before[j]? = some b ∧ b.toNat = m := by
      rw [items, List.getElem?_append_left (by rwa [List.length_map]), List.getElem?_map] at item
      exact Option.map_eq_some_iff.1 item
    refine Bool.eq_false_iff.2 fun fails => ?_
    obtain above | repeated := takeItemBad_iff.1 fails
    · exact absurd (good b (List.mem_of_getElem? place)) (Nat.not_le.2 above)
    · rw [taken (le_of_lt less)] at repeated
      obtain ⟨a, earlier, same⟩ := List.mem_map.1 repeated
      rw [injective same] at earlier
      obtain ⟨within, rfl⟩ := List.getElem?_eq_some_iff.1 place
      obtain ⟨i, bound, here⟩ := List.mem_take_iff_getElem.1 earlier
      have index := (List.Nodup.getElem_inj_iff distinct).1 here
      omega

theorem clipTakeFault_cameras (distinct : cameras.Nodup) (some' : 1 ≤ cameras.length) (few : cameras.length ≤ 4)
    (named : numbers = cameras.map fun c => byteOf c.val) :
    clipTakeFault (byteOf numbers.length :: (numbers ++ [mode])) =
      if (takeModeOf mode.toNat).isNone then some (cameras.length + 1) else none := by
  have length : numbers.length = cameras.length := by rw [named, List.length_map]
  have items : numbers.map (·.toNat) = cameras.map (·.val) := by rw [named, numbers_toNat]
  have different : (numbers.map (·.toNat)).Nodup := by
    rw [items]
    exact distinct.map Fin.val_injective
  have pass : ∀ k n, (numbers.map (·.toNat))[k]? = some n → takeItemBad (numbers.map (·.toNat)) (n, k) = false := by
    intro k n item
    refine Bool.eq_false_iff.2 fun fails => ?_
    obtain above | repeated := takeItemBad_iff.1 fails
    · rw [items, List.getElem?_map] at item
      obtain ⟨c, -, rfl⟩ := Option.map_eq_some_iff.1 item
      omega
    · obtain ⟨within, rfl⟩ := List.getElem?_eq_some_iff.1 item
      obtain ⟨i, bound, here⟩ := List.mem_take_iff_getElem.1 repeated
      have index := (List.Nodup.getElem_inj_iff different).1 here
      omega
  rw [clipTakeFault_eq (by omega), if_neg (by omega), firstBad_passed (itemTests_pass pass), firstBad_cons, firstBad_nil,
    length]

end Sys2Proof.Machine
end

section
/-! The obligation on CLIP_TAKE and CLIP_RELEASE. -/

namespace Sys2Proof.Machine

variable {s : State} {tag mode : Byte} {numbers : List Byte} {cameras : List Cam} {id : ClipId} {j : JobId}

/-! ## CLIP_TAKE (R157) -/

theorem takeModeOf_isNone : (takeModeOf mode.toNat).isNone = true ↔ mode ≠ 1#8 ∧ mode ≠ 2#8 := by
  have one : mode.toNat = 1 ↔ mode = 1#8 := (BitVec.toNat_inj (y := 1#8))
  have two : mode.toNat = 2 ↔ mode = 2#8 := (BitVec.toNat_inj (y := 2#8))
  unfold takeModeOf
  split
  · next newest => simp [one.1 newest]
  · split
    · next next' => simp [two.1 next']
    · next notOne notTwo => simp [mt one.2 notOne, mt two.2 notTwo]

theorem serveClipTake_refused {f : Nat} (fault : clipTakeFault (byteOf numbers.length :: (numbers ++ [mode])) = some f) :
    serveClipTake s tag (byteOf numbers.length :: (numbers ++ [mode])) = (s, .badField f) := by
  unfold serveClipTake
  dsimp only
  rw [fault]
  rfl

/-- What CLIP_TAKE does once its fields have passed (R157). -/
theorem serveClipTake_passed (few : numbers.length < 256)
    (fault : clipTakeFault (byteOf numbers.length :: (numbers ++ [mode])) = none)
    (named : numbers = cameras.map fun c => byteOf c.val) :
    (s.clips.freeClip = none → serveClipTake s tag (byteOf numbers.length :: (numbers ++ [mode])) = (s, .noRoom)) ∧
    ∀ id, s.clips.freeClip = some id →
      (mode = 1#8 → serveClipTake s tag (byteOf numbers.length :: (numbers ++ [mode])) = s.takeSetNewest id cameras) ∧
      (mode = 2#8 → s.link.freeJob = none →
        serveClipTake s tag (byteOf numbers.length :: (numbers ++ [mode])) = (s, .busy)) ∧
      ∀ j, mode = 2#8 → s.link.freeJob = some j →
        serveClipTake s tag (byteOf numbers.length :: (numbers ++ [mode])) = s.takeSetNext id cameras j tag := by
  have count : field1 (byteOf numbers.length :: (numbers ++ [mode])) 0 = numbers.length := byteOf_toNat_small few
  have items : (listItems (byteOf numbers.length :: (numbers ++ [mode]))).filterMap camOf = cameras := by
    rw [listItems_followed few, named, numbers_toNat, filterMap_camOf]
  unfold serveClipTake
  dsimp only
  rw [fault, count, field1_followed, items]
  dsimp only
  refine ⟨fun full => by rw [full]; rfl, fun id free => ?_⟩
  rw [free]
  dsimp only
  refine ⟨fun newest => ?_, fun next full => ?_, fun j next free => ?_⟩
  · rw [newest]
    rfl
  · rw [next, full]
    rfl
  · rw [next, free]
    rfl

/-! ## A SET_NEXT clip as it is taken (R157) -/

/-- A SET_NEXT clip as CLIP_TAKE takes it (R157). -/
def State.nextClip (s : State) (cameras : List Cam) (job : Option JobId) : Clip :=
  s.takenClip .setNext
    (cameras.map fun c => ClipCamera.mk c (some (if (s.cam c).state = .running then .waiting else .missing)))
    (decide (∃ c ∈ cameras, (s.cam c).state ≠ .running)) job

/-- The state in which a SET_NEXT clip has just been taken. -/
def State.nextOpened (s : State) (id : ClipId) (cameras : List Cam) (j : JobId) (tag : Byte) : State :=
  (s.openJob j .clipTake id.val tag).setClip id (some (s.nextClip cameras (some j)))

theorem takeSetNext_eq (s : State) (id : ClipId) (cameras : List Cam) (j : JobId) (tag : Byte) :
    s.takeSetNext id cameras j tag = ((s.nextOpened id cameras j tag).testSetNext id, .accepted j) := by
  have status : (fun c : Cam => ClipCamera.mk c (some (if (s.cam c).state == .running then .waiting else .missing))) =
      fun c => ClipCamera.mk c (some (if (s.cam c).state = .running then .waiting else .missing)) :=
    funext fun c => congrArg (fun x => ClipCamera.mk c (some x)) (if_congr beq_iff_eq rfl rfl)
  have short : (!cameras.all fun c => (s.cam c).state == .running) = decide (∃ c ∈ cameras, (s.cam c).state ≠ .running) := by
    rw [Bool.eq_iff_iff]
    simp
  unfold State.nextOpened State.nextClip
  rw [← status, ← short]
  rfl

theorem nextOpened_clip (s : State) (id : ClipId) (cameras : List Cam) (j : JobId) (tag : Byte) :
    (s.nextOpened id cameras j tag).clip id = some (s.nextClip cameras (some j)) := State.setClip_clip ..

theorem nextOpened_waits (running : ∃ c ∈ cameras, (s.cam c).state = .running) :
    (s.nextOpened id cameras j tag).testSetNext id = s.nextOpened id cameras j tag := by
  obtain ⟨c, listed, running⟩ := running
  refine testSetNext_waiting (nextOpened_clip ..) ⟨_, List.mem_map_of_mem listed, ?_⟩
  rw [if_pos running]

theorem nextOpened_ends (stopped : ∀ c ∈ cameras, (s.cam c).state ≠ .running) :
    let lacking := decide (∃ c ∈ cameras, (s.cam c).state ≠ .running)
    (s.nextOpened id cameras j tag).testSetNext id =
      (((s.nextOpened id cameras j tag).setClip id (some { s.nextClip cameras none with state := .complete })).raiseClipReady id
        .collected).endJob j .ok [byteOf id.val, 0x00, byteOf (if lacking then 2 else 0)] := by
  intro lacking
  have ended : ∀ x ∈ (s.nextClip cameras (some j)).cameras, x.status ≠ some .waiting := by
    intro x mem
    obtain ⟨c, listed, rfl⟩ := List.mem_map.1 mem
    dsimp only
    rw [if_neg (stopped c listed)]
    nofun
  rw [testSetNext_ends (nextOpened_clip ..) ended, summary_eq]
  have flags : (if (s.nextClip cameras (some j)).truncated = true then 1 else 0) +
      (if (s.nextClip cameras (some j)).short = true then 2 else 0) = if lacking then 2 else 0 := Nat.zero_add _
  rw [flags]
  rfl

/-! ## CLIP_RELEASE (R158, R171) -/

/-- The clip given back: its slots released, its report withdrawn and its entry FREE (R158). -/
def State.freed (s : State) (id : ClipId) (k : Clip) : State :=
  ((s.setSlots (s.slots.release id (k.frames.map (·.slot)))).setLink (s.link.withdraw (.clipReady id))).setClip id none

theorem withdraw_idle (l : LinkController) (i : ReportId) : ((l.withdraw i).report i).pending = false := by
  cases pending : (l.report i).pending with
  | true =>
    rw [LinkController.report_withdraw_same pending]
    rfl
  | false => rw [LinkController.withdraw_notPending pending, pending]

variable {k : Clip}

theorem releaseClip_plain (state : k.state = .complete ∨ (k.state = .collecting ∧ k.mode ≠ .setNext)) :
    s.releaseClip id k = s.freed id k := by
  unfold State.releaseClip
  dsimp only
  obtain complete | ⟨collecting, other⟩ := state
  · rw [complete, if_neg fun both => nomatch both.1]
    rfl
  · rw [if_neg fun both => other both.2, collecting]
    rfl

theorem releaseClip_next (collecting : k.state = .collecting) (next : k.mode = .setNext) (job : k.job = some j) :
    s.releaseClip id k = (s.endJob j .aborted [byteOf id.val]).freed id k := by
  unfold State.releaseClip
  dsimp only
  rw [if_pos ⟨collecting, next⟩, collecting, job]
  rfl

theorem releaseClip_exporting {r : ExportRecord} (exporting : k.state = .exporting) (job : s.exporter.job = some r) :
    s.releaseClip id k = (s.abortExport r).freed id k := by
  unfold State.releaseClip
  dsimp only
  rw [exporting, job, if_neg fun both => nomatch both.1]
  rfl

theorem serveClipRelease_clip {n : Byte} (named : n.toNat = id.val) (clip : s.clip id = some k) :
    serveClipRelease s tag [n] = (s.releaseClip id k, .ok []) := by
  have given : clipOf (field1 [n] 0) = some id := (congrArg clipOf named).trans (clipOf_val id)
  unfold serveClipRelease
  rw [given]
  dsimp only
  rw [clip]

/-- Settles O55. -/
theorem clipTakeAndRelease : Obligations.ClipTakeAndRelease := by
  unfold Obligations.ClipTakeAndRelease
  refine ⟨summary_eq, ?_, ?_, ?_⟩
  · intro s r kept ended sending
    have same : kept = Half.discarded := funext fun h => by cases h <;> rfl
    have blocks := abortExport_eq s r
    unfold State.abortEnded at blocks
    rw [← same] at blocks
    exact blocks
  · intro s tag mode numbers takes small answered
    have legal : legalLength .clipTake (byteOf numbers.length :: (numbers ++ [mode])) = true := by
      have count : (byteOf numbers.length).toNat = numbers.length := byteOf_toNat_small small
      refine listThen_iff.2 ⟨_, _, rfl, ?_⟩
      rw [count, List.length_append, List.length_singleton]
    have served {t : State} {a : Answer}
        (block : serveClipTake s tag (byteOf numbers.length :: (numbers ++ [mode])) = (t, a)) : answered t a :=
      exec_requestOfKind_served (kind := .clipTake) takes (by simp; omega) legal block
    refine ⟨fun wrong => served (serveClipTake_refused ?_), fun before n after few listed distinct good bad =>
      served (serveClipTake_refused (clipTakeFault_item few listed distinct good bad)),
      fun cameras listed few distinct named => ?_⟩
    · rw [clipTakeFault_eq small, if_pos wrong]
    · intro taken
      have fault := clipTakeFault_cameras (mode := mode) distinct listed few named
      have passed (known : mode = 1#8 ∨ mode = 2#8) := serveClipTake_passed (s := s) (tag := tag) small
        (fault.trans (if_neg fun unknown => known.elim (takeModeOf_isNone.1 unknown).1 (takeModeOf_isNone.1 unknown).2)) named
      refine ⟨fun notNewest notNext => served (serveClipTake_refused ?_), fun known full => ?_, fun id free first => ?_⟩
      · rw [fault, if_pos (takeModeOf_isNone.2 ⟨notNewest, notNext⟩)]
      · exact served ((passed known).1 (freeClip_none full))
      · replace free : s.clips.freeClip = some id := freeClip_some free first
        refine ⟨fun newest => ?_, fun next full => ?_, fun j next given => ?_⟩
        · intro opened k clip
          obtain ⟨-, found⟩ := passed (.inl newest)
          obtain ⟨takes, -, -⟩ := found id free
          refine served ((takes newest).trans ?_)
          have answer : (match ((opened.takeNewest id cameras).completeClip id .taken).clip id with
              | none => []
              | some k => k.summary id) = k.summary id := by rw [clip]
          exact congrArg (fun bytes => ((opened.takeNewest id cameras).completeClip id .taken, Answer.ok bytes)) answer
        · obtain ⟨-, found⟩ := passed (.inr next)
          obtain ⟨-, busy, -⟩ := found id free
          exact served (busy next full)
        · obtain ⟨-, found⟩ := passed (.inr next)
          obtain ⟨-, -, takes⟩ := found id free
          have block := (takes j next given).trans (takeSetNext_eq s id cameras j tag)
          intro status list lacking opened
          refine ⟨fun running => served ?_, fun stopped => served ?_⟩
          · rw [block, nextOpened_waits running]
            rfl
          · rw [block, nextOpened_ends stopped]
            rfl
  · intro s tag n takes answered
    have served {t : State} {a : Answer} (block : serveClipRelease s tag [n] = (t, a)) : answered t a :=
      exec_requestOfKind_served (kind := .clipRelease) takes (by simp) rfl block
    refine ⟨fun above => served ?_, fun id named => ⟨fun free => served ?_, fun k clip => ?_⟩⟩
    · have unnamed : clipOf (field1 [n] 0) = none := clipOf_above (Nat.succ_le_of_lt above)
      unfold serveClipRelease
      rw [unnamed]
      rfl
    · have given : clipOf (field1 [n] 0) = some id := (congrArg clipOf named).trans (clipOf_val id)
      unfold serveClipRelease
      rw [given]
      dsimp only
      rw [free]
      rfl
    · intro freed
      have block := serveClipRelease_clip (tag := tag) named clip
      refine ⟨fun state => served ?_, fun j collecting next job => served ?_, fun r exporting job => served ?_,
        fun t => ⟨State.setClip_clip .., withdraw_idle ..⟩⟩
      · rw [block, releaseClip_plain state]
        rfl
      · rw [block, releaseClip_next collecting next job]
        rfl
      · rw [block, releaseClip_exporting exporting job]
        rfl

end Sys2Proof.Machine
end

section
/-! The EXPORT engine: staging, fill ends, the stall limit and the ends of an EXPORT (R162 to R171). -/

namespace Sys2Proof.Machine

variable {s : State} {e : ExportEngine} {r : ExportRecord} {b : Block}

/-! ## The first block not sent (R168, R169) -/

theorem firstUnsent_both {a : Block} (first : e.half0 = .full a) (second : e.half1 = .full b) :
    e.firstUnsent r = min a.sequence b.sequence := by
  unfold ExportEngine.firstUnsent ExportEngine.offered
  rw [first, second]
  dsimp only [Half.fullBlock]
  split_ifs with less
  · exact (min_eq_left (le_of_lt less)).symm
  · exact (min_eq_right (Nat.not_lt.1 less)).symm

theorem fullBlock_none {h : Half} (unfull : ∀ b, h ≠ .full b) : h.fullBlock = none := by
  cases h with
  | full b => exact absurd rfl (unfull b)
  | _ => rfl

theorem firstUnsent_half0 {a : Block} (first : e.half0 = .full a) (second : ∀ b, e.half1 ≠ .full b) :
    e.firstUnsent r = a.sequence := by
  unfold ExportEngine.firstUnsent ExportEngine.offered
  rw [first, fullBlock_none second]
  rfl

theorem firstUnsent_half1 (first : ∀ a, e.half0 ≠ .full a) (second : e.half1 = .full b) :
    e.firstUnsent r = b.sequence := by
  unfold ExportEngine.firstUnsent ExportEngine.offered
  rw [fullBlock_none first, second]
  rfl

theorem firstUnsent_none (first : ∀ a, e.half0 ≠ .full a) (second : ∀ a, e.half1 ≠ .full a) :
    e.firstUnsent r = r.nextSequence := by
  unfold ExportEngine.firstUnsent ExportEngine.offered
  rw [fullBlock_none first, fullBlock_none second]

/-! ## Staging (R166, R167, R169) -/

theorem isFilling_false {h : Half} (unfilled : ∀ b, h ≠ .filling b) : h.isFilling = false := by
  cases h with
  | filling b => exact absurd rfl (unfilled b)
  | _ => rfl

theorem isEmpty_false {h : Half} (taken : h ≠ .empty) : h.isEmpty = false := by
  cases h with
  | empty => exact absurd rfl taken
  | _ => rfl

theorem stageOrWait_notReading (job : s.exporter.job = some r) (phase : r.phase ≠ .reading) : s.stageOrWait = s := by
  unfold State.stageOrWait
  dsimp only
  rw [job]
  exact if_pos phase

theorem stageOrWait_stages (job : s.exporter.job = some r) (reading : r.phase = .reading)
    (may : s.exporter.mayStage r = true) (next : s.nextBlock r = some b) : s.stageOrWait =
    s.setExporter (if s.exporter.half0.isEmpty then { s.exporter with half0 := .filling b }
      else { s.exporter with half1 := .filling b }) := by
  unfold State.stageOrWait
  dsimp only
  rw [job]
  dsimp only
  rw [if_neg (not_not_intro reading), if_pos may, next]

theorem stageOrWait_waits (job : s.exporter.job = some r) (reading : r.phase = .reading)
    (mayNot : s.exporter.mayStage r = false) (waits : s.exporter.waits r = true) : s.stageOrWait =
    s.setExporter { s.exporter with job := some { r with phase := .waiting, stall := some (s.elapsed + 5000) } } := by
  unfold State.stageOrWait
  dsimp only
  rw [job]
  dsimp only
  rw [if_neg (not_not_intro reading), if_neg (Bool.eq_false_iff.1 mayNot), if_pos waits]
  rfl

theorem stageOrWait_rests (job : s.exporter.job = some r) (mayNot : s.exporter.mayStage r = false)
    (notWaits : s.exporter.waits r = false) : s.stageOrWait = s := by
  unfold State.stageOrWait
  dsimp only
  rw [job]
  dsimp only
  rw [if_neg (Bool.eq_false_iff.1 mayNot), if_neg (Bool.eq_false_iff.1 notWaits), ite_self]

theorem exportFrame_some {k : Clip} {entry : FrameEntry} {f : FrameFields} {n : Nat} (clip : s.clip r.clip = some k)
    (listed : k.frames[n]? = some entry) (frame : s.slots.frame entry.slot = some f) :
    s.exportFrame r n = some (entry.slot, f.geometry) := by
  unfold State.exportFrame
  rw [clip]
  dsimp only
  rw [listed]
  dsimp only
  rw [frame]
  rfl

theorem nextBlock_some {k : Clip} {entry : FrameEntry} {f : FrameFields} {n : Nat} (next : r.nextFrame = some n)
    (clip : s.clip r.clip = some k) (listed : k.frames[n]? = some entry) (frame : s.slots.frame entry.slot = some f) :
    s.nextBlock r = some ⟨n, r.nextSequence, r.nextOffset,
      (List.range (min 1024 (imageSize f.geometry r.scale r.content - r.nextOffset))).map fun x =>
        imageByte s.pixels entry.slot f.geometry r.scale r.content (r.nextOffset + x)⟩ := by
  unfold State.nextBlock
  rw [next]
  dsimp only
  rw [exportFrame_some clip listed frame]
  rfl

/-! ## Fill ends and the stall limit (R167, R169) -/

theorem fillEnds_idle (idle : s.exporter.job = none ∨ s.exporter.fillingBlock = none) : s.fillEnds = s := by
  unfold State.fillEnds
  dsimp only
  split
  · next job filling =>
    obtain none | none := idle
    · rw [none] at job
      cases job
    · rw [none] at filling
      cases filling
  · rfl

theorem fillEnds_filling {k : Clip} {entry : FrameEntry} {f : FrameFields} (job : s.exporter.job = some r)
    (filling : s.exporter.fillingBlock = some b) (clip : s.clip r.clip = some k) (listed : k.frames[b.frame]? = some entry)
    (frame : s.slots.frame entry.slot = some f) : s.fillEnds = (s.setExporter { s.exporter.mapHalves Half.filled with
      job := some (r.advanced b (imageSize f.geometry r.scale r.content)) }).stageOrWait := by
  unfold State.fillEnds
  dsimp only
  rw [job, filling]
  dsimp only
  rw [exportFrame_some clip listed frame]

theorem advanced_within {size : Nat} (within : b.offset + b.bytes.length < size) : r.advanced b size =
    { r with nextSequence := r.nextSequence + 1, nextOffset := b.offset + b.bytes.length } := if_pos within

theorem advanced_past {size : Nat} (past : size ≤ b.offset + b.bytes.length) : r.advanced b size =
    { r with nextSequence := r.nextSequence + 1, nextOffset := 0,
             nextFrame := if b.frame + 1 < r.firstFrame + r.frameCount then some (b.frame + 1) else none } :=
  if_neg (Nat.not_lt.2 past)

theorem filled_unfilled {h : Half} (unfilled : ∀ b, h ≠ .filling b) : h.filled = h := by
  cases h with
  | filling b => exact absurd rfl (unfilled b)
  | _ => rfl

theorem fillingBlock_none (first : ∀ b, e.half0 ≠ .filling b) (second : ∀ b, e.half1 ≠ .filling b) :
    e.fillingBlock = none := by
  unfold ExportEngine.fillingBlock
  generalize e.half0 = x at first
  generalize e.half1 = y at second
  cases x with
  | filling b => exact absurd rfl (first b)
  | _ =>
    cases y with
    | filling b => exact absurd rfl (second b)
    | _ => rfl

theorem fillingBlock_half0 (filling : e.half0 = .filling b) : e.fillingBlock = some b := by
  unfold ExportEngine.fillingBlock
  rw [filling]

theorem fillingBlock_half1 (first : ∀ b, e.half0 ≠ .filling b) (filling : e.half1 = .filling b) :
    e.fillingBlock = some b := by
  unfold ExportEngine.fillingBlock
  rw [filling]
  cases half : e.half0 with
  | filling a => exact absurd half (first a)
  | _ => rfl

theorem stallExpired_none (none' : s.exporter.job = none) : s.stallExpired = s := by
  unfold State.stallExpired
  rw [none']

theorem stallExpired_early (job : s.exporter.job = some r) (early : r.phase ≠ .waiting ∨ s.due r.stall = false) :
    s.stallExpired = s := by
  unfold State.stallExpired
  rw [job]
  refine if_neg fun ⟨waiting, due⟩ => ?_
  obtain other | running := early
  · exact other waiting
  · rw [running] at due
    cases due

theorem stallExpired_due (job : s.exporter.job = some r) (waiting : r.phase = .waiting) (due : s.due r.stall = true) :
    s.stallExpired = ((s.endJob r.job .stalled (byteOf r.clip.val :: bytes2 r.blocksSent ++
      bytes2 (s.exporter.firstUnsent r))).setExporter ⟨none, .empty, .empty⟩).completeClip r.clip .exportEnded := by
  unfold State.stallExpired
  rw [job]
  exact if_pos ⟨waiting, due⟩

/-! ## The end of a transmission (R168) -/

theorem sent_unsent {h : Half} (unsent : ∀ b, h ≠ .sending b) : h.sent = h := by
  cases h with
  | sending b => exact absurd rfl (unsent b)
  | _ => rfl

theorem transmissionEnds_ending (job : s.exporter.job = some r) (ending : r.phase = .ending) :
    s.transmissionEnds = s.setExporter { s.exporter.mapHalves Half.sent with job := none } := by
  unfold State.transmissionEnds
  dsimp only
  rw [show (s.exporter.mapHalves Half.sent).job = some r from job]
  exact if_pos ending

/-- Whether an EXPORT has nothing left to send, its halves as given (R168). -/
def ExportEngine.drained (e : ExportEngine) (r : ExportRecord) : Bool :=
  r.nextFrame.isNone && !e.anyHalf Half.isFull && !e.anyHalf Half.isFilling

theorem transmissionEnds_last (job : s.exporter.job = some r) (active : r.phase ≠ .ending)
    (drained : (s.exporter.mapHalves Half.sent).drained r = true) : s.transmissionEnds =
      ((s.endJob r.job .ok (byteOf r.clip.val :: bytes2 (r.blocksSent + 1))).setExporter
        { s.exporter.mapHalves Half.sent with job := none }).completeClip r.clip .exportEnded := by
  unfold State.transmissionEnds
  dsimp only
  rw [show (s.exporter.mapHalves Half.sent).job = some r from job]
  dsimp only
  rw [if_neg active]
  exact if_pos drained

theorem transmissionEnds_more (job : s.exporter.job = some r) (active : r.phase ≠ .ending)
    (undrained : (s.exporter.mapHalves Half.sent).drained r = false) : s.transmissionEnds =
      (s.setExporter { s.exporter.mapHalves Half.sent with
        job := some { r with blocksSent := r.blocksSent + 1 } }).stageOrWait := by
  unfold State.transmissionEnds
  dsimp only
  rw [show (s.exporter.mapHalves Half.sent).job = some r from job]
  dsimp only
  rw [if_neg active]
  exact if_neg (Bool.eq_false_iff.1 undrained)

end Sys2Proof.Machine
end

section
/-! The bytes of a frame image (R165). -/

namespace Sys2Proof.Machine

variable {pixels : List Host.Cell} {slot : SlotNo} {g : Geometry}

/-- The sum of a value over the square of stored pixels of an image pixel (R165). -/
def squareTotal (scale x y : Nat) (value : Nat → Nat → Nat) : Nat :=
  ((List.range scale).map fun j => ((List.range scale).map fun i => value (x * scale + i) (y * scale + j)).sum).sum

theorem imageLuminance_eq (scale x y : Nat) : imageLuminance pixels slot g scale x y =
    squareTotal scale x y (luminanceAt pixels slot g) / (scale * scale) := rfl

theorem imageChroma_eq (scale x y : Nat) : imageChroma pixels slot g scale x y =
    squareTotal scale x y (fun i j => if i % 2 = x % 2 then chromaAt pixels slot g i j else 0) /
      squareTotal scale x y (fun i _ => (decide (i % 2 = x % 2)).toNat) := by
  have value : (fun i j => if decide (i % 2 = x % 2) = true then chromaAt pixels slot g i j else 0) =
      fun i j => if i % 2 = x % 2 then chromaAt pixels slot g i j else 0 :=
    funext fun i => funext fun j => if_congr decide_eq_true_iff rfl rfl
  rw [← value]
  rfl

theorem squareTotal_one (x y : Nat) (value : Nat → Nat → Nat) : squareTotal 1 x y value = value x y := by
  simp [squareTotal]

/-- The columns of one chroma kind in a row of the square of an image pixel at scale 2 or 4. -/
theorem chromaColumns {scale : Nat} (scaled : scale = 2 ∨ scale = 4) (x : Nat) :
    ((List.range scale).map fun i => (decide ((x * scale + i) % 2 = x % 2)).toNat).sum = scale / 2 := by
  have parity (i : Nat) : (x * scale + i) % 2 = i % 2 := by
    obtain rfl | rfl := scaled <;> omega
  simp only [parity]
  obtain even | odd := Nat.mod_two_eq_zero_or_one x
  · rw [even]
    obtain rfl | rfl := scaled <;> rfl
  · rw [odd]
    obtain rfl | rfl := scaled <;> rfl

theorem squareTotal_chromaColumns {scale : Nat} (scaled : scale = 2 ∨ scale = 4) (x y : Nat) :
    squareTotal scale x y (fun i _ => (decide (i % 2 = x % 2)).toNat) = scale * (scale / 2) := by
  unfold squareTotal
  dsimp only
  rw [chromaColumns scaled, List.map_const', List.sum_replicate, List.length_range, smul_eq_mul]

/-! ## At scale 1 the stored bytes in stored order -/

theorem luminance_stored (n : Nat) : byteOf (imageLuminance pixels slot g 1 (n % (g.width / 1)) (n / (g.width / 1))) =
    Memory.read pixels (slotAddress slot (2 * n)) := by
  rw [imageLuminance_eq, squareTotal_one, Nat.div_one, Nat.div_one, luminanceAt, byteOf_ofToNat, Nat.div_add_mod',
    Nat.mul_comm]

theorem chroma_stored (n : Nat) : byteOf (imageChroma pixels slot g 1 (n % (g.width / 1)) (n / (g.width / 1))) =
    Memory.read pixels (slotAddress slot (2 * n + 1)) := by
  rw [imageChroma_eq, squareTotal_one, squareTotal_one, if_pos rfl, decide_eq_true rfl, Bool.toNat_true, Nat.div_one,
    Nat.div_one, chromaAt, byteOf_ofToNat, Nat.div_add_mod', Nat.mul_comm]

theorem imageByte_luma (scale n : Nat) : imageByte pixels slot g scale .luma n =
    byteOf (imageLuminance pixels slot g scale (n % (g.width / scale)) (n / (g.width / scale))) := rfl

theorem imageByte_even (scale n : Nat) : imageByte pixels slot g scale .full (2 * n) =
    byteOf (imageLuminance pixels slot g scale (n % (g.width / scale)) (n / (g.width / scale))) := by
  have half : 2 * n / 2 = n := by omega
  unfold imageByte
  dsimp only
  rw [if_pos (by omega), half]

theorem imageByte_odd (scale n : Nat) : imageByte pixels slot g scale .full (2 * n + 1) =
    byteOf (imageChroma pixels slot g scale (n % (g.width / scale)) (n / (g.width / scale))) := by
  have half : (2 * n + 1) / 2 = n := by omega
  unfold imageByte
  dsimp only
  rw [if_neg (by omega), half]

theorem imageByte_stored (n : Nat) :
    imageByte pixels slot g 1 .full n = Memory.read pixels (slotAddress slot n) := by
  obtain ⟨p, rfl | rfl⟩ : ∃ p, n = 2 * p ∨ n = 2 * p + 1 := ⟨n / 2, by omega⟩
  · rw [imageByte_even, luminance_stored]
  · rw [imageByte_odd, chroma_stored]

/-- A stored byte of a pixel: its luminance, then its chroma. -/
def storedByte (pixels : List Host.Cell) (slot : SlotNo) (g : Geometry) (i j k : Nat) : Nat :=
  (Memory.read pixels (slotAddress slot ((j * g.width + i) * 2 + k))).toNat

/-- What R165 says of the bytes of a frame image. -/
theorem frameImage (pixels : List Host.Cell) (slot : SlotNo) (g : Geometry) (scale n : Nat) :
    let columns := g.width / scale
    let total := fun (p : Nat) (value : Nat → Nat → Nat) => squareTotal scale (p % columns) (p / columns) value
    let stored := storedByte pixels slot g
    imageSize g scale .luma = columns * (g.height / scale) ∧ imageSize g scale .full = columns * (g.height / scale) * 2 ∧
    (scale = 1 → imageByte pixels slot g scale .luma n = Memory.read pixels (slotAddress slot (2 * n)) ∧
      imageByte pixels slot g scale .full n = Memory.read pixels (slotAddress slot n)) ∧
    (scale = 2 ∨ scale = 4 →
      imageByte pixels slot g scale .luma n = byteOf (total n (fun i j => stored i j 0) / (scale * scale)) ∧
      imageByte pixels slot g scale .full (2 * n) = byteOf (total n (fun i j => stored i j 0) / (scale * scale)) ∧
      imageByte pixels slot g scale .full (2 * n + 1) =
        byteOf (total n (fun i j => if i % 2 = n % columns % 2 then stored i j 1 else 0) / (scale * (scale / 2)))) := by
  intro columns total stored
  have luminance : (fun i j => stored i j 0) = luminanceAt pixels slot g := rfl
  refine ⟨Nat.mul_one _, rfl, fun one => ?_, fun scaled => ⟨?_, ?_, ?_⟩⟩
  · subst one
    exact ⟨(imageByte_luma ..).trans (luminance_stored n), imageByte_stored n⟩
  · rw [imageByte_luma, imageLuminance_eq, luminance]
  · rw [imageByte_even, imageLuminance_eq, luminance]
  · rw [imageByte_odd, imageChroma_eq, squareTotal_chromaColumns scaled]
    rfl

end Sys2Proof.Machine
end

section
/-! EXPORT and EXPORT_ABORT (R164, R170), and the obligation on the EXPORT engine. -/

namespace Sys2Proof.Machine

variable {s : State} {tag n first count scale content : Byte} {r : ExportRecord} {id : ClipId} {k : Clip}

/-! ## EXPORT (R164) -/

theorem contentOf_isNone {b : Byte} : (contentOf b.toNat).isNone = true ↔ ¬(b = 0#8 ∨ b = 1#8) := by
  have zero : b.toNat = 0 ↔ b = 0#8 := (BitVec.toNat_inj (y := 0#8))
  have one : b.toNat = 1 ↔ b = 1#8 := (BitVec.toNat_inj (y := 1#8))
  unfold contentOf
  split
  · next luma => simp [zero.1 luma]
  · split
    · next full => simp [one.1 full]
    · next notZero notOne => simp [mt zero.2 notZero, mt one.2 notOne]

theorem contentOf_getD {b : Byte} (known : b = 0#8 ∨ b = 1#8) :
    (contentOf b.toNat).getD .luma = if b = 0#8 then .luma else .full := by
  obtain rfl | rfl := known <;> rfl

theorem exportFault_eq : exportFault [n, first, count, scale, content] =
    if 7 < n.toNat then some 0
    else if 15 < first.toNat then some 1
    else if ¬(1 ≤ count.toNat ∧ count.toNat ≤ 16) then some 2
    else if ¬(scale = 1#8 ∨ scale = 2#8 ∨ scale = 4#8) then some 3
    else if ¬(content = 0#8 ∨ content = 1#8) then some 4
    else none := by
  have one : scale.toNat = 1 ↔ scale = 1#8 := (BitVec.toNat_inj (y := 1#8))
  have two : scale.toNat = 2 ↔ scale = 2#8 := (BitVec.toNat_inj (y := 2#8))
  have four : scale.toNat = 4 ↔ scale = 4#8 := (BitVec.toNat_inj (y := 4#8))
  unfold exportFault
  simp only [firstBad_cons, firstBad_nil]
  refine if_congr decide_eq_true_iff rfl (if_congr decide_eq_true_iff rfl (if_congr ?_ rfl (if_congr ?_ rfl
    (if_congr contentOf_isNone rfl rfl))))
  · show outside count.toNat 1 16 = true ↔ _
    rw [outside_iff]
    omega
  · show (scale.toNat != 1 && scale.toNat != 2 && scale.toNat != 4) = true ↔ _
    rw [Bool.and_eq_true, Bool.and_eq_true, bne_iff_ne, bne_iff_ne, bne_iff_ne, ne_eq, ne_eq, ne_eq, one, two, four]
    tauto

theorem exportFault_none (fault : exportFault [n, first, count, scale, content] = none) :
    n.toNat ≤ 7 ∧ (content = 0#8 ∨ content = 1#8) := by
  rw [exportFault_eq] at fault
  split_ifs at fault with above _ _ _ unknown
  exact ⟨Nat.not_lt.1 above, unknown⟩

theorem serveExport_refused {f : Nat} (fault : exportFault [n, first, count, scale, content] = some f) :
    serveExport s tag [n, first, count, scale, content] = (s, .badField f) := by
  unfold serveExport
  rw [fault]
  cases clip : clipOf (field1 [n, first, count, scale, content] 0) with
  | some id => rfl
  | none =>
    have above : 7 < n.toNat := by
      by_contra within
      have named := clipOf_val ⟨n.toNat, by omega⟩
      rw [show clipOf n.toNat = none from clip] at named
      cases named
    rw [exportFault_eq, if_pos above] at fault
    cases fault
    rfl

/-- The record of an EXPORT that begins (R164). -/
def exportRecord (id : ClipId) (j : JobId) (first count scale content : Byte) : ExportRecord :=
  { phase := .reading, clip := id, job := j, firstFrame := first.toNat, frameCount := count.toNat, scale := scale.toNat,
    content := if content = 0#8 then .luma else .full, nextFrame := some first.toNat, nextOffset := 0, nextSequence := 0,
    blocksSent := 0, stall := none }

section Passed

variable (fault : exportFault [n, first, count, scale, content] = none)
include fault

theorem serveExport_running (running : s.exporter.job ≠ none) (named : n.toNat = id.val) :
    serveExport s tag [n, first, count, scale, content] = (s, .busy) := by
  have given : clipOf (field1 [n, first, count, scale, content] 0) = some id := (congrArg clipOf named).trans (clipOf_val id)
  unfold serveExport
  rw [fault, given]
  exact if_pos (Option.isSome_iff_ne_none.2 running)

variable (idle : s.exporter.job = none) (named : n.toNat = id.val)
include idle named

theorem serveExport_free (free : s.clip id = none) :
    serveExport s tag [n, first, count, scale, content] = (s, .state) := by
  have given : clipOf (field1 [n, first, count, scale, content] 0) = some id := (congrArg clipOf named).trans (clipOf_val id)
  unfold serveExport
  rw [fault, given]
  dsimp only
  rw [idle, free]
  rfl

theorem serveExport_clip (clip : s.clip id = some k) : serveExport s tag [n, first, count, scale, content] =
    if k.state = .collecting then (s, .state)
    else if k.frames.length < first.toNat + count.toNat then (s, .badField 2)
    else match s.link.freeJob with
      | none => (s, .busy)
      | some j => (s.beginExport (exportRecord id j first count scale content) tag, .accepted j) := by
  have given : clipOf (field1 [n, first, count, scale, content] 0) = some id := (congrArg clipOf named).trans (clipOf_val id)
  unfold serveExport exportRecord
  rw [fault, given, ← contentOf_getD (exportFault_none fault).2]
  dsimp only
  rw [idle, clip]
  rfl

end Passed

theorem beginExport_eq {t : Byte} (clip : s.clip r.clip = some k) : s.beginExport r t =
    (((s.openJob r.job .exportClip r.clip.val t).setClip r.clip (some { k with state := .exporting })).setExporter
      { s.exporter with job := some r }).stageOrWait := by
  have opened : (s.openJob r.job .exportClip r.clip.val t).clip r.clip = some k := clip
  unfold State.beginExport
  dsimp only
  rw [mapClip_some opened]
  rfl

/-! ## EXPORT_ABORT (R170) -/

theorem serveExportAbort_idle (idle : s.exporter.job = none) : serveExportAbort s tag [] = (s, .state) := by
  unfold serveExportAbort
  rw [idle]
  rfl

theorem serveExportAbort_ending (job : s.exporter.job = some r) (ending : r.phase = .ending) :
    serveExportAbort s tag [] = (s, .state) := by
  unfold serveExportAbort
  rw [job]
  exact if_pos ending

theorem serveExportAbort_active (job : s.exporter.job = some r) (active : r.phase ≠ .ending) :
    serveExportAbort s tag [] = (s.abortExport r, .ok [byteOf r.job.val]) := by
  unfold serveExportAbort
  rw [job]
  exact if_neg active

/-! ## The tests of the halves (R163, R167, R168) -/

theorem mayStage_eq (e : ExportEngine) (r : ExportRecord) : e.mayStage r =
    (!(e.half0.isFilling || e.half1.isFilling) && (e.half0.isEmpty || e.half1.isEmpty) && r.nextFrame.isSome) := rfl

theorem waits_eq (e : ExportEngine) (r : ExportRecord) : e.waits r =
    (!(e.half0.isFilling || e.half1.isFilling) && !(e.half0.isSending || e.half1.isSending) &&
      (e.half0.isFull || e.half1.isFull) && !e.mayStage r) := rfl

theorem stageOrWait_filling {b : Block} (job : s.exporter.job = some r)
    (filling : s.exporter.half0 = .filling b ∨ s.exporter.half1 = .filling b) : s.stageOrWait = s := by
  refine stageOrWait_rests job ?_ ?_
  · rw [mayStage_eq]
    obtain half | half := filling
    all_goals rw [half]; simp [Half.isFilling]
  · rw [waits_eq]
    obtain half | half := filling
    all_goals rw [half]; simp [Half.isFilling]

theorem stageOrWait_full (job : s.exporter.job = some r) (reading : r.phase = .reading)
    (mayNot : s.exporter.mayStage r = false)
    (halves : (∃ a b, s.exporter.half0 = .full a ∧ s.exporter.half1 = .full b) ∨
      (∃ a, s.exporter.half0 = .full a ∧ s.exporter.half1 = .empty) ∨
      ∃ a, s.exporter.half0 = .empty ∧ s.exporter.half1 = .full a) :
    s.stageOrWait =
      s.setExporter { s.exporter with job := some { r with phase := .waiting, stall := some (s.elapsed + 5000) } } := by
  refine stageOrWait_waits job reading mayNot ?_
  rw [waits_eq, mayNot]
  obtain ⟨a, b, half0, half1⟩ | ⟨a, half0, half1⟩ | ⟨a, half0, half1⟩ := halves
  all_goals rw [half0, half1]; rfl

/-- With a half SENDING and no other to fill the engine rests (R167, R169). -/
theorem stageOrWait_sending {x : Half} {b : Block} (job : s.exporter.job = some r)
    (halves : (s.exporter.half0 = .sending b ∧ s.exporter.half1 = x) ∨ (s.exporter.half1 = .sending b ∧ s.exporter.half0 = x))
    (nothing : x ≠ .empty ∨ r.nextFrame = none) : s.stageOrWait = s := by
  refine stageOrWait_rests job ?_ ?_
  · rw [mayStage_eq]
    obtain taken | last := nothing
    · obtain ⟨half, other⟩ | ⟨half, other⟩ := halves
      all_goals rw [half, other, isEmpty_false taken]; simp [Half.isEmpty]
    · rw [last, Option.isSome_none, Bool.and_false]
  · rw [waits_eq]
    obtain ⟨half, other⟩ | ⟨half, other⟩ := halves
    all_goals rw [half]; simp [Half.isSending]

end Sys2Proof.Machine
end

section
/-! The obligation on the EXPORT engine. -/

namespace Sys2Proof.Machine

variable {s : State} {r : ExportRecord} {b : Block} {other : Half}

/-! ## A transmission that ends (R168) -/

theorem drained_more {e : ExportEngine} (unsent : ∀ x, other ≠ .sending x)
    (more : r.nextFrame ≠ none ∨ other ≠ .empty)
    (halves : (e.half0 = .empty ∧ e.half1 = other) ∨ (e.half0 = other ∧ e.half1 = .empty)) : e.drained r = false := by
  obtain next | busy := more
  · cases frame : r.nextFrame with
    | none => exact absurd frame next
    | some n =>
      rw [ExportEngine.drained, frame]
      rfl
  · have held : other.isFull = true ∨ other.isFilling = true := by
      cases other with
      | empty => exact absurd rfl busy
      | sending x => exact absurd rfl (unsent x)
      | filling x => exact .inr rfl
      | full x => exact .inl rfl
    unfold ExportEngine.drained ExportEngine.anyHalf
    obtain ⟨half0, half1⟩ | ⟨half0, half1⟩ := halves
    all_goals
      rw [half0, half1]
      obtain held | held := held
      all_goals simp [held]

/-- The engine after the end of a transmission, with a job (R168). -/
def ExportEngine.emptied (e : ExportEngine) (other : Half) (job : Option ExportRecord) : ExportEngine :=
  match e.half0 with
  | .sending _ => ⟨job, .empty, other⟩
  | _ => ⟨job, other, .empty⟩

theorem mapHalves_sent {e : ExportEngine} (unsent : ∀ x, other ≠ .sending x)
    (halves : (e.half0 = .sending b ∧ e.half1 = other) ∨ (e.half0 = other ∧ e.half1 = .sending b)) :
    (∀ job, { e.mapHalves Half.sent with job := job } = e.emptied other job) ∧
    (((e.mapHalves Half.sent).half0 = .empty ∧ (e.mapHalves Half.sent).half1 = other) ∨
      ((e.mapHalves Half.sent).half0 = other ∧ (e.mapHalves Half.sent).half1 = .empty)) := by
  unfold ExportEngine.emptied ExportEngine.mapHalves
  obtain ⟨half0, half1⟩ | ⟨half0, half1⟩ := halves
  · rw [half0, half1, sent_unsent unsent]
    exact ⟨fun job => rfl, .inl ⟨rfl, rfl⟩⟩
  · rw [half0, half1, sent_unsent unsent]
    refine ⟨fun job => ?_, .inr ⟨rfl, rfl⟩⟩
    cases other with
    | sending x => exact absurd rfl (unsent x)
    | _ => rfl

theorem transmissionEnds_cases (job : s.exporter.job = some r) (unsent : ∀ x, other ≠ .sending x)
    (halves : (s.exporter.half0 = .sending b ∧ s.exporter.half1 = other) ∨
      (s.exporter.half0 = other ∧ s.exporter.half1 = .sending b)) :
    let emptied := s.exporter.emptied other
    (r.phase = .ending → s.transmissionEnds = s.setExporter (emptied none)) ∧
    (r.phase ≠ .ending → r.nextFrame = none → other = .empty → s.transmissionEnds
      = ((s.endJob r.job .ok (byteOf r.clip.val :: bytes2 (r.blocksSent + 1))).setExporter (emptied none)
        ).completeClip r.clip .exportEnded) ∧
    (r.phase ≠ .ending → r.nextFrame ≠ none ∨ other ≠ .empty → s.transmissionEnds
      = (s.setExporter (emptied (some { r with blocksSent := r.blocksSent + 1 }))).stageOrWait) := by
  intro emptied
  obtain ⟨engine, left⟩ := mapHalves_sent unsent halves
  refine ⟨fun ending => ?_, fun active next empty => ?_, fun active more => ?_⟩
  · rw [transmissionEnds_ending job ending, engine]
  · have drained : (s.exporter.mapHalves Half.sent).drained r = true := by
      have both : (s.exporter.mapHalves Half.sent).half0 = .empty ∧ (s.exporter.mapHalves Half.sent).half1 = .empty := by
        rw [empty] at left
        exact left.elim id id
      rw [ExportEngine.drained, ExportEngine.anyHalf, ExportEngine.anyHalf, both.1, both.2, next]
      rfl
    rw [transmissionEnds_last job active drained, engine]
  · rw [transmissionEnds_more job active (drained_more unsent more left), engine]

/-! ## A fill that ends (R167) -/

/-- What FILL_END leaves of an EXPORT, with its halves as they become (R167). -/
theorem fillEnds_cases {k : Clip} {entry : FrameEntry} {f : FrameFields} {half0 half1 : Half}
    (job : s.exporter.job = some r) (filling : s.exporter.fillingBlock = some b) (clip : s.clip r.clip = some k)
    (listed : k.frames[b.frame]? = some entry) (frame : s.slots.frame entry.slot = some f)
    (filled : s.exporter.mapHalves Half.filled = ⟨s.exporter.job, half0, half1⟩) :
    let size := imageSize f.geometry r.scale r.content
    let reached := b.offset + b.bytes.length
    let following := if b.frame + 1 < r.firstFrame + r.frameCount then some (b.frame + 1) else none
    (reached < size → s.fillEnds = (s.setExporter ⟨some { r with
      nextSequence := r.nextSequence + 1, nextOffset := reached }, half0, half1⟩).stageOrWait) ∧
    (size ≤ reached → s.fillEnds = (s.setExporter ⟨some { r with
      nextSequence := r.nextSequence + 1, nextOffset := 0, nextFrame := following }, half0, half1⟩).stageOrWait) := by
  intro size reached following
  have ended := fillEnds_filling job filling clip listed frame
  rw [filled] at ended
  refine ⟨fun within => ?_, fun past => ?_⟩
  · rw [ended, advanced_within within]
  · rw [ended, advanced_past past]

theorem exec_fillEnd (unasked : s.Unasked) : exec .fillEnd s = .next s.fillEnds.sendIfDue := exec_unasked unasked rfl

theorem exec_stallTimer (unasked : s.Unasked) : exec .stallTimerExpiry s = .next s.stallExpired.sendIfDue :=
  exec_unasked unasked rfl

/-- Settles O56. -/
theorem exportEngine : Obligations.ExportEngine := by
  unfold Obligations.ExportEngine
  refine ⟨?_, ?_, ?_, ?_, ?_, ?_, frameImage⟩
  · exact fun e r => ⟨fun a b => firstUnsent_both, fun a => firstUnsent_half0, fun b => firstUnsent_half1,
      fun unfull => firstUnsent_none (fun a => (unfull a).1) fun a => (unfull a).2⟩
  · intro s tag n first count scale content takes answered
    have served {t : State} {a : Answer} (block : serveExport s tag [n, first, count, scale, content] = (t, a)) :
        answered t a := exec_requestOfKind_served (kind := .exportClip) takes (by simp) rfl block
    let begun : Prop := if s.exporter.job ≠ none then answered s .busy
      else ∀ id : ClipId, n.toNat = id.val → (s.clip id = none → answered s .state) ∧
        ∀ k, s.clip id = some k →
          if k.state = .collecting then answered s .state
          else if k.frames.length < first.toNat + count.toNat then answered s (.badField 2)
          else (s.link.freeJob = none → answered s .busy) ∧ ∀ j, s.link.freeJob = some j →
            answered (((s.openJob j .exportClip id.val tag).setClip id (some { k with state := .exporting })).setExporter
              { s.exporter with job := some (exportRecord id j first count scale content) }).stageOrWait (.accepted j)
    let reply : Option Nat → Prop
      | some f => answered s (.badField f)
      | none => begun
    have replied : reply (exportFault [n, first, count, scale, content]) := by
      cases fault : exportFault [n, first, count, scale, content] with
      | some f => exact served (serveExport_refused fault)
      | none =>
        have within := (exportFault_none fault).1
        show if _ then _ else _
        split_ifs with running
        · exact served (serveExport_running (id := ⟨n.toNat, by omega⟩) fault running rfl)
        · intro id named
          have idle : s.exporter.job = none := not_not.1 running
          refine ⟨fun free => served (serveExport_free fault idle named free), fun k clip => ?_⟩
          have block := serveExport_clip (tag := tag) fault idle named clip
          split_ifs with collecting short
          · exact served (block.trans (if_pos collecting))
          · exact served (by rw [block, if_neg collecting, if_pos short])
          · rw [if_neg collecting, if_neg short] at block
            refine ⟨fun full => served (by rw [block, full]), fun j free => served ?_⟩
            rw [block, free]
            exact congrArg (·, _) (beginExport_eq (r := exportRecord id j first count scale content) clip)
    rw [exportFault_eq] at replied
    simp only [apply_ite reply] at replied
    exact replied
  · intro s tag takes answered
    have served {t : State} {a : Answer} (block : serveExportAbort s tag [] = (t, a)) : answered t a :=
      exec_requestOfKind_served (kind := .exportAbort) takes (by simp) rfl block
    refine ⟨fun idle => served (serveExportAbort_idle idle), fun r job =>
      ⟨fun ending => served (serveExportAbort_ending job ending), fun active => ?_⟩⟩
    intro kept ended sending
    have same : kept = Half.discarded := funext fun h => by cases h <;> rfl
    have block := serveExportAbort_active (tag := tag) job active
    obtain ⟨going, still⟩ := abortExport_eq s r
    unfold State.abortEnded at going still
    rw [← same] at going still
    exact ⟨fun sends => served (by rw [block, going sends]), fun quiet => served (by rw [block, still quiet])⟩
  · intro s r job
    refine ⟨stageOrWait_notReading job, ?_, fun a b reading half0 half1 => ?_, fun a reading last halves => ?_,
      fun a => stageOrWait_filling job, fun a half0 nothing => ?_, fun a half1 nothing => ?_⟩
    · intro n k entry f reading next clip listed frame bytes block
      have staged := nextBlock_some next clip listed frame
      refine ⟨fun empty unfilled => ?_, fun empty taken unfilled => ?_⟩
      · have may : s.exporter.mayStage r = true := by
          rw [mayStage_eq, empty, isFilling_false unfilled, next]
          rfl
        rw [stageOrWait_stages job reading may staged, empty]
        rfl
      · have may : s.exporter.mayStage r = true := by
          rw [mayStage_eq, empty, isFilling_false unfilled, next, isEmpty_false taken]
          rfl
        rw [stageOrWait_stages job reading may staged, if_neg (by rw [isEmpty_false taken]; decide)]
    · refine stageOrWait_full job reading ?_ (.inl ⟨a, b, half0, half1⟩)
      rw [mayStage_eq, half0, half1]
      rfl
    · refine stageOrWait_full job reading ?_ (.inr (halves.imp (⟨a, ·⟩) (⟨a, ·⟩)))
      rw [mayStage_eq, last, Option.isSome_none, Bool.and_false]
    · exact stageOrWait_sending job (.inl ⟨half0, rfl⟩) nothing
    · exact stageOrWait_sending job (.inr ⟨half1, rfl⟩) nothing
  · intro s unasked
    have filled := exec_fillEnd unasked
    have stalled := exec_stallTimer unasked
    refine ⟨fun idle => ⟨?_, ?_⟩, fun r job => ⟨fun unfilled => ?_, fun b k entry f half0 clip listed frame half1 => ?_,
      fun b k entry f half1 clip listed frame half0 => ?_, fun other => ?_, fun early => ?_, fun d waiting running reached => ?_⟩⟩
    · rw [filled, fillEnds_idle (.inl idle)]
    · rw [stalled, stallExpired_none idle]
    · rw [filled, fillEnds_idle (.inr (fillingBlock_none (fun b => (unfilled b).1) fun b => (unfilled b).2))]
    · intro size reached following full
      obtain ⟨within, past⟩ := fillEnds_cases (half0 := .full b) (half1 := s.exporter.half1) job (fillingBlock_half0 half0)
        clip listed frame (by rw [ExportEngine.mapHalves, half0, filled_unfilled half1]; rfl)
      exact ⟨fun less => by rw [filled, within less], fun more => by rw [filled, past more]⟩
    · intro size reached following full
      obtain ⟨within, past⟩ := fillEnds_cases (half0 := s.exporter.half0) (half1 := .full b) job
        (fillingBlock_half1 half0 half1) clip listed frame
        (by rw [ExportEngine.mapHalves, half1, filled_unfilled half0]; rfl)
      exact ⟨fun less => by rw [filled, within less], fun more => by rw [filled, past more]⟩
    · rw [stalled, stallExpired_early job (.inl other)]
    · rw [stalled, stallExpired_early job (.inr (due_false early))]
    · rw [stalled, stallExpired_due job waiting ((due_iff s _).2 ⟨d, running, reached⟩)]
  · intro s r b other job unsent halves emptied
    exact transmissionEnds_cases job unsent halves

end Sys2Proof.Machine
end
